-- ==== Sys2Proof/Word.lean ====
section
/-!
DEFINITION. The words of the model: bytes and the numbers of its parts (spec/00_scope.md R8 to R11, R14).
-/
namespace Sys2Proof

/-- A byte. -/
abbrev Byte := BitVec 8
/-- A clk phase within a tread, 0 to 37,599 (R11, R32). -/
abbrev Clk := Fin 37600
/-- A PCIe function: 0 is the PF, v is VFv (R14). -/
abbrev Fn := Fin 33
/-- A wing, 0 to 31; wing w is bound to VF(w + 1) (R14). -/
abbrev WingId := Fin 32
/-- A logical core (R14). -/
abbrev CoreId := Fin 800
/-- A physical core (R14). -/
abbrev PhysId := Fin 832
/-- A port: 0 to 7 are H0 to H7, 8 is T (R14). -/
abbrev PortId := Fin 9
/-- A DMA channel (R14). -/
abbrev ChanId := Fin 256
/-- An HBM channel, 16 × stack + channel within the stack (spec/06_memory.md R126). -/
abbrev HbmCh := Fin 128
/-- A gallery slice (R14). -/
abbrev SliceId := Fin 32

/-- A sparse table: entries with rising keys; a key that is not listed holds the table's default. -/
abbrev Tab (α : Type) := List (Nat × α)

end Sys2Proof
end

