-- ==== Sys2Proof/Syntax.lean ====
section
/-!
DEFINITION. The commands of the module: one constructor of `Instr` for each row of spec/opcode_table.json, with the
operands that the environment supplies with it. What the environment alone can know (a measured value, a neighbour's cell,
the moment within the tread) is an operand.
-/
namespace Sys2Proof

/-- A home or a guest context slot of a core (spec/03_core.md R74). -/
inductive CtxSlot | home | guest
deriving DecidableEq, Repr

/-- The capabilities that Table 20.2 names, those that R440 names as absent, and any other (spec/20_host_links.md R440). -/
inductive PciCap
  | pciExpress | powerManagement | msix | aer | sriov | ari | deviceSerial | dataLinkFeature | phys16 | phys32 | phys64 | phys128
  | laneMargining | flr | ats | pri | pasid | tph | resizableBar | ide | acs | other
deriving DecidableEq, Repr

/-- The fields of PCIe configuration space that the module answers (spec/20_host_links.md R440 to R443); a capability reads 1 where it is
present. -/
inductive CfgField
  | vendorId | deviceId | revisionId | classCode | subsystemVendorId | totalVFs | initialVFs | firstVFOffset | vfStride
  | vfDeviceId | numVFs | vfEnable | powerState | msixEnable | functionMask | capability (c : PciCap) | bar (n : Fin 6) | vfBar (n : Fin 6)
deriving DecidableEq, Repr

/-- What the module samples or measures at a tread boundary: mean input power of the tread that ends, in µW (R57), the
hottest included sensor in 1/8 °C (R424, R478), the level of PWR_BRAKE_N (R475), whether the self-test window holds (R425), and whether rows
come within the gap of a step that is due here (R42, R43). -/
structure BoundaryEnv where
  powerUw : Nat
  temp8 : Int
  brakeLow : Bool
  inWindow : Bool
  gap : Bool
deriving DecidableEq, Repr

/-- The fields of a hall-time marker (spec/02_time.md Table 2.3). -/
structure MarkerMsg where
  tread : Nat
  txPhase : Nat
  echoTread : Nat
  echoPhase : Nat
  root : Nat
  hops : Nat
  state : Nat
deriving DecidableEq, Repr

/-- A frame of the hall fabric (spec/14_hall_fabric.md Table 14.5). `rsv` is true when any reserved field is nonzero. -/
structure Frame where
  typ : Nat
  vc : Nat
  pzn : Bool
  first : Bool
  last : Bool
  prio : Nat
  dst : Nat
  src : Nat
  dwing : Nat
  swing : Nat
  lenw : Nat
  pool : Nat
  tag : Nat
  status : Nat
  addr : Nat
  epoch : Nat
  rlen : Nat
  rsv : Bool
  payload : List Byte
deriving DecidableEq, Repr

/-- A whole record as joined by the receiver (R317): the port, the header fields of its frames (`nblk` is their EPOCH), its poison flag, its
bytes, the VC and POOL of its frames on this hop, the payload bytes of each frame in order, and the format of its row where that is
known (no field of a token or return record names it). -/
structure RecIn where
  port : Nat
  src : Nat
  swing : Nat
  dwing : Nat
  pzn : Bool
  addr : Nat
  nblk : Nat
  bytes : List Byte
  vc : Nat
  pool : Nat
  lens : List Nat
  fmt : Option Nat := none
deriving DecidableEq, Repr

/-- A thing the FLASH task does in a slice (spec/19_service.md R428, R429). -/
inductive FlashOp
  | rewrite (block : Nat)
  | retire (block : Nat) (copyLost : Option (Nat × Nat × Nat))
  | eraseDone (block : Nat)
  | fwCopy (slot copy : Nat)
  | level (channel : Nat)
  | passEnd
deriving DecidableEq, Repr

/-- Which part of TRD_NOW a read names (spec/02_time.md R59). -/
inductive NowPart | lo32 | hi32 | full64
deriving DecidableEq, Repr

/-- A store whose patrol scrub can be late (spec/06_memory.md Table 6.4). -/
inductive ScrubStore | hbm | gallery | sram
deriving DecidableEq, Repr

/-- The state a device behind a CXL port presents at link-up (spec/20_host_links.md R446, R447). -/
structure CxlPartner where
  type3Direct : Bool
  capacity : Nat
  speed : Nat
  width : Nat
deriving DecidableEq, Repr

/-- What the read of a shard's copy gave (spec/17_trust.md R396): the bytes as they were written, other bytes, or only the bytes before a
page that was uncorrectable or lay in a retired block. -/
inductive ShardRead
  | asStored
  | other (bytes : List Byte)
  | unreadable (got : List Byte)
deriving DecidableEq, Repr

/-- The commands: the rows of spec/opcode_table.json, in the table's order. -/
inductive Instr
  | powerOn (sbAddr : Fin 4) (i3c : Bool)
  | resetInputAssert (perst : Bool) (ge100us : Bool)
  | startUpBegin
  | bootRom (bad : BitVec 4)
  | memoryInit (trainFail : List HbmCh)
  | startupSelftest (coreFail : List PhysId) (sliceFail : List SliceId) (sensorBad : BitVec 64) (monBad : BitVec 32)
      (pllDev16 : Nat)
  | configRequest (fn : Fn) (field : CfgField) (write : Option (BitVec 32))
  | inputUndervoltage (mv us : Nat)
  | inputOvervoltage (mv us : Nat)
  | thermalTrip (temp8 : Int) (analogue : Bool)
  | vfFlr (w : WingId) (clk : Clk)
  | vfEnableChange (numVFs : Nat) (enable : Bool) (clk : Clk)
  | pfD3hot
  | pfD0Return
  | treadBoundary (env : BoundaryEnv)
  | lockAcquired (env : BoundaryEnv)
  | lockLost (env : BoundaryEnv)
  | parentLost (env : BoundaryEnv)
  | holdoverExpiry (env : BoundaryEnv)
  | acquireNoSource (env : BoundaryEnv)
  | entryAbandon (core : CoreId) (env : BoundaryEnv)
  | flightDone (w : WingId) (env : BoundaryEnv)
  | landTimeout (w : WingId) (env : BoundaryEnv)
  | quiesceTimeout (w : WingId) (env : BoundaryEnv)
  | tretDeadline (w : WingId) (xid : Fin 4096) (env : BoundaryEnv)
  | unitDiverge (kind : Fin 5) (unit : Fin 832) (env : BoundaryEnv)
  | landingTreadSweep (w : WingId)
  | mbxCmdDb (fn : Fn) (value : BitVec 32)
  | mbxCtrlEn (fn : Fn) (value : BitVec 32)
  | mbxCplHead (fn : Fn) (value : BitVec 32)
  | nop (fn : Fn) (clk : Clk)
  | identify (fn : Fn) (clk : Clk)
  | cfgLoad (fn : Fn) (clk : Clk)
  | flightLoad (fn : Fn) (clk : Clk)
  | flightSwitch (fn : Fn) (clk : Clk)
  | flightStop (fn : Fn) (clk : Clk)
  | flightUnload (fn : Fn) (clk : Clk)
  | guestLoad (fn : Fn) (clk : Clk)
  | seqAdmit (fn : Fn) (clk : Clk)
  | seqFork (fn : Fn) (clk : Clk)
  | seqCancel (fn : Fn) (clk : Clk)
  | seqPark (fn : Fn) (clk : Clk)
  | seqResume (fn : Fn) (clk : Clk)
  | epochFlip (fn : Fn) (clk : Clk)
  | adapterLoad (fn : Fn) (clk : Clk)
  | adapterDrop (fn : Fn) (clk : Clk)
  | prefixRegister (fn : Fn) (clk : Clk)
  | prefixDrop (fn : Fn) (clk : Clk)
  | layoutLoad (fn : Fn) (clk : Clk)
  | turnLand (fn : Fn) (clk : Clk)
  | turnAbort (fn : Fn) (clk : Clk)
  | ctxSwitch (fn : Fn) (clk : Clk)
  | ctxSet (fn : Fn) (clk : Clk)
  | semAcquire (fn : Fn) (clk : Clk)
  | semRelease (fn : Fn) (clk : Clk)
  | wingQuiesce (fn : Fn) (clk : Clk)
  | wingReset (fn : Fn) (clk : Clk)
  | deviceReset (fn : Fn) (clk : Clk)
  | unitQuery (fn : Fn) (clk : Clk)
  | unitSet (fn : Fn) (clk : Clk)
  | hbmRetire (fn : Fn) (clk : Clk)
  | repairList (fn : Fn) (clk : Clk)
  | repairFuse (fn : Fn) (clk : Clk)
  | coreSpare (fn : Fn) (clk : Clk)
  | pll (fn : Fn) (clk : Clk)
  | vmon (fn : Fn) (clk : Clk)
  | tsense (fn : Fn) (clk : Clk)
  | nearLb (fn : Fn) (clk : Clk)
  | farLb (fn : Fn) (clk : Clk)
  | lbServe (fn : Fn) (clk : Clk)
  | cxlLb (fn : Fn) (clk : Clk)
  | coreScan (fn : Fn) (clk : Clk)
  | modelLoad (fn : Fn) (clk : Clk)
  | imageWrite (fn : Fn) (clk : Clk)
  | imageErase (fn : Fn) (clk : Clk)
  | imageList (fn : Fn) (clk : Clk)
  | attest (fn : Fn) (clk : Clk)
  | fwStage (fn : Fn) (clk : Clk)
  | fwActivate (fn : Fn) (clk : Clk)
  | fwActivateTimeout
  | accSnapshot (fn : Fn) (clk : Clk)
  | newelWatchdog
  | newelSramUe
  | newelRestartDone (tableBad : Bool)
  | dmaChTail (fn : Fn) (w : WingId) (idx : ChanId) (value : BitVec 32)
  | dmaChCtrlEn (fn : Fn) (w : WingId) (idx : ChanId) (value : BitVec 32)
  | dmaList (ch : ChanId) (clk : Clk)
  | dmaGrid (ch : ChanId) (clk : Clk)
  | dmaChStatClear (fn : Fn) (w : WingId) (idx : ChanId) (value : BitVec 32)
  | wngFltClear (fn : Fn) (w : WingId) (value : BitVec 64)
  | svcBistClear (value : BitVec 32)
  | pciErrClear (value : BitVec 32)
  | trdNowRead (fn : Fn) (part : NowPart) (clk : Clk)
  | halPortRetrain (port : PortId) (value : BitVec 64)
  | trnForce (fn : Fn) (w : WingId) (value : BitVec 32)
  | accCons (value : BitVec 32)
  | registerWrite (fn : Fn) (offset : Nat) (wide : Bool) (value : BitVec 64)
  | badSizeAccess (fn : Fn) (offset : Nat) (size : Nat) (isWrite : Bool)
  | vector (core : CoreId) (slot : CtxSlot)
  | matmul (core : CoreId) (slot : CtxSlot)
  | attn (core : CoreId) (slot : CtxSlot)
  | route (core : CoreId) (slot : CtxSlot)
  | plan (core : CoreId) (slot : CtxSlot)
  | draft (core : CoreId) (slot : CtxSlot)
  | verify (core : CoreId) (slot : CtxSlot)
  | send (core : CoreId) (slot : CtxSlot)
  | openRound (core : CoreId) (slot : CtxSlot)
  | accum (core : CoreId) (slot : CtxSlot)
  | close (core : CoreId) (slot : CtxSlot)
  | topen (core : CoreId) (slot : CtxSlot)
  | tclose (core : CoreId) (slot : CtxSlot)
  | returnRows (core : CoreId) (slot : CtxSlot)
  | combine (core : CoreId) (slot : CtxSlot)
  | update (core : CoreId) (slot : CtxSlot)
  | vote (core : CoreId) (slot : CtxSlot)
  | verdict (core : CoreId) (slot : CtxSlot)
  | loss (core : CoreId) (slot : CtxSlot)
  | advance (core : CoreId) (slot : CtxSlot)
  | xform (core : CoreId) (slot : CtxSlot)
  | convert (core : CoreId) (slot : CtxSlot)
  | deltaSend (core : CoreId) (slot : CtxSlot)
  | streamBlockIssue (core : CoreId) (slot : CtxSlot) (block : Nat) (clk : Clk)
  | blockRetire (core : CoreId) (slot : CtxSlot) (block : Nat) (clk : Clk)
  | entryWorkEnd (core : CoreId) (slot : CtxSlot) (clk : Clk)
  | kvCopyLands (w : WingId) (copy : Nat) (clk : Clk)
  | contextSaveLands (w : WingId)
  | replacementTread (core : CoreId)
  | migrate (ch : HbmCh) (granules : Nat)
  | rowfix (ch : HbmCh) (bank : Fin 16) (row : Nat)
  | linefix (slice : SliceId) (set : Fin 4096) (way : Fin 16)
  | scrubHbm (granule : Nat)
  | scrubGal (slice : SliceId) (set : Fin 4096) (way : Fin 16)
  | scrubSram (core : CoreId) (word : Nat)
  | scrubLate (store : ScrubStore)
  | serdesCal (port : Fin 12) (step : List Int) (atLimit done : Bool)
  | tempCal (bad : BitVec 64)
  | monitor (pllDev16 : Nat) (refDev16 : Nat) (monBad : BitVec 32)
  | flash (op : FlashOp)
  | logout (n : Nat)
  | telem (n : Nat)
  | sliceDefer (task : Fin 14)
  | hbmChannelFault (ch : HbmCh) (training : Bool)
  | gallerySliceFault (slice : SliceId) (unreadable : List Nat)
  | shardReadDone (w : WingId) (shard : Nat) (read : ShardRead)
  | flashCopyTimeout (w : WingId) (shard : Nat) (got : List Byte)
  | portSignalDetect (port : PortId)
  | codewordLock (port : PortId)
  | codewordLockLoss (port : PortId)
  | trainTimeout (port : PortId)
  | retrainTimeout (port : PortId)
  | cellReceive (port : PortId) (uncorrectable : Bool) (header : BitVec 20) (body : List Byte) (clk : Clk) (eighth : Fin 8)
  | marker (port : PortId) (msg : MarkerMsg) (clk : Clk) (eighth : Fin 8)
  | ack (port : PortId) (cseq : Fin 4096)
  | nak (port : PortId) (cseq : Fin 4096)
  | credit (port : PortId) (vc : Fin 6) (pool : Fin 33) (freed : Fin 65536)
  | neigh (port : PortId) (num : Fin 131072) (nport : Fin 16) (keep : Bool)
  | replayTimeout (port : PortId)
  | retryLimit (port : PortId)
  | frameTransmit (port : PortId)
  | frameForward (port : PortId) (frame : Frame) (headerBad payloadBad : Bool)
  | rdreq (port : PortId) (frame : Frame) (clk : Clk)
  | rdrsp (port : PortId) (frame : Frame) (clk : Clk)
  | wrreq (port : PortId) (frame : Frame) (clk : Clk)
  | wrrsp (port : PortId) (frame : Frame) (clk : Clk)
  | requestTimeout (tag : Nat) (clk : Clk)
  | tokenRecord (rec : RecIn) (clk : Clk)
  | returnRecord (rec : RecIn) (clk : Clk)
  | contributionRecord (rec : RecIn) (clk : Clk)
  | holdPlace (w : WingId) (clk : Clk)
  | deltaRecord (rec : RecIn) (clk : Clk)
  | rawRequestIssue (w : WingId)
  | rawreq (port : PortId) (frame : Frame) (clk : Clk)
  | mirrorBlock (w : WingId)
  | mirrorCommitSend (w : WingId)
  | mirrorRecord (rec : RecIn) (clk : Clk)
  | mirrorCommit (rec : RecIn) (clk : Clk)
  | mirrorFailureReply (rec : RecIn)
  | cxlLinkUp (port : Fin 2) (partner : CxlPartner)
  | cxlLinkDown (port : Fin 2)
  | cxlCompletionTimeout (port : Fin 2) (addr openClk : Nat)
  | cxlReadCompletion (port : Fin 2) (addr : Nat) (poison : Bool)
  | ident (other : Option (BitVec 8))
  | stateRead
  | temp
  | power (mv ma : Nat)
  | alerts
  | alertClr (bytes : List Byte)
  | bcap (write : Option (List Byte))
  | bist
  | tapTlrExit (clk : Clk)
  | tapTlrReturn
  | bypass (code : BitVec 8)
  | idcode
  | samplePreload (preload : Nat)
  | extest (drive : Nat)
  | extestPulse (drive : Nat)
  | extestTrain (drive : Nat)
  | clamp
  | highz
  | dbgAccess (dr : BitVec 128)
  | ctrlCellSend (port : PortId)
  | coreswap (core : CoreId) (pass : Bool)
  | copiesProgrammed (image : Nat) (programmed : Bool)
  | imageStaged
  | itemEnds (item : Fin 8) (unit : Fin 832) (value limit : Nat) (correctable discarded : Bool)
  | fusingEnds (verified : List Nat)
  | reportFormed (clk : Clk)
deriving DecidableEq, Repr

end Sys2Proof
end

