-- ==== Sys2Proof/Decode.lean ====
section
/-!
DEFINITION. Commands by the bits of spec/opcode_table.json. No row of the table states any bits: its rows are operations and events of a
block, named and not encoded. Where a command of the mailbox has an opcode, the decoder of ring entries is `Machine/Mailbox.lean`'s.
-/
namespace Sys2Proof

/-- The command that a word spells by the table's bits: none, since every row of the table has an empty list of fields. -/
def decodeTableWord (_nbits _w : Nat) : Option Instr := none

end Sys2Proof
end

