-- ==== Sys2Proof/Config.lean ====
section
/-!
DEFINITION. What an implementation fixes and the values the spec leaves open. An `opaque` constant has no body: no proof can
see a value of it, so a claim holds for every value. A function of a counter gives a fresh open value at each use.
-/
namespace Sys2Proof.Config

/-- An open value of the spec, fresh for each value of the counter `State.fresh` (log entry 3). -/
opaque freeValue : Nat → Nat
/-- Ralnen's identifier assigned by PCI-SIG, which spec/20 R441 names and does not state. -/
opaque vendorId : BitVec 16
/-- Ralnen's JEP106 identity, which spec/20 Table 20.7 names and does not state. -/
opaque jep106 : BitVec 11
/-- The part's serial number, fused at manufacture (spec/20 R445, R402). -/
opaque serial : BitVec 128
/-- The SECDED check matrix has 39 of the 42 seven-bit columns of weight 1 or 3, which R138 keeps internal: the numbers of the three that it
leaves out, each among those that are left (log entry 25). -/
opaque leftOut : Nat → Nat
/-- Where a migration puts a granule, as a number in the withdrawn range, by retirement and granule: R150 states that it is on a live channel
and no more (log entry 71). -/
opaque moveTo : Nat → Nat → Nat
/-- The Torak version that IDENTIFY returns for an image slot (spec/16 Table 16.5). -/
opaque torakVersion : Nat → Nat

/-- The order in which a core adds the terms of an attention score, sum or output, by their number: R202 and R117 state none (log entry
21). The model takes it when it is an order of those terms. -/
opaque addOrder : Nat → List Nat

/-- An FP32 pattern for the result of an epilogue stage (its code of Table 3.5) on an FP32 operand; the model takes it when it
lies within the error of Table 5.5, since R120 promises that bound and no bit pattern (log entry 8). -/
opaque stageResult : Nat → Nat → Nat

/-- An FP32 pattern for the power of an FP32 pattern by a whole number above 1: R242 raises to the power t and R117 states no such
operation (log entry 23). -/
opaque power : Nat → Nat → Nat

/-- Energy coefficient of a charge class after a number of thermal calibrations, in units of 10 pJ (R412: calibrated at manufacture,
adjusted by R424, not stated). -/
opaque energyCoeff : Nat → Nat → Nat

/-- The BLOCK code of a log item for a register block to which spec/17 R403 gives none (ACC, CXL), by PF BAR0 base. -/
opaque logBlock : Nat → Nat

/-- The fused identity seed of 96 bytes: SK.seed, SK.prf and PK.seed (R401). -/
opaque identitySeed : Nat → Byte
/-- The 32 bytes of randomness that FIPS 205 adds to a signature, by the number of the signing: R406 does not state them (log entry 11). -/
opaque signRandom : Nat → Nat → Byte
/-- Ralnen's device public key, whose key hash the identity certificate carries (R402). -/
opaque deviceKey : List Byte
/-- Ralnen's firmware public key, which the ROM contains (R400, R461). -/
opaque fwKey : List Byte
/-- Bytes of the identity certificate whose values the spec does not state: the signature under Ralnen's device key (R402). -/
opaque certByte : Nat → Byte
/-- CODE_LEN fits the slot and the newel's code memory, whose sizes the spec does not state (R461). -/
opaque codeFits : Nat → Bool
/-- Firmware digest of the slot image written at manufacture (log entry 7). -/
opaque fwDigest : Nat → Byte

/-- Spare rows of an HBM bank, by channel × 16 + bank (R145 names them; the spec states no number, log entry 6). -/
opaque spareRows : Nat → Nat

end Sys2Proof.Config
end

