-- ==== Sys2Proof/Machine/Bits.lean ====
section
/-!
DEFINITION. Bit fields, byte order, tread numbers, list helpers and sparse tables (spec/00_scope.md R9 to R11, spec/02_time.md
R32).
-/
namespace Sys2Proof

/-- Clk in one tread (R11). -/
def treadClk : Nat := 37600

/-- Tread numbers are 48 bits wide and wrap (R32). -/
def treadMod : Nat := 281474976710656

/-- Tread `t` advanced by `n` (R32). -/
def treadAdd (t n : Nat) : Nat := (t + n) % treadMod

/-- The forward distance from tread `a` to tread `b`, modulo 2^48 (R32). -/
def treadDiff (a b : Nat) : Nat := (b + treadMod - a % treadMod) % treadMod

/-- `b` is at or after `a`: a difference below 2^47 counts as forward (R32). -/
def treadReached (a b : Nat) : Bool := treadDiff a b < 140737488355328

/-- More than `n` treads have passed since `a`. -/
def treadPast (a n b : Nat) : Bool := treadReached (treadAdd a (n + 1)) b

/-- The `n` low bits of a number shifted down by `lo`: field [lo + n - 1 : lo] (R9). -/
def bits (x lo n : Nat) : Nat := (x >>> lo) % 2 ^ n

/-- Bit `i` of a number (R9). -/
def bit (x i : Nat) : Bool := (x >>> i) % 2 == 1

/-- A Boolean as 0 or 1. -/
def b2n (b : Bool) : Nat := if b then 1 else 0

/-- Saturating value at `2^n - 1`. -/
def sat (n x : Nat) : Nat := min x (2 ^ n - 1)

/-- Ceiling division; 0 when the divisor is 0. -/
def cdiv (a b : Nat) : Nat := if b = 0 then 0 else (a + b - 1) / b

/-- A two's complement reading of the low `n` bits (R9). -/
def toSigned (n x : Nat) : Int := if (x % 2 ^ n) < 2 ^ (n - 1) then ((x % 2 ^ n : Nat) : Int) else ((x % 2 ^ n : Nat) : Int) - (2 ^ n : Nat)

/-- The low `n` bits of an integer in two's complement (R9). -/
def ofSigned (n : Nat) (x : Int) : Nat := (x % ((2 ^ n : Nat) : Int)).toNat

/-- The `n` little-endian bytes of a number (R9). -/
def leBytes : Nat → Nat → List Byte
  | 0, _ => []
  | n + 1, x => BitVec.ofNat 8 x :: leBytes n (x / 256)

/-- The number held little-endian in bytes (R9). -/
def leNat : List Byte → Nat
  | [] => 0
  | b :: bs => b.toNat + 256 * leNat bs

/-- The bytes of positions `lo` to `lo + n - 1`, missing ones read as zero. -/
def sliceB (bs : List Byte) (lo n : Nat) : List Byte :=
  let c := (bs.drop lo).take n
  c ++ List.replicate (n - c.length) 0

/-- Little-endian number of `n` bytes at position `lo`. -/
def fieldN (bs : List Byte) (lo n : Nat) : Nat := leNat (sliceB bs lo n)

/-- The numbers `lo`, `lo + 1`, … , `n` of them. -/
def upFrom : Nat → Nat → List Nat
  | _, 0 => []
  | lo, n + 1 => lo :: upFrom (lo + 1) n

/-- Replace the element at an index of a list. -/
def setIdx {α : Type} : List α → Nat → α → List α
  | [], _, _ => []
  | _ :: xs, 0, a => a :: xs
  | x :: xs, n + 1, a => x :: setIdx xs n a

/-- Insertion into a list sorted by a key, smaller keys first, stable for equal keys. -/
def insertBy {α : Type} (key : α → Nat) (a : α) : List α → List α
  | [] => [a]
  | x :: xs => if key a < key x then a :: x :: xs else x :: insertBy key a xs

/-- Stable sort by a key. -/
def sortBy {α : Type} (key : α → Nat) : List α → List α
  | [] => []
  | x :: xs => insertBy key x (sortBy key xs)

/-- The entry of a key, if listed. -/
def Tab.find {α : Type} : Tab α → Nat → Option α
  | [], _ => none
  | (k, v) :: t, i => if k = i then some v else Tab.find t i

/-- Write an entry, keeping keys rising. -/
def Tab.set {α : Type} : Tab α → Nat → α → Tab α
  | [], i, a => [(i, a)]
  | (k, v) :: t, i, a => if i < k then (i, a) :: (k, v) :: t else if i = k then (i, a) :: t else (k, v) :: Tab.set t i a

/-- Drop an entry. -/
def Tab.erase {α : Type} : Tab α → Nat → Tab α
  | [], _ => []
  | (k, v) :: t, i => if k = i then t else (k, v) :: Tab.erase t i

/-- A number's count, 0 when not listed. -/
def Tab.cnt (t : Tab Nat) (k : Nat) : Nat := (Tab.find t k).getD 0

/-- Add to a number's count. -/
def Tab.bump (t : Tab Nat) (k n : Nat) : Tab Nat := Tab.set t k (Tab.cnt t k + n)

end Sys2Proof
end

