-- ==== Sys2Proof/Machine/Num.lean ====
section
/-!
DEFINITION. Numbers, formats, block scaling and rounding (spec/04_formats.md, spec/05_arithmetic.md R113 to R118). A value is
held exactly, as a sign, a magnitude and a power of two; rounding happens only where the spec names it.
-/
namespace Sys2Proof.Machine

/-- A value: a quiet NaN with its sign (Table 4.5 keeps it), an infinity, or ± m × 2^e (m = 0 is a signed zero). -/
inductive Fp
  | nan (neg : Bool)
  | inf (neg : Bool)
  | fin (neg : Bool) (m : Nat) (e : Int)
deriving DecidableEq, Repr

/-- +0. -/
def Fp.zero : Fp := .fin false 0 0

/-- A value that is neither infinite nor NaN (R84). -/
def Fp.finite : Fp → Bool
  | .fin _ _ _ => true
  | _ => false

/-- A zero of either sign. -/
def Fp.isZero : Fp → Bool
  | .fin _ 0 _ => true
  | _ => false

/-- The sign bit. -/
def Fp.neg : Fp → Bool
  | .nan s => s
  | .inf s => s
  | .fin s _ _ => s

/-- The value with the other sign. -/
def Fp.negate : Fp → Fp
  | .nan s => .nan (!s)
  | .inf s => .inf (!s)
  | .fin s m e => .fin (!s) m e

/-- Multiplication by 2^k, exact. -/
def Fp.shift (k : Int) : Fp → Fp
  | .fin s m e => .fin s m (e + k)
  | x => x

/-- An integer as a value. -/
def Fp.ofInt (i : Int) : Fp := .fin (i < 0) i.natAbs 0

/-- The floor of log2 of a nonzero magnitude m × 2^e. -/
def flog2 (m : Nat) (e : Int) : Int := (Nat.log2 m : Int) + e

/-- The signed integer that ± m × 2^e is in units of 2^q, for q at or below e. -/
def unitsAt (q : Int) : Fp → Int
  | .fin s m e => let k : Int := ((m * 2 ^ (e - q).toNat : Nat) : Int); if s then -k else k
  | _ => 0

/-- Exact sum; a zero sum of unlike signs is +0 (IEEE 754-2019 under round-to-nearest-even). -/
def Fp.add : Fp → Fp → Fp
  | .nan _, _ => .nan false
  | _, .nan _ => .nan false
  | .inf a, .inf b => if a = b then .inf a else .nan false
  | .inf a, _ => .inf a
  | _, .inf b => .inf b
  | .fin a m e, .fin b n f =>
    if m = 0 ∧ n = 0 then .fin (a && b) 0 0
    else if m = 0 then .fin b n f
    else if n = 0 then .fin a m e
    else
      let q := min e f
      let k := unitsAt q (.fin a m e) + unitsAt q (.fin b n f)
      if k = 0 then .zero else .fin (k < 0) k.natAbs q

/-- Exact product; 0 × ∞ is NaN (R119). -/
def Fp.mul : Fp → Fp → Fp
  | .nan _, _ => .nan false
  | _, .nan _ => .nan false
  | .inf a, .inf b => .inf (a != b)
  | .inf a, .fin b n _ => if n = 0 then .nan false else .inf (a != b)
  | .fin a m _, .inf b => if m = 0 then .nan false else .inf (a != b)
  | .fin a m e, .fin b n f => .fin (a != b) (m * n) (e + f)

/-- The sign-aware order of two numbers that are not NaN. -/
def Fp.lt : Fp → Fp → Bool
  | .nan _, _ => false
  | _, .nan _ => false
  | .inf a, .inf b => a && !b
  | .inf a, _ => a
  | _, .inf b => !b
  | .fin a m e, .fin b n f => let q := min e f; unitsAt q (.fin a m e) < unitsAt q (.fin b n f)

/-- How a conversion rounds: to nearest-even, or stochastically with the element's 64-bit draw (R115, R116). -/
inductive Rounding
  | rne
  | sr (draw : Nat)
deriving DecidableEq, Repr

/-- `m × 2^-n` to nearest-even. -/
def rneShift (m n : Nat) : Nat :=
  let k := m / 2 ^ n
  let r := m % 2 ^ n
  if n = 0 then m
  else if 2 * r > 2 ^ n ∨ (2 * r = 2 ^ n ∧ k % 2 = 1) then k + 1 else k

/-- The trailing zeros of a number, at most `fuel`. -/
def trailZ : Nat → Nat → Nat
  | 0, _ => 0
  | f + 1, m => if m ≠ 0 ∧ m % 2 = 0 then trailZ f (m / 2) + 1 else 0

/-- `m × 2^-n` by the stochastic rule of R116. -/
def srShift (m n draw : Nat) : Nat :=
  let z := trailZ n m
  let n' := n - z
  let w := min n' 16
  let k := m / 2 ^ n
  let d := (m % 2 ^ n) / 2 ^ (n - w)
  if n' = 0 then k else if d + draw % 2 ^ w ≥ 2 ^ w then k + 1 else k

/-- The multiple of 2^q that m × 2^e rounds to, in units of 2^q. -/
def roundAt (r : Rounding) (m : Nat) (e q : Int) : Nat :=
  if q ≤ e then m * 2 ^ (e - q).toNat
  else match r with
    | .rne => rneShift m (q - e).toNat
    | .sr d => srShift m (q - e).toNat d

/-- A floating-point element format: precision with the hidden bit, exponent of the smallest subnormal (Table 4.2), the code of
the largest finite magnitude, whether the next code is an infinity, and the NaN code if there is one. -/
structure FpFmt where
  p : Nat
  qmin : Int
  maxCode : Nat
  infCode : Option Nat
  nanCode : Option Nat
  width : Nat
deriving DecidableEq, Repr

def fp32 : FpFmt := ⟨24, -149, 0x7F7FFFFF, some 0x7F800000, some 0x7FC00000, 32⟩
def bf16 : FpFmt := ⟨8, -133, 0x7F7F, some 0x7F80, some 0x7FC0, 16⟩
def fp16 : FpFmt := ⟨11, -24, 0x7BFF, some 0x7C00, some 0x7E00, 16⟩
def e4m3 : FpFmt := ⟨4, -9, 0x7E, none, some 0x7F, 8⟩
def e5m2 : FpFmt := ⟨3, -16, 0x7B, some 0x7C, some 0x7F, 8⟩
def e2m3 : FpFmt := ⟨4, -3, 0x1F, none, none, 6⟩
def e3m2 : FpFmt := ⟨3, -4, 0x1F, none, none, 6⟩
def e2m1 : FpFmt := ⟨2, -1, 7, none, none, 4⟩

/-- The magnitude code of m × 2^e, m nonzero, before any saturation: exponent and mantissa fields side by side, so that a carry
of the mantissa runs into the exponent (R88, R116). -/
def FpFmt.codeOf (f : FpFmt) (r : Rounding) (m : Nat) (e : Int) : Nat :=
  let q := max (flog2 m e - ((f.p : Int) - 1)) f.qmin
  (q - f.qmin).toNat * 2 ^ (f.p - 1) + roundAt r m e q

/-- The magnitude of a finite magnitude code: mantissa and exponent. -/
def FpFmt.magOf (f : FpFmt) (c : Nat) : Nat × Int :=
  let ex := c / 2 ^ (f.p - 1)
  let mn := c % 2 ^ (f.p - 1)
  if ex = 0 then (mn, f.qmin) else (mn + 2 ^ (f.p - 1), f.qmin + (ex : Int) - 1)

/-- Decode an element code (R88, R89). -/
def FpFmt.decode (f : FpFmt) (code : Nat) : Fp :=
  let s := bit code (f.width - 1)
  let c := code % 2 ^ (f.width - 1)
  if c ≤ f.maxCode then let (m, e) := f.magOf c; .fin s m e
  else if f.infCode = some c then .inf s
  else .nan s

/-- The bit pattern of an FP32 result: rounded once to nearest-even, overflow to infinity, NaN as 0x7FC0_0000 (R117, R118). -/
def Fp.bits32 : Fp → Nat
  | .nan _ => 0x7FC00000
  | .inf s => (if s then 0x80000000 else 0) + 0x7F800000
  | .fin s m e =>
    let sg := if s then 0x80000000 else 0
    if m = 0 then sg else sg + min (fp32.codeOf .rne m e) 0x7F800000

/-- The FP32 value of a bit pattern. -/
def Fp.of32 (b : Nat) : Fp := fp32.decode (b % 2 ^ 32)

/-- One rounding to FP32, to nearest-even. -/
def rne32 (x : Fp) : Fp := Fp.of32 x.bits32

/-- FP32 addition, multiplication and fused multiply-add, each rounded once (R117). -/
def fadd (x y : Fp) : Fp := rne32 (x.add y)
def fmul (x y : Fp) : Fp := rne32 (x.mul y)
def ffma (x y z : Fp) : Fp := rne32 ((x.mul y).add z)

/-- A format code (Table 4.1) with what the tables of spec/04 say of it. -/
structure FmtInfo where
  code : Nat
  /-- the floating-point element; `none` for the integer formats -/
  elem : Option FpFmt
  /-- quantum exponent of an integer element -/
  intQ : Int
  /-- bits of one element -/
  ebits : Nat
  /-- 0 plain, 1 tensor-scaled, 2 MX, 3 SMX -/
  kind : Nat
  /-- exponent of the largest finite magnitude, eF of Table 4.2 -/
  eF : Int
deriving DecidableEq, Repr

/-- Table 4.1 and Table 4.2; `none` for NONE and for an unassigned code (R87). -/
def fmtInfo : Nat → Option FmtInfo
  | 1 => some ⟨1, some fp32, 0, 32, 0, 127⟩
  | 2 => some ⟨2, some bf16, 0, 16, 0, 127⟩
  | 3 => some ⟨3, some fp16, 0, 16, 0, 15⟩
  | 4 => some ⟨4, some e4m3, 0, 8, 1, 8⟩
  | 5 => some ⟨5, some e5m2, 0, 8, 1, 15⟩
  | 6 => some ⟨6, some e2m3, 0, 6, 1, 2⟩
  | 7 => some ⟨7, some e3m2, 0, 6, 1, 4⟩
  | 8 => some ⟨8, some e2m1, 0, 4, 1, 2⟩
  | 9 => some ⟨9, none, 0, 8, 1, 6⟩
  | 10 => some ⟨10, some e4m3, 0, 8, 2, 8⟩
  | 11 => some ⟨11, some e5m2, 0, 8, 2, 15⟩
  | 12 => some ⟨12, some e2m3, 0, 6, 2, 2⟩
  | 13 => some ⟨13, some e3m2, 0, 6, 2, 4⟩
  | 14 => some ⟨14, some e2m1, 0, 4, 2, 2⟩
  | 15 => some ⟨15, none, -6, 8, 2, 0⟩
  | 16 => some ⟨16, some e4m3, 0, 8, 3, 8⟩
  | 17 => some ⟨17, some e2m3, 0, 6, 3, 2⟩
  | 18 => some ⟨18, some e2m1, 0, 4, 3, 2⟩
  | _ => none

/-- A format code that Table 4.1 assigns to a format other than NONE. -/
def fmtAssigned (c : Nat) : Bool := (fmtInfo c).isSome

/-- A tensor-scaled code, 0x04 to 0x09. -/
def fmtTensor (c : Nat) : Bool := 4 ≤ c && c ≤ 9

/-- A block-scaled code, 0x0A to 0x12. -/
def fmtBlock (c : Nat) : Bool := 10 ≤ c && c ≤ 18

/-- The group size in bytes of a block-scaled format (Table 4.3). -/
def FmtInfo.group (f : FmtInfo) : Nat := 8 * (4 * f.ebits + 1 + b2n (f.kind = 3))

/-- The value of an element code without any scale (R89). Code −128 of INT8 and MXINT8 at the top scale is −2^128, which FP32 does not
represent: the model carries it exactly (DESIGN CHOICE, log entry 74). -/
def FmtInfo.elemVal (f : FmtInfo) (c : Nat) : Fp :=
  match f.elem with
  | some g => g.decode c
  | none => (Fp.ofInt (toSigned 8 c)).shift f.intQ

/-- The largest finite magnitude of an element, mantissa and exponent (Table 4.2). -/
def FmtInfo.fmax (f : FmtInfo) : Nat × Int :=
  match f.elem with
  | some g => g.magOf g.maxCode
  | none => (127, f.intQ)

/-- A byte with the poison mark of the word it came from (R85, R140). -/
abbrev PByte := Byte × Bool

/-- Element `i`'s code among packed element bytes, with the poison of the bytes that hold it (R91). -/
def packedCode (ebits : Nat) (bs : List PByte) (i : Nat) : Nat × Bool :=
  let lo := i * ebits
  let b0 := lo / 8
  let nb := (lo + ebits - 1) / 8 - b0 + 1
  let part := (bs.drop b0).take nb
  (bits (leNat (part.map (·.1))) (lo % 8) ebits, part.any (·.2))

/-- The scale exponent of an E8M0 code, `none` for the NaN scale (R94). -/
def e8m0 (f : FmtInfo) (c : Nat) : Option Int :=
  if c = 255 then none else some (min ((c : Int) - 127) (127 - f.eF))

/-- The elements of one group of eight blocks (Table 4.3, R94, R95, R85). -/
def decodeGroup (f : FmtInfo) (g : List PByte) : List (Fp × Bool) :=
  let eb := 4 * f.ebits
  (upFrom 0 8).flatMap fun b =>
    let sc := g.getD (8 * eb + b) (0, false)
    let ri := if f.kind = 3 then g.getD (8 * eb + 8 + b) (0, false) else (0, false)
    let es := (g.drop (b * eb)).take eb
    (upFrom 0 32).map fun i =>
      let (c, p) := packedCode f.ebits es i
      let v := match e8m0 f sc.1.toNat with
        | none => Fp.nan false
        | some e => (f.elemVal c).shift (e - 2 * (bits ri.1.toNat (2 * (i / 8)) 2 : Nat))
      (v, p || sc.2 || ri.2)

/-- Every element of a byte run in a format; `sexp` is the tensor scale (R100), 0 for other kinds. -/
def decodeBytes (f : FmtInfo) (sexp : Int) (bs : List PByte) : List (Fp × Bool) :=
  if f.kind ≥ 2 then (upFrom 0 (bs.length / f.group)).flatMap fun k => decodeGroup f ((bs.drop (k * f.group)).take f.group)
  else (upFrom 0 (bs.length * 8 / f.ebits)).map fun i =>
    let (c, p) := packedCode f.ebits bs i
    ((f.elemVal c).shift sexp, p)

/-- What an encoding adds to the completion record (R98, R104, R84). -/
structure EncStat where
  vanished : Nat
  saturated : Nat
  nonFinite : Nat
  amax : Nat
deriving DecidableEq, Repr

def EncStat.zero : EncStat := ⟨0, 0, 0, 0⟩

/-- Two parts' statistics together. -/
def EncStat.add (a b : EncStat) : EncStat :=
  ⟨a.vanished + b.vanished, a.saturated + b.saturated, a.nonFinite + b.nonFinite, max a.amax b.amax⟩

/-- Magnitude comparison m × 2^e > n × 2^f. -/
def magGt (m : Nat) (e : Int) (n : Nat) (f : Int) : Bool :=
  let q := min e f
  m * 2 ^ (e - q).toNat > n * 2 ^ (f - q).toNat

/-- Conversion of an FP32 value to a plain or tensor-scaled code, with `saturated` and `non-finite` flags (Table 4.5, R104,
R84). -/
def encodePlain (f : FmtInfo) (sexp : Int) (r : Rounding) (v : Fp) : Nat × Bool × Bool :=
  match f.elem with
  | none =>
    match v with
    | .nan _ => (0, false, true)
    | .inf s => (if s then 0x81 else 127, false, true)
    | .fin s m e =>
      let ov := magGt m (e - sexp) 127 0
      let k := min (roundAt r m (e - sexp) 0) 127
      (if s ∧ k ≠ 0 then 256 - k else k, ov, false)
  | some g =>
    let sg := 2 ^ (g.width - 1)
    match v with
    | .nan s => match g.nanCode with
      | some c => ((if s ∧ f.code ≠ 1 then sg else 0) + c, false, true)
      | none => (0, false, true)
    | .inf s => ((if s then sg else 0) + (match g.infCode with | some c => c | none => g.maxCode), false, true)
    | .fin s m e =>
      if m = 0 then (if s ∧ f.kind = 0 then sg else 0, false, false)
      else
        let c := g.codeOf r m (e - sexp)
        if f.kind = 0 then
          let c' := match g.infCode with | some i => min c i | none => c
          ((if s then sg else 0) + c', false, c' > g.maxCode)
        else
          let (xm, xe) := g.magOf g.maxCode
          let ov := magGt m (e - sexp) xm xe
          let c' := min c g.maxCode
          ((if s ∧ c' ≠ 0 then sg else 0) + c', ov, false)

/-- Pack element codes of `ebits` bits into bytes, padded with zero codes to whole bytes and groups (R91). -/
def packCodes (ebits : Nat) (cs : List Nat) : List Byte :=
  let total := cs.length * ebits
  leBytes ((total + 7) / 8) (cs.foldr (fun c acc => c % 2 ^ ebits + 2 ^ ebits * acc) 0)

/-- The FP32 bit pattern of the magnitude of a finite value. -/
def magBits : Fp → Nat
  | .fin _ m e => (Fp.fin false m e).bits32
  | _ => 0

/-- Encoding of one block of 32 FP32 values (R96): scale byte, riser byte, element codes, statistics. `inT` counts the leading
elements that lie in the tensor, the rest are padding (R92). -/
def encodeBlock (f : FmtInfo) (rs : Nat → Rounding) (xs : List Fp) (inT : Nat) : Nat × Nat × List Nat × EncStat :=
  if xs.any (fun x => !x.finite) then (255, 0, List.replicate 32 0, ⟨0, 0, inT, 0⟩)
  else
    let logs := xs.map fun x => match x with
      | .fin _ m e => if m = 0 then none else some (flog2 m e)
      | _ => none
    let top (l : List (Option Int)) : Option Int := l.foldl (fun a b => match a, b with
      | some x, some y => some (max x y)
      | none, y => y
      | x, none => x) none
    match top logs with
    | none => (0, 0, List.replicate 32 0, .zero)
    | some a =>
      let X := max (-127) (min (a - f.eF) (127 - f.eF))
      let riser (b : Nat) : Nat :=
        if f.kind = 3 then match top ((logs.drop (8 * b)).take 8) with
          | none => 0
          | some ab => (min 3 ((X - ab + f.eF) / 2)).toNat
        else 0
      let r4 := (upFrom 0 4).map riser
      let one (i : Nat) (x : Fp) : Nat × Bool :=
        match x with
        | .fin s m e =>
          if m = 0 then (0, false) else
          let e' := e - (X - 2 * ((r4.getD (i / 8) 0 : Nat) : Int))
          match f.elem with
          | none =>
            let k := min (roundAt (rs i) m e' f.intQ) 127
            (if s ∧ k ≠ 0 then 256 - k else k, magGt 1 f.intQ m e')
          | some g =>
            let c := min (g.codeOf (rs i) m e') g.maxCode
            ((if s ∧ c ≠ 0 then 2 ^ (g.width - 1) else 0) + c, magGt 1 g.qmin m e')
        | _ => (0, false)
      let cs := (upFrom 0 32).zip xs |>.map fun (i, x) => one i x
      (((X + 127).toNat), (r4.zip (upFrom 0 4)).foldl (fun acc (r, b) => acc + r * 4 ^ b) 0, cs.map (·.1),
        ⟨((cs.take inT).filter (·.2)).length, 0, 0, 0⟩)

/-- An FP32 element on its way to a conversion: its value, whether it is poisoned, and how it rounds. -/
structure OutEl where
  v : Fp
  pz : Bool
  rnd : Rounding
deriving DecidableEq, Repr

/-- Cut a list into runs of `n`. -/
def chunks {α : Type} (n : Nat) : Nat → List α → List (List α)
  | 0, _ => []
  | f + 1, xs => if xs.isEmpty then [] else xs.take n :: chunks n f (xs.drop n)

/-- The units a format encodes: rows of elements cut into blocks of 32, each row padded on its own (R92), or single runs for the plain and
tensor-scaled formats. -/
def FmtInfo.units (f : FmtInfo) (rows : List (List OutEl)) : List (List OutEl) :=
  if f.kind ≥ 2 then rows.flatMap fun r => chunks 32 (r.length / 32 + 1) r else rows.flatMap fun r => r.map fun x => [x]

/-- Encode blocks of at most 32 elements of a block-scaled format, padded to groups of 8 blocks (R92, R96). -/
def encodeBlocks (f : FmtInfo) (us : List (List OutEl)) : List PByte × EncStat :=
  let blk (u : List OutEl) : (Nat × Nat × List Nat × EncStat) × Bool :=
    (encodeBlock f (fun i => match u[i]? with | some x => x.rnd | none => .rne) (u.map (·.v) ++ List.replicate (32 - u.length) .zero) u.length,
      u.any (·.pz))
  (chunks 8 (us.length / 8 + 1) us).foldl (fun (acc : List PByte × EncStat) g =>
    let bs := (g ++ List.replicate (8 - g.length) []).map blk
    let el := bs.flatMap fun b => (packCodes f.ebits b.1.2.2.1).map fun y => (y, b.2)
    let sc := bs.map fun b => ((BitVec.ofNat 8 b.1.1 : Byte), b.2)
    let ri := if f.kind = 3 then bs.map fun b => ((BitVec.ofNat 8 b.1.2.1 : Byte), b.2) else []
    (acc.1 ++ el ++ sc ++ ri, bs.foldl (fun st b => st.add b.1.2.2.2) acc.2)) ([], .zero)

/-- Encode units of FP32 elements in a format (R96, R99): bytes with poison marks, and statistics. -/
def encodeUnits (f : FmtInfo) (sexp : Int) (us : List (List OutEl)) : List PByte × EncStat :=
  let xs := us.flatten
  let amax := xs.foldl (fun a x => max a (magBits x.v)) 0
  if f.kind ≥ 2 then let (b, st) := encodeBlocks f us; (b, { st with amax := amax })
  else
    let es := xs.map fun x => (encodePlain f sexp x.rnd x.v, x.pz)
    let pad := if f.ebits = 6 then (4 - es.length % 4) % 4 else 0
    let bytes := packCodes f.ebits (es.map (·.1.1) ++ List.replicate pad 0)
    let perByte (k : Nat) : Bool :=
      let i0 := 8 * k / f.ebits
      let i1 := (8 * k + 7) / f.ebits
      (upFrom i0 (i1 - i0 + 1)).any fun i => (es.getD i ((0, false, false), false)).2
    (((upFrom 0 bytes.length).zip bytes).map fun (k, b) => (b, perByte k),
      ⟨0, (es.filter (·.1.2.1)).length, (es.filter (·.1.2.2)).length, amax⟩)

/-- The bytes that `n` elements take in a format, with the padding of R91 and R92. -/
def FmtInfo.bytesFor (f : FmtInfo) (n : Nat) : Nat :=
  if f.kind ≥ 2 then (n + 255) / 256 * f.group
  else if f.ebits = 4 then (n + 1) / 2 else if f.ebits = 6 then (n + 3) / 4 * 3 else n * f.ebits / 8

/-- The values of encoded units, cut as the units were. -/
def recut (vals : List (Fp × Bool)) : Bool → List (List OutEl) → List (List Fp)
  | _, [] => []
  | blk, u :: us => (vals.take u.length).map (·.1) :: recut (vals.drop (if blk then 32 else u.length)) blk us

/-- The split conversion of R114: the hi half, the lo half, and the statistics of the hi half. Where the hi half of a finite element decodes to NaN,
because another element of its block was not finite, the residual has no value and lo is +0 (DESIGN CHOICE, log entry 76). -/
def encodeSplit (f : FmtInfo) (sexp : Int) (us : List (List OutEl)) : List PByte × List PByte × EncStat :=
  let us := us.map fun u => u.map fun x => { x with rnd := Rounding.rne }
  let (hi, st) := encodeUnits f sexp us
  let hv := recut (decodeBytes f sexp hi) (f.kind ≥ 2) us
  let lo := (us.zip hv).map fun (u, h) => (u.zip h).map fun (x, y) =>
    { x with v := if x.v.finite && y.finite then x.v.add y.negate else Fp.zero }
  (hi, (encodeUnits f sexp lo).1, st)

end Sys2Proof.Machine
end

