-- ==== Sys2Proof/Machine/Arith.lean ====
section
/-!
DEFINITION. The arrays' groups and accumulation, passes, the epilogue stages and the random draw (spec/05_arithmetic.md R106 to
R119, spec/03_core.md R79, Table 3.5).
-/
namespace Sys2Proof.Machine

/-- One term of a group truncated toward zero to a multiple of 2^q, in units of 2^q (R109). -/
def truncAt (q : Int) : Fp → Int
  | .fin s m e =>
    let k := if q ≤ e then m * 2 ^ (e - q).toNat else m / 2 ^ (q - e).toNat
    if s then -(k : Int) else (k : Int)
  | _ => 0

/-- The sum S_g of one group's terms: aligned to the largest exponent E, truncated to multiples of 2^(E - 27), added exactly;
infinities and NaN as Table 5.6 states (R109, R119). -/
def groupSum (ts : List Fp) : Fp :=
  let pos := ts.any fun t => t = .inf false
  let neg := ts.any fun t => t = .inf true
  if ts.any (fun t => match t with | .nan _ => true | _ => false) then .nan false
  else if pos && neg then .nan false
  else if pos then .inf false
  else if neg then .inf true
  else
    let es := ts.filterMap fun t => match t with
      | .fin _ m e => if m = 0 then none else some (flog2 m e)
      | _ => none
    match es with
    | [] => .zero
    | e0 :: rest =>
      let q := rest.foldl max e0 - 27
      let k := (ts.map (truncAt q)).foldl (· + ·) 0
      if k = 0 then .zero else .fin (k < 0) k.natAbs q

/-- Accumulation of the groups in ascending order, one FP32 rounding each (R110). -/
def accumulate (c : Fp) (groups : List Fp) : Fp := groups.foldl (fun acc g => fadd acc g) c

/-- An operand element as the hi and lo values of a split pair (R112, R113). -/
abbrev Pair := Fp × Fp

/-- The terms one contraction index contributes under a PASS (Table 5.3); a is streamed, b stationary. A block of SPLIT 0 brings lo = +0; its
product with an infinite other part is NaN, as Table 5.6 has it in any pass, where R113 says only that such a term is +0 (DESIGN CHOICE, log
entry 76). -/
def passTerms (pass : Nat) (a b : Pair) : List Fp :=
  match pass with
  | 2 => [a.1.mul b.1, a.2.mul b.1]
  | 3 => [a.1.mul b.1, a.1.mul b.2, a.2.mul b.1]
  | _ => [a.1.mul b.1]

/-- One output element y = c + Σ a b (R106 to R110): groups of 16 contraction indices. -/
def dotProduct (pass : Nat) (c : Fp) (ab : List (Pair × Pair)) : Fp :=
  accumulate c ((chunks 16 (ab.length / 16 + 1) ab).map fun g => groupSum (g.flatMap fun t => passTerms pass t.1 t.2))

/-! The transcendental stages. Each is held within the error of Table 5.5 around a value computed here to more than 100
significant bits; inside that error the bit pattern is open (R120, log entry 8). -/

/-- Fixed-point scale of the reference computations. -/
def refBits : Nat := 200


/-- The terms of the series of e^y, y = Y × 2^-200, from term `i`. -/
def expTerms (Y : Nat) : Nat → Nat → Nat → Nat
  | 0, _, _ => 0
  | f + 1, i, term => term + expTerms Y f (i + 1) (term * Y / 2 ^ refBits / (i + 1))

/-- Squaring `n` times at the fixed-point scale. -/
def sqN : Nat → Nat → Nat
  | 0, x => x
  | n + 1, x => sqN n (x * x / 2 ^ refBits)

/-- e^|x| for |x| = m × 2^e below 256, in units of 2^-200. -/
def expRef (m : Nat) (e : Int) : Nat :=
  let k := e + (refBits : Int) - 16
  let Y := if 0 ≤ k then m * 2 ^ k.toNat else m / 2 ^ (-k).toNat
  sqN 16 (expTerms Y 24 0 (2 ^ refBits))

/-- e^x as an exact dyadic close to it, for a finite x of magnitude below 256. -/
def expDyadic : Fp → Fp
  | .fin s m e => if s then .fin false (2 ^ (3 * refBits) / expRef m e) (-(2 * refBits : Int)) else .fin false (expRef m e) (-(refBits : Int))
  | x => x

/-- a ÷ b for finite nonzero b, to 400 bits below a's exponent difference. -/
def divDyadic (a b : Fp) : Fp :=
  match a, b with
  | .fin s m e, .fin t n f => .fin (s != t) (m * 2 ^ 800 / n) (e - f - 800)
  | _, _ => .nan false

/-- Integer square root by its binary digits. -/
def isqrt (n : Nat) : Nat → Nat → Nat
  | 0, r => r
  | k + 1, r => if (r + 2 ^ k) * (r + 2 ^ k) ≤ n then isqrt n k (r + 2 ^ k) else isqrt n k r

/-- 1 ÷ √x for a positive finite x. -/
def rsqrtDyadic : Fp → Fp
  | .fin _ m e =>
    let e2 := if e % 2 = 0 then e else e - 1
    let m2 := if e % 2 = 0 then m else 2 * m
    .fin false (2 ^ 800 / isqrt (m2 * 2 ^ 800) 420 0) (-(400 : Int) - e2 / 2)
  | x => x

/-- |a - b| ≤ k × 2^u for finite values. -/
def within (a b : Fp) (k : Nat) (u : Int) : Bool :=
  match a.add b.negate with
  | .fin _ m e => !magGt m e k u
  | _ => false

/-- The exponent of ulp(x) of R117. -/
def ulpExp : Fp → Int
  | .fin _ m e => if m = 0 then -149 else max (flog2 m e) (-126) - 23
  | _ => -149

/-- A stage's result: the open pattern where it lies within `k` ulp of the reference (or within 2^-149 where `tiny`), else the
reference rounded to nearest-even. -/
def openStage (op k : Nat) (tiny : Bool) (x ref : Fp) : Fp :=
  let cand := Fp.of32 (Config.stageResult op x.bits32)
  if cand.finite && (within cand ref k (ulpExp ref) || (tiny && within cand ref 1 (-149))) then cand else rne32 ref

/-- EXP (Table 5.5). -/
def stageExp (x : Fp) : Fp :=
  match x with
  | .nan _ => .nan false
  | .inf s => if s then .zero else .inf false
  | .fin s m e =>
    let y := Fp.fin s (m * 10000) e
    if (Fp.ofInt 887228).lt y then .inf false
    else if y.lt (Fp.ofInt (-1039730)) then .zero
    else openStage 7 2 false x (expDyadic (.fin s m e))

/-- The terms of z + z³/3 + z⁵/5 + …, z = Z × 2^-200, from the power `t` of odd number `i`. -/
def atanhTerms (Z : Nat) : Nat → Nat → Nat → Nat
  | 0, _, _ => 0
  | f + 1, i, t => t / i + atanhTerms Z f (i + 2) (t * Z / 2 ^ refBits * Z / 2 ^ refBits)

/-- ln of m × 2^e for m nonzero, to more than 100 significant bits: k × ln 2 + ln f with f in [1, 2) and ln f = 2 artanh((f − 1) ÷ (f + 1)). -/
def lnDyadic (m : Nat) (e : Int) : Fp :=
  let l := Nat.log2 m
  let f := m * 2 ^ refBits / 2 ^ l
  let ln1 (f : Nat) : Nat := let z := (f - 2 ^ refBits) * 2 ^ refBits / (f + 2 ^ refBits); 2 * atanhTerms z 80 1 z
  let k : Int := e + (l : Int)
  (Fp.ofInt (k * (ln1 (2 * 2 ^ refBits) : Int) + (ln1 f : Int))).shift (-(refBits : Int))

/-- ln in FP32, the exact value rounded to nearest-even (R115, R184; log entry 8). -/
def lnFp (x : Fp) : Fp :=
  match x with
  | .fin false m e => if m = 0 then .inf true else rne32 (lnDyadic m e)
  | .inf false => .inf false
  | _ => .nan false

/-- A value kept to 400 significant bits. -/
def trim400 : Fp → Fp
  | .fin s m e => let n := Nat.log2 m - 400; .fin s (m / 2 ^ n) (e + (n : Int))
  | x => x

/-- b^t by the binary digits of t, each product to 400 significant bits. -/
def powDyadic : Nat → Fp → Nat → Fp
  | 0, _, _ => Fp.ofInt 1
  | f + 1, b, t =>
    let h := powDyadic f (trim400 (b.mul b)) (t / 2)
    if t % 2 = 1 then trim400 (h.mul b) else h

/-- RECIP (Table 5.5). -/
def stageRecip (x : Fp) : Fp :=
  match x with
  | .nan _ => .nan false
  | .inf s => .fin s 0 0
  | .fin s m _ => if m = 0 then .inf s else openStage 8 1 false x (divDyadic (Fp.ofInt 1) x)

/-- RSQRT (Table 5.5). -/
def stageRsqrt (x : Fp) : Fp :=
  match x with
  | .nan _ => .nan false
  | .inf s => if s then .nan false else .zero
  | .fin s m _ => if m = 0 then .inf s else if s then .nan false else openStage 9 2 false x (rsqrtDyadic x)

/-- x × 1 ÷ (1 + e^-t), exact to the reference's precision; t of magnitude 200 or more saturates the factor. -/
def sigmoidTimes (x t : Fp) : Fp :=
  if (Fp.ofInt 200).lt t then x
  else if t.lt (Fp.ofInt (-200)) then .fin true 0 0
  else divDyadic x ((Fp.ofInt 1).add (expDyadic t.negate))

/-- SILU (Table 5.5). -/
def stageSilu (x : Fp) : Fp :=
  match x with
  | .nan _ => .nan false
  | .inf s => if s then .fin true 0 0 else .inf false
  | .fin s m e => if m = 0 then .fin s 0 0 else openStage 6 4 true x (sigmoidTimes x (.fin s m e))

/-- 2 √(2/π), to 39 decimal places. -/
def geluC : Fp := divDyadic (.fin false 1595769121605730711759784239737527473903 0) (.fin false (10 ^ 39) 0)

/-- GELU in the tanh form ½x(1 + tanh(√(2/π)(x + 0.044715x³))) = x ÷ (1 + e^-(2√(2/π)(x + 0.044715x³))); PRESUMED: the
constant 0.044715 of the usual tanh form (log entry 8). -/
def stageGelu (x : Fp) : Fp :=
  match x with
  | .nan _ => .nan false
  | .inf s => if s then .fin true 0 0 else .inf false
  | .fin s m _ =>
    if m = 0 then .fin s 0 0 else
      let x3 := (x.mul x).mul x
      let t := geluC.mul (x.add (divDyadic (x3.mul (Fp.ofInt 44715)) (Fp.ofInt 1000000)))
      openStage 5 4 true x (sigmoidTimes x t)

/-- RELU: max(x, 0), NaN stays NaN, RELU(-0) = +0. -/
def stageRelu (x : Fp) : Fp :=
  match x with
  | .nan _ => .nan false
  | _ => if x.neg then .zero else x

/-- CLAMP to ± the given largest finite value; NaN stays NaN. -/
def stageClamp (top : Fp) (x : Fp) : Fp :=
  match x with
  | .nan _ => .nan false
  | _ => if top.lt x then top else if x.lt top.negate then top.negate else x

/-- The larger of two values, a NaN kept once seen (ROWMAX, Table 5.5). -/
def rowMax (cur x : Fp) : Fp :=
  match cur, x with
  | .nan _, _ => .nan false
  | _, .nan _ => .nan false
  | _, _ => if cur.lt x then x else cur

/-- The largest value of the finite range of a format with its scale (Table 3.5 CLAMP; DEDUCED: the tensor scale, or the largest
block scale, belongs to the range, log entry 9). -/
def clampTop (f : FmtInfo) (sexp : Int) : Fp :=
  let (m, e) := f.fmax
  if f.kind = 1 then .fin false m (e + sexp) else if f.kind ≥ 2 then .fin false m (e + 127 - f.eF) else .fin false m e

/-- Left rotation of a 32-bit word. -/
def rotl32 (x n : Nat) : Nat := (x * 2 ^ n + x / 2 ^ (32 - n)) % 2 ^ 32

/-- The rounds of R79 on (c0, c1, c2, c3), `r` rounds done. -/
def drawRounds (k : Nat → Nat) : Nat → Nat → Nat × Nat × Nat × Nat → Nat × Nat × Nat × Nat
  | 0, _, c => c
  | f + 1, r, (c0, c1, c2, c3) =>
    let c0 := (c0 + c1 + k (r % 4)) % 2 ^ 32
    let c3 := rotl32 (Nat.xor c3 c0) 16
    let c2 := (c2 + c3) % 2 ^ 32
    let c1 := rotl32 (Nat.xor c1 c2) 12
    let c0 := (c0 + c1) % 2 ^ 32
    let c3 := rotl32 (Nat.xor c3 c0) 8
    let c2 := (c2 + c3) % 2 ^ 32
    let c1 := rotl32 (Nat.xor c1 c2) 7
    drawRounds k f (r + 1) (c0, c1, c2, c3)

/-- One 64-bit draw (R79): key word function, tread of the entry, logical core, lane, STREAM and draw count. -/
def draw64 (k : Nat → Nat) (tread core lane stream j : Nat) : Nat :=
  let c1 := (bits tread 32 16 + core * 65536 + lane * 67108864) % 2 ^ 32
  let c2 := (stream + (j % 2 ^ 24) * 256) % 2 ^ 32
  let (c0, c1, _, _) := drawRounds k 10 0 (tread % 2 ^ 32, c1, c2, 0)
  c1 * 2 ^ 32 + c0

/-- The 24-bit fraction of a uniform variate (R80). -/
def uniform24 (d : Nat) : Nat := bits d 40 24

end Sys2Proof.Machine
end

