-- ==== Sys2Proof/Machine/RegMap.lean ====
section
/-!
DEFINITION. The register map: each register of the register tables of spec/02 to spec/21 with its offset, the bits that a
write sets, its reset value and the moment a write takes effect (R15, R16, R18). A per-wing register has its offset in the
BAR0 of the wing's VF and a register of the PF its offset in PF BAR0 (spec/20_host_links.md Table 20.3).
-/
namespace Sys2Proof.Machine

/-- When a written value takes effect: at once, at the next tread boundary, or with the protection set-up (R18, R335);
`other`: no field of the register is set by a plain write (RO, WO, W1C). -/
inductive RegCls | now | next | prot | other
deriving DecidableEq, Repr

/-- A row of the register map: `n` registers from `key`, `stride` bytes apart, of `bytes` bytes each; `mask` holds the
bits that a write sets, `reset` the reset value. -/
structure RegRow where
  key : Nat
  n : Nat
  stride : Nat
  bytes : Nat
  mask : Nat
  reset : Nat
  cls : RegCls
deriving DecidableEq, Repr

namespace Reg
/-- TRD_CTRL (spec/02_time.md). -/
abbrev trdCtrl : Nat := 0x400000
/-- TRD_STATUS (spec/02_time.md). -/
abbrev trdStatus : Nat := 0x400004
/-- TRD_NOW (spec/02_time.md). -/
abbrev trdNow : Nat := 0x400008
/-- TRD_OFFSET (spec/02_time.md). -/
abbrev trdOffset : Nat := 0x400010
/-- TRD_ASYMn (spec/02_time.md). -/
abbrev trdAsym : Nat := 0x400020
/-- TRD_PCAP (spec/02_time.md). -/
abbrev trdPcap : Nat := 0x400040
/-- TRD_PWR (spec/02_time.md). -/
abbrev trdPwr : Nat := 0x400044
/-- TRD_WCTRL (spec/02_time.md). -/
abbrev trdWctrl : Nat := 0x4000
/-- TRD_WSTAT (spec/02_time.md). -/
abbrev trdWstat : Nat := 0x4004
/-- TRD_WOVR (spec/02_time.md). -/
abbrev trdWovr : Nat := 0x4008
/-- WNG_CFG_BASE (spec/03_core.md). -/
abbrev wngCfgBase : Nat := 0x8100
/-- WNG_CFG_COUNT (spec/03_core.md). -/
abbrev wngCfgCount : Nat := 0x8108
/-- WNG_CREC_BASE (spec/03_core.md). -/
abbrev wngCrecBase : Nat := 0x8110
/-- WNG_GREC_BASE (spec/03_core.md). -/
abbrev wngGrecBase : Nat := 0x8118
/-- WNG_SEEDn (spec/03_core.md). -/
abbrev wngSeed : Nat := 0x8120
/-- WNG_SCL_BASE (spec/04_formats.md). -/
abbrev wngSclBase : Nat := 0x8140
/-- WNG_SCL_COUNT (spec/04_formats.md). -/
abbrev wngSclCount : Nat := 0x8148
/-- WNG_STEP (spec/04_formats.md). -/
abbrev wngStep : Nat := 0x8150
/-- SVC_HBM_SIZE (spec/06_memory.md). -/
abbrev svcHbmSize : Nat := 0xC00300
/-- SVC_HBM_CHn (spec/06_memory.md). -/
abbrev svcHbmCh : Nat := 0xC00400
/-- WNG_GPINn (spec/06_memory.md). -/
abbrev wngGpin : Nat := 0x8160
/-- DMA_QWGT (spec/07_streams_dma.md). -/
abbrev dmaQwgt : Nat := 0x800000
/-- DMA_CH_RING (spec/07_streams_dma.md). -/
abbrev dmaChRing : Nat := 0xC100
/-- DMA_CH_CTRL (spec/07_streams_dma.md). -/
abbrev dmaChCtrl : Nat := 0xC108
/-- DMA_CH_TAIL (spec/07_streams_dma.md). -/
abbrev dmaChTail : Nat := 0xC10C
/-- DMA_CH_HEAD (spec/07_streams_dma.md). -/
abbrev dmaChHead : Nat := 0xC110
/-- DMA_CH_STAT (spec/07_streams_dma.md). -/
abbrev dmaChStat : Nat := 0xC114
/-- WNG_GEN_SEQ (spec/08_generation.md). -/
abbrev wngGenSeq : Nat := 0x8180
/-- WNG_GEN_VOCAB (spec/08_generation.md). -/
abbrev wngGenVocab : Nat := 0x8188
/-- WNG_GEN_LTAB (spec/08_generation.md). -/
abbrev wngGenLtab : Nat := 0x8190
/-- WNG_GEN_MASK (spec/08_generation.md). -/
abbrev wngGenMask : Nat := 0x8198
/-- WNG_GEN_EVT (spec/08_generation.md). -/
abbrev wngGenEvt : Nat := 0x81A0
/-- WNG_GEN_EVT_PROD (spec/08_generation.md). -/
abbrev wngGenEvtProd : Nat := 0x81A8
/-- WNG_KV_POOL (spec/09_kv_cache.md). -/
abbrev wngKvPool : Nat := 0x81B0
/-- WNG_KV_GEOM (spec/09_kv_cache.md). -/
abbrev wngKvGeom : Nat := 0x81B8
/-- WNG_KV_PT (spec/09_kv_cache.md). -/
abbrev wngKvPt : Nat := 0x81C0
/-- WNG_KV_PST (spec/09_kv_cache.md). -/
abbrev wngKvPst : Nat := 0x81C8
/-- WNG_KV_CXL (spec/09_kv_cache.md). -/
abbrev wngKvCxl : Nat := 0x81D0
/-- WNG_KV_HOST (spec/09_kv_cache.md). -/
abbrev wngKvHost : Nat := 0x81D8
/-- WNG_KV_HSLOTS (spec/09_kv_cache.md). -/
abbrev wngKvHslots : Nat := 0x81E0
/-- WNG_KV_CTRL (spec/09_kv_cache.md). -/
abbrev wngKvCtrl : Nat := 0x81E4
/-- WNG_KV_STAT (spec/09_kv_cache.md). -/
abbrev wngKvStat : Nat := 0x81E8
/-- WNG_KV_SLOTS (spec/09_kv_cache.md). -/
abbrev wngKvSlots : Nat := 0x81F0
/-- WNG_MDL (spec/10_variants_epochs.md). -/
abbrev wngMdl : Nat := 0x8200
/-- WNG_ADP (spec/10_variants_epochs.md). -/
abbrev wngAdp : Nat := 0x8208
/-- WNG_PFX (spec/10_variants_epochs.md). -/
abbrev wngPfx : Nat := 0x8210
/-- WNG_WEP (spec/10_variants_epochs.md). -/
abbrev wngWep : Nat := 0x8218
/-- WNG_WBANKn (spec/10_variants_epochs.md). -/
abbrev wngWbank : Nat := 0x8220
/-- WNG_TRN_CTRL (spec/11_training.md). -/
abbrev wngTrnCtrl : Nat := 0x8240
/-- WNG_TRN_AREA (spec/11_training.md). -/
abbrev wngTrnArea : Nat := 0x8248
/-- WNG_TRN_STASH (spec/11_training.md). -/
abbrev wngTrnStash : Nat := 0x8250
/-- WNG_TRN_SPILL (spec/11_training.md). -/
abbrev wngTrnSpill : Nat := 0x8258
/-- WNG_TRN_TAGS (spec/11_training.md). -/
abbrev wngTrnTags : Nat := 0x8260
/-- WNG_TRN_LW (spec/11_training.md). -/
abbrev wngTrnLw : Nat := 0x8268
/-- WNG_TRN_LWS (spec/11_training.md). -/
abbrev wngTrnLws : Nat := 0x8270
/-- WNG_TRN_STAT (spec/11_training.md). -/
abbrev wngTrnStat : Nat := 0x8278
/-- WNG_XCH (spec/12_exchange.md). -/
abbrev wngXch : Nat := 0x8280
/-- WNG_XCH_CTRL (spec/12_exchange.md). -/
abbrev wngXchCtrl : Nat := 0x8288
/-- WNG_XCH_DROP (spec/12_exchange.md). -/
abbrev wngXchDrop : Nat := 0x828C
/-- WNG_LEP (spec/13_turn.md). -/
abbrev wngLep : Nat := 0x82A0
/-- WNG_LAYn (spec/13_turn.md). -/
abbrev wngLay : Nat := 0x82A8
/-- WNG_TURN_CTRL (spec/13_turn.md). -/
abbrev wngTurnCtrl : Nat := 0x82B8
/-- WNG_TURN_MAP (spec/13_turn.md). -/
abbrev wngTurnMap : Nat := 0x82C0
/-- WNG_TURN_SNAP (spec/13_turn.md). -/
abbrev wngTurnSnap : Nat := 0x82C8
/-- WNG_TURN_BLK (spec/13_turn.md). -/
abbrev wngTurnBlk : Nat := 0x82D0
/-- WNG_TURN_ERR (spec/13_turn.md). -/
abbrev wngTurnErr : Nat := 0x82D8
/-- WNG_TURN_RAW (spec/13_turn.md). -/
abbrev wngTurnRaw : Nat := 0x82E0
/-- HAL_CFG (spec/14_hall_fabric.md). -/
abbrev halCfg : Nat := 0xA00000
/-- HAL_ME (spec/14_hall_fabric.md). -/
abbrev halMe : Nat := 0xA00008
/-- HAL_RTO (spec/14_hall_fabric.md). -/
abbrev halRto : Nat := 0xA00010
/-- HAL_PORTn (spec/14_hall_fabric.md). -/
abbrev halPort : Nat := 0xA00040
/-- HAL_PERRn (spec/14_hall_fabric.md). -/
abbrev halPerr : Nat := 0xA00100
/-- HAL_INJn (spec/14_hall_fabric.md). -/
abbrev halInj : Nat := 0xA00200
/-- WNG_MIR (spec/14_hall_fabric.md). -/
abbrev wngMir : Nat := 0x8300
/-- WNG_MIR_STAT (spec/14_hall_fabric.md). -/
abbrev wngMirStat : Nat := 0x8308
/-- WNG_MIR_RX (spec/14_hall_fabric.md). -/
abbrev wngMirRx : Nat := 0x8310
/-- WNG_PROT (spec/15_wings.md). -/
abbrev wngProt : Nat := 0x8000
/-- WNG_CRED (spec/15_wings.md). -/
abbrev wngCred : Nat := 0x8008
/-- WNG_WINn (spec/15_wings.md). -/
abbrev wngWin : Nat := 0x8020
/-- WNG_DMASETn (spec/15_wings.md). -/
abbrev wngDmaset : Nat := 0x8060
/-- WNG_CORESn (spec/15_wings.md). -/
abbrev wngCores : Nat := 0x8400
/-- WNG_FLT (spec/15_wings.md). -/
abbrev wngFlt : Nat := 0x8088
/-- WNG_IRQ (spec/15_wings.md). -/
abbrev wngIrq : Nat := 0x8080
/-- WNG_CTX (spec/15_wings.md). -/
abbrev wngCtx : Nat := 0x8090
/-- WNG_CTXSAVE (spec/15_wings.md). -/
abbrev wngCtxsave : Nat := 0x8098
/-- WNG_CTXS (spec/15_wings.md). -/
abbrev wngCtxs : Nat := 0x80A0
/-- MBX_ID (spec/16_newel.md). -/
abbrev mbxId : Nat := 0x0
/-- MBX_CTRL (spec/16_newel.md). -/
abbrev mbxCtrl : Nat := 0x8
/-- MBX_CMD (spec/16_newel.md). -/
abbrev mbxCmd : Nat := 0x10
/-- MBX_CMD_DB (spec/16_newel.md). -/
abbrev mbxCmdDb : Nat := 0x18
/-- MBX_CMD_HEAD (spec/16_newel.md). -/
abbrev mbxCmdHead : Nat := 0x1C
/-- MBX_CPL (spec/16_newel.md). -/
abbrev mbxCpl : Nat := 0x20
/-- MBX_CPL_HEAD (spec/16_newel.md). -/
abbrev mbxCplHead : Nat := 0x28
/-- MBX_CPL_TAIL (spec/16_newel.md). -/
abbrev mbxCplTail : Nat := 0x2C
/-- MBX_EVT (spec/16_newel.md). -/
abbrev mbxEvt : Nat := 0x30
/-- MBX_EVT_PROD (spec/16_newel.md). -/
abbrev mbxEvtProd : Nat := 0x38
/-- SVC_TRUST (spec/17_trust.md). -/
abbrev svcTrust : Nat := 0xC00600
/-- SVC_DEBUG (spec/17_trust.md). -/
abbrev svcDebug : Nat := 0xC00608
/-- SVC_LOG (spec/17_trust.md). -/
abbrev svcLog : Nat := 0xC00610
/-- SVC_PKEYVAL (spec/17_trust.md). -/
abbrev svcPkeyval : Nat := 0xC00618
/-- SVC_PKEYn (spec/17_trust.md). -/
abbrev svcPkey : Nat := 0xC00800
/-- WNG_KEYS (spec/17_trust.md). -/
abbrev wngKeys : Nat := 0x80A8
/-- WNG_LOAD (spec/17_trust.md). -/
abbrev wngLoad : Nat := 0x80B0
/-- ACC_CTRL (spec/18_accounting.md). -/
abbrev accCtrl : Nat := 0xE00000
/-- ACC_RING (spec/18_accounting.md). -/
abbrev accRing : Nat := 0xE00008
/-- ACC_PROD (spec/18_accounting.md). -/
abbrev accProd : Nat := 0xE00010
/-- ACC_CONS (spec/18_accounting.md). -/
abbrev accCons : Nat := 0xE00014
/-- ACC_HOLD (spec/18_accounting.md). -/
abbrev accHold : Nat := 0xE00018
/-- ACC_STATIC (spec/18_accounting.md). -/
abbrev accStatic : Nat := 0xE00020
/-- ACC_TEL (spec/18_accounting.md). -/
abbrev accTel : Nat := 0xE00028
/-- ACC_TELMASK (spec/18_accounting.md). -/
abbrev accTelmask : Nat := 0xE00030
/-- ACC_TEL_PROD (spec/18_accounting.md). -/
abbrev accTelProd : Nat := 0xE00034
/-- SVC_BGn (spec/19_service.md). -/
abbrev svcBg : Nat := 0xC00700
/-- SVC_BIST (spec/19_service.md). -/
abbrev svcBist : Nat := 0xC00780
/-- SVC_TSENSE (spec/19_service.md). -/
abbrev svcTsense : Nat := 0xC00788
/-- SVC_SPARES (spec/19_service.md). -/
abbrev svcSpares : Nat := 0xC00790
/-- SVC_FLASH (spec/19_service.md). -/
abbrev svcFlash : Nat := 0xC00798
/-- PCI_ID (spec/20_host_links.md). -/
abbrev pciId : Nat := 0x0
/-- PCI_SERIAL (spec/20_host_links.md). -/
abbrev pciSerial : Nat := 0x10
/-- PCI_ERR (spec/20_host_links.md). -/
abbrev pciErr : Nat := 0x20
/-- CXL_PORTn (spec/20_host_links.md). -/
abbrev cxlPort : Nat := 0x1000000
/-- CXL_CTOn (spec/20_host_links.md). -/
abbrev cxlCto : Nat := 0x1000008
/-- SVC_BOOT (spec/21_startup_reset.md). -/
abbrev svcBoot : Nat := 0xC00100
end Reg
/-- The registers of a wing's TRD and WNG parts (R334). -/
def wingRegRows : List RegRow :=
  [⟨Reg.trdWctrl, 1, 0, 4, 0x3, 0x0, .now⟩,
   ⟨Reg.trdWstat, 1, 0, 4, 0x0, 0x0, .other⟩,
   ⟨Reg.trdWovr, 1, 0, 4, 0x0, 0x0, .other⟩,
   ⟨Reg.wngCfgBase, 1, 0, 8, 0x0, 0x0, .other⟩,
   ⟨Reg.wngCfgCount, 1, 0, 4, 0x0, 0x0, .other⟩,
   ⟨Reg.wngCrecBase, 1, 0, 8, 0x7FFFFFFFFFC0, 0x0, .now⟩,
   ⟨Reg.wngGrecBase, 1, 0, 8, 0x7FFFFFFFFFC0, 0x0, .now⟩,
   ⟨Reg.wngSeed, 4, 4, 4, 0xFFFFFFFF, 0x0, .next⟩,
   ⟨Reg.wngSclBase, 1, 0, 8, 0x7FFFFFFFFF80, 0x0, .now⟩,
   ⟨Reg.wngSclCount, 1, 0, 4, 0x1FFFF, 0x0, .now⟩,
   ⟨Reg.wngStep, 1, 0, 4, 0xFFFFFFFF, 0x0, .next⟩,
   ⟨Reg.wngGpin, 4, 8, 8, 0x7FFFFFF07FFFFFF, 0x0, .next⟩,
   ⟨Reg.wngGenSeq, 1, 0, 8, 0xFFFE7FFFFFFFFF00, 0x0, .now⟩,
   ⟨Reg.wngGenVocab, 1, 0, 4, 0x7FFFF, 0x0, .now⟩,
   ⟨Reg.wngGenLtab, 1, 0, 8, 0x7FFFFF000000, 0x0, .now⟩,
   ⟨Reg.wngGenMask, 1, 0, 8, 0xFFFFFFFFFFFFFFF0, 0x0, .now⟩,
   ⟨Reg.wngGenEvt, 1, 0, 8, 0x1F7FFFFFFFF00F, 0x0, .next⟩,
   ⟨Reg.wngGenEvtProd, 1, 0, 4, 0x0, 0x0, .other⟩,
   ⟨Reg.wngKvPool, 1, 0, 8, 0x7FFFFFFFFF80, 0x0, .now⟩,
   ⟨Reg.wngKvGeom, 1, 0, 8, 0xFFFFFFFFFFFEFFFF, 0x0, .now⟩,
   ⟨Reg.wngKvPt, 1, 0, 8, 0xF8007FFFFFF00000, 0x0, .now⟩,
   ⟨Reg.wngKvPst, 1, 0, 8, 0x7FFFFFFFFFC0, 0x0, .now⟩,
   ⟨Reg.wngKvCxl, 1, 0, 8, 0xFFFFFFFFFFFFFFFF, 0x0, .now⟩,
   ⟨Reg.wngKvHost, 1, 0, 8, 0xFFFFFFFFFFFFF000, 0x0, .now⟩,
   ⟨Reg.wngKvHslots, 1, 0, 4, 0xFFFFFF, 0x0, .now⟩,
   ⟨Reg.wngKvCtrl, 1, 0, 4, 0xFFFFFFF, 0x0, .next⟩,
   ⟨Reg.wngKvStat, 1, 0, 8, 0x0, 0x0, .other⟩,
   ⟨Reg.wngKvSlots, 1, 0, 8, 0x0, 0x0, .other⟩,
   ⟨Reg.wngMdl, 1, 0, 4, 0x3FF, 0x0, .now⟩,
   ⟨Reg.wngAdp, 1, 0, 8, 0xFFF87FFFFFFFFFC0, 0x0, .now⟩] ++
  [⟨Reg.wngPfx, 1, 0, 8, 0xFFFFFFFFFFFFF800, 0x0, .now⟩,
   ⟨Reg.wngWep, 1, 0, 8, 0x0, 0x0, .other⟩,
   ⟨Reg.wngWbank, 2, 8, 8, 0x7FFFFFF07FFFFFF, 0x0, .now⟩,
   ⟨Reg.wngTrnCtrl, 1, 0, 4, 0xFFFF7F0C, 0x0, .next⟩,
   ⟨Reg.wngTrnArea, 1, 0, 8, 0x7FFFFFF00000, 0x0, .now⟩,
   ⟨Reg.wngTrnStash, 1, 0, 8, 0x7FFFFFFFFFFFFFF, 0x0, .now⟩,
   ⟨Reg.wngTrnSpill, 1, 0, 8, 0x7FFFFFF007FFFFF, 0x0, .now⟩,
   ⟨Reg.wngTrnTags, 1, 0, 8, 0xFFFFFFFFFFFFFFF0, 0x0, .now⟩,
   ⟨Reg.wngTrnLw, 1, 0, 8, 0xFFFFFFFFFFFFFFFF, 0x0, .next⟩,
   ⟨Reg.wngTrnLws, 1, 0, 8, 0x0, 0x0, .other⟩,
   ⟨Reg.wngTrnStat, 1, 0, 8, 0x0, 0x0, .other⟩,
   ⟨Reg.wngXch, 1, 0, 8, 0xFFF87FFFFFFFFF00, 0x0, .now⟩,
   ⟨Reg.wngXchCtrl, 1, 0, 4, 0xF8, 0x0, .next⟩,
   ⟨Reg.wngXchDrop, 1, 0, 4, 0x0, 0x0, .other⟩,
   ⟨Reg.wngLep, 1, 0, 8, 0x0, 0x0, .other⟩,
   ⟨Reg.wngLay, 2, 8, 8, 0x0, 0x0, .other⟩,
   ⟨Reg.wngTurnCtrl, 1, 0, 4, 0x7, 0x0, .next⟩,
   ⟨Reg.wngTurnMap, 1, 0, 8, 0x7FFFFFFFFFC0, 0x0, .now⟩,
   ⟨Reg.wngTurnSnap, 1, 0, 8, 0x7FFFFFFFFFC0, 0x0, .now⟩,
   ⟨Reg.wngTurnBlk, 1, 0, 8, 0x0, 0x0, .other⟩,
   ⟨Reg.wngTurnErr, 1, 0, 8, 0x0, 0x0, .other⟩,
   ⟨Reg.wngTurnRaw, 1, 0, 4, 0x0, 0x0, .other⟩,
   ⟨Reg.wngMir, 1, 0, 8, 0xFFFF7FFFFFFFFFE0, 0x0, .now⟩,
   ⟨Reg.wngMirStat, 1, 0, 8, 0x0, 0x0, .other⟩,
   ⟨Reg.wngMirRx, 1, 0, 16, 0x40000000, 0x0, .now⟩,
   ⟨Reg.wngProt, 1, 0, 8, 0xFFFFFFFFFFFFF000, 0x0, .prot⟩,
   ⟨Reg.wngCred, 1, 0, 4, 0xFFFFFF, 0x0, .prot⟩,
   ⟨Reg.wngWin, 8, 8, 8, 0xC7FFFFFF07FFFFFF, 0x0, .prot⟩,
   ⟨Reg.wngDmaset, 8, 4, 4, 0xFFFFFFFF, 0x0, .prot⟩,
   ⟨Reg.wngCores, 25, 4, 4, 0xFFFFFFFF, 0x0, .prot⟩] ++
  [⟨Reg.wngFlt, 1, 0, 8, 0x0, 0x0, .other⟩,
   ⟨Reg.wngIrq, 1, 0, 4, 0xFFFFFE00, 0x0, .next⟩,
   ⟨Reg.wngCtx, 1, 0, 8, 0x7FFFFFFE7FFFFFF, 0x0, .now⟩,
   ⟨Reg.wngCtxsave, 1, 0, 8, 0xFFFFFFFFFFFFF001, 0x0, .now⟩,
   ⟨Reg.wngCtxs, 1, 0, 4, 0x0, 0x0, .other⟩,
   ⟨Reg.wngKeys, 1, 0, 4, 0xFF, 0x0, .prot⟩,
   ⟨Reg.wngLoad, 1, 0, 8, 0x0, 0xFFFFFFFF00000000, .other⟩]

/-- The registers of the PF outside its mailbox (R444). -/
def pfRegRows : List RegRow :=
  [⟨Reg.trdCtrl, 1, 0, 4, 0x3, 0x0, .prot⟩,
   ⟨Reg.trdStatus, 1, 0, 4, 0x0, 0xFC0001E0, .other⟩,
   ⟨Reg.trdNow, 1, 0, 8, 0x0, 0x0, .other⟩,
   ⟨Reg.trdOffset, 1, 0, 4, 0x0, 0x0, .other⟩,
   ⟨Reg.trdAsym, 8, 4, 4, 0xFFFF, 0x0, .prot⟩,
   ⟨Reg.trdPcap, 1, 0, 4, 0xFFF, 0xAF0, .prot⟩,
   ⟨Reg.trdPwr, 1, 0, 4, 0x0, 0x0, .other⟩,
   ⟨Reg.svcHbmSize, 1, 0, 4, 0x0, 0x600, .other⟩,
   ⟨Reg.svcHbmCh, 128, 4, 4, 0x0, 0x0, .other⟩,
   ⟨Reg.dmaQwgt, 1, 0, 4, 0xFFFFFFFF, 0x88442211, .prot⟩,
   ⟨Reg.halCfg, 1, 0, 4, 0xFFFFF, 0x0, .prot⟩,
   ⟨Reg.halMe, 1, 0, 8, 0x1FFFF, 0x0, .prot⟩,
   ⟨Reg.halRto, 1, 0, 4, 0xFFFFF, 0x800FA, .prot⟩,
   ⟨Reg.halPort, 9, 8, 8, 0x8000000000000000, 0x0, .prot⟩,
   ⟨Reg.halPerr, 9, 16, 16, 0x0, 0x0, .other⟩,
   ⟨Reg.halInj, 9, 8, 8, 0x7FFFFFFFF, 0x0, .prot⟩,
   ⟨Reg.svcTrust, 1, 0, 4, 0x0, 0x0, .other⟩,
   ⟨Reg.svcDebug, 1, 0, 8, 0x0, 0x0, .other⟩,
   ⟨Reg.svcLog, 1, 0, 8, 0x0, 0x0, .other⟩,
   ⟨Reg.svcPkeyval, 1, 0, 4, 0xFF, 0x0, .prot⟩,
   ⟨Reg.svcPkey, 8, 64, 64, 0xFFFFFFFFFFFFFFFFFFFFFFFFFFFFFFFFFFFFFFFFFFFFFFFFFFFFFFFFFFFFFFFFFFFFFFFFFFFFFFFFFFFFFFFFFFFFFFFFFFFFFFFFFFFFFFFFFFFFFFFFFFFFFFFF, 0x0, .prot⟩,
   ⟨Reg.accCtrl, 1, 0, 4, 0xFFFFFF, 0x0, .prot⟩,
   ⟨Reg.accRing, 1, 0, 8, 0xFFFFFFFFFFFFF00F, 0x0, .prot⟩,
   ⟨Reg.accProd, 1, 0, 4, 0x0, 0x0, .other⟩,
   ⟨Reg.accCons, 1, 0, 4, 0xFFFFFFFF, 0x0, .now⟩,
   ⟨Reg.accHold, 1, 0, 4, 0x0, 0x0, .other⟩,
   ⟨Reg.accStatic, 1, 0, 4, 0x0, 0x6DDD0, .other⟩,
   ⟨Reg.accTel, 1, 0, 8, 0xFFFFFFFFFFFFF01F, 0x0, .prot⟩,
   ⟨Reg.accTelmask, 1, 0, 4, 0xFFFFFFFF, 0x0, .prot⟩,
   ⟨Reg.accTelProd, 1, 0, 4, 0x0, 0x0, .other⟩] ++
  [⟨Reg.svcBg, 16, 8, 8, 0x0, 0x0, .other⟩,
   ⟨Reg.svcBist, 1, 0, 4, 0x0, 0x0, .other⟩,
   ⟨Reg.svcTsense, 1, 0, 8, 0x0, 0x0, .other⟩,
   ⟨Reg.svcSpares, 1, 0, 8, 0x0, 0x8888, .other⟩,
   ⟨Reg.svcFlash, 1, 0, 8, 0x0, 0x0, .other⟩,
   ⟨Reg.pciId, 1, 0, 4, 0x0, 0x11000, .other⟩,
   ⟨Reg.pciSerial, 1, 0, 16, 0x0, 0x0, .other⟩,
   ⟨Reg.pciErr, 1, 0, 4, 0x0, 0x0, .other⟩,
   ⟨Reg.cxlPort, 2, 256, 8, 0x8000000000000000, 0x0, .prot⟩,
   ⟨Reg.cxlCto, 2, 256, 4, 0xFFFF, 0x3E8, .prot⟩,
   ⟨Reg.svcBoot, 1, 0, 8, 0x0, 0x0, .other⟩]

/-- The row and the index of the register that holds an offset. -/
def RegRow.find (rows : List RegRow) (off : Nat) : Option (RegRow × Nat) :=
  match rows with
  | [] => none
  | r :: rs =>
    let st := if r.stride = 0 then r.bytes else r.stride
    if r.key ≤ off ∧ off < r.key + st * r.n ∧ (off - r.key) % st < r.bytes then some (r, (off - r.key) / st)
    else RegRow.find rs off

/-- The reset value of a register, 0 for an offset that no row holds. -/
def RegRow.resetOf (rows : List RegRow) (off : Nat) : Nat :=
  match RegRow.find rows off with
  | some (r, _) => r.reset
  | none => 0

end Sys2Proof.Machine
end

