-- ==== Sys2Proof/Machine/State.lean ====
section
/-!
DEFINITION. The state of the module as plain data, its faults and refusals, and the state right after cold reset. Tables of
like things are sparse (`Tab`): an entry that is not listed holds its default. Tread numbers are `Nat`s below 2^48.
-/
namespace Sys2Proof.Machine

/-- Reasons for which the machine stops with a fault. No command of this model raises one: every fault the spec describes is
a record, a count, a status or a poison mark, and the machine goes on. Safe: the constructor is never answered. -/
inductive Fault
  | stuck
deriving DecidableEq, Repr

/-- Reasons for which a command has no meaning. `notModelled`: raised by `exec` for a row not modelled; safe, since the run
stops. No arm of `exec` answers it once every row has its meaning. -/
inductive Refusal
  | notModelled (mnemonic : String)
deriving DecidableEq, Repr

/-- A byte store in canonical form: `cells` rise strictly and hold no zero byte (an address that is not listed reads 0);
`errs` rise strictly in the word address and hold the nonzero syndrome a read of that 32-bit word sees (R139; 0x7F = 127 is
the stored poison mark of R140). The cells are the coherent view of R124: the gallery's line where it holds one. -/
structure Mem where
  cells : List Host.Cell := []
  errs : Tab Nat := []
deriving DecidableEq, Repr

/-- A valid gallery line (R128 to R130): the line number `tag` = address[46:8], dirty flag, reuse count 0 to 3, for a dirty line the 256
bytes that memory behind it still holds, and the syndromes of the words that memory behind it holds. -/
structure Line where
  tag : Nat
  dirty : Bool
  reuse : Nat
  back : List Byte
  backErr : Tab Nat
deriving DecidableEq, Repr

/-- The gallery: lines by slice × 65,536 + set × 16 + way, the rotating pointer of each set by slice × 4,096 + set,
retired locations, spare lines in use by location (R430), syndromes of words at invalid locations by location × 64 + word (Table 6.4),
and repair candidates. -/
structure Gallery where
  lines : Tab Line := []
  ptrs : Tab Nat := []
  retired : List Nat := []
  spared : List Nat := []
  stale : Tab Nat := []
  ce : Tab Nat := []
  candidates : List Nat := []
deriving DecidableEq, Repr

/-- A repair candidate row of HBM (R145): channel, bank, row and why. -/
structure RowCand where
  ch : Nat
  bank : Nat
  row : Nat
deriving DecidableEq, Repr

/-- HBM repair and retirement (R145 to R150). `spares` holds the spare rows used by channel × 16 + bank, `order` the retired
channels in order, `gone` the retired granules by number, `migrated` the granules of the migrating channel that have
flipped, `ceWords` the words with corrected errors (row key, word, patrol pass), `ueTread` UEs found this tread, `faultCh` the migrating
channel if it was in FAULT when its retirement began, `dropped` the writes discarded in FAULT. -/
structure Hbm where
  spares : Tab Nat := []
  order : List Nat := []
  migrating : Option Nat := none
  migrated : Nat := 0
  gone : List Nat := []
  ceWords : List (Nat × Nat × Nat) := []
  cands : List RowCand := []
  ueTread : Tab Nat := []
  faultCh : Option Nat := none
  dropped : Tab Nat := []
deriving DecidableEq, Repr

/-- A unit's state views (R380): hardware state and epoch, intended state, whether an acknowledged intent waits for the
boundary (and which mailbox command it answers), the tread in which the present disagreement began, whether its UNIT_DIVERGE
event is written, the CE and UE counts since cold reset, and whether the hardware changed its word by itself (the newel adopts
it at the next boundary). -/
structure UnitSt where
  hw : Nat
  epoch : Nat
  want : Nat
  ackd : Bool
  since : Option Nat
  told : Bool
  ce : Nat
  ue : Nat
  own : Bool
deriving DecidableEq, Repr

/-- The history of hall-time markers on a port (R36 to R38): consecutive treads with a good marker, up to 16; treads without
a marker, up to 16; whether a marker came this tread; its last fields; reception phase in 1/8 clk and its tread; the offset
measured this tread. -/
structure PortMark where
  good : Nat := 0
  missed : Nat := 0
  got : Bool := false
  msg : Option MarkerMsg := none
  rx8 : Nat := 0
  rxTread : Nat := 0
  theta2 : Option Int := none
deriving DecidableEq, Repr

/-- The hall-time unit (spec/02_time.md). `run20`, `run40`, `noSrc`, `hold` are the counts of Table 2.4, `stepMade` says that
the step of R42 toward the parent is made, `tx8` is the phase of the own marker sent in this tread and `tx8Prev` of the one
before, `nowLatch` the upper half latched per function (R59), `gap` the clk of the last step's gap, `inGap` the number of the tread that
ended when the present moment lies in that gap (R43), `stepNow` whether the last boundary was the step, `stepped` the number of the tread
that it ended when the step moved the number other than by one, `crossed` whether a row that stands for an action of this boundary has
already carried the boundary out (log entry 35), `sent` the markers sent in this tread. Offsets are held as twice their value in 1/8 clk, so that R38's halving is exact. -/
structure TimeSt where
  tread : Nat := 0
  phase : Nat := 0
  lock : Nat := 0
  parent : Nat := 15
  root : Nat := 0
  hops : Nat := 63
  rconf : Bool := false
  behind : Bool := false
  theta2 : Int := 0
  thetaReg : Nat := 0
  run20 : Nat := 0
  run40 : Nat := 0
  noSrc : Nat := 0
  hold : Nat := 0
  stepMade : Bool := false
  tx8 : Nat := 0
  tx8Prev : Int := -300800
  gap : Nat := 0
  inGap : Option Nat := none
  stepNow : Bool := false
  crossed : Bool := false
  stepped : Option Nat := none
  sent : Tab MarkerMsg := []
  marks : Tab PortMark := []
  nowLatch : Tab Nat := []
deriving DecidableEq, Repr

/-- Input power and temperature (R57, R464, R478, R475): mean power in µW of the treads measured, latest first, at most 2,500; the
idle treads inserted; whether measurement runs; the kind of the present tread (0 working, 1 soft idle, 2 idle for every
core); the samples of the last boundary. -/
structure PowerSt where
  hist : List Nat := []
  idleCnt : Nat := 0
  measuring : Bool := false
  idleKind : Nat := 0
  temp8 : Int := 0
  hot : Bool := false
  brakeHeld : Bool := false
  brakeLow : Bool := false
  bcap : Nat := 0
  bcapNext : Option Nat := none
deriving DecidableEq, Repr

/-- An outstanding command of a mailbox (R365): its number, the function, the wing it acts on, the entry's fields, the stamp of
acceptance, the first tread at whose boundary its effect takes place (R366) and a progress word with data of its own. -/
structure Cmd where
  cid : Nat
  fn : Nat
  wing : Nat
  op : Nat
  tag : Nat
  irq : Bool
  at_ : Nat
  aclk : Nat
  eff : Nat
  w : List Nat
  prog : Nat
  aux : List Nat
deriving DecidableEq, Repr

/-- A completion that fell due and is not written yet (R381): the command, status, detail, tread of outcome and results. -/
structure Cpl where
  cmd : Cmd
  status : Nat
  detail : Nat
  dtread : Nat
  r : List Nat
deriving DecidableEq, Repr

/-- An event slot to be written (R370): the functions' rings, its 32 body bytes and its class. -/
structure EvtRec where
  fns : List Nat
  body : List Byte
  cls : Nat
deriving DecidableEq, Repr

/-- A function's mailbox and MSI-X state (spec/16_newel.md, R340). `cplUsed` counts completions written and not
consumed, `tbl` holds the MSI-X table by 32-bit word (4 × vector +
word), `pend` the pending bits, `fired` the vectors fired for the next boundary, `raised` those of the last boundary. -/
structure FnSt where
  ctrl : Nat := 0
  cmd : Nat := 0
  tail : Nat := 0
  head : Nat := 0
  cpl : Nat := 0
  cplHead : Nat := 0
  cplTail : Nat := 0
  cplUsed : Nat := 0
  cphase : Bool := false
  evt : Nat := 0
  evtProd : Nat := 0
  tbl : Tab Nat := []
  pend : Nat := 0
  fired : Nat := 0
  raised : Nat := 0
  msixEn : Bool := false
  fnMask : Bool := false
deriving DecidableEq, Repr

/-- The newel (R361 to R384): whether it runs, the cause of the restart in progress, restarts since cold reset,
the FW_ACTIVATE in progress and whether the former slot is restarted, outstanding commands in acceptance order, completions and events waiting,
and the rings served in the present round of R367, latest first. -/
structure Newel where
  running : Bool := false
  cause : Nat := 0
  restarts : Nat := 0
  activating : Option Nat := none
  reverted : Bool := false
  nextCid : Nat := 0
  out : List Cmd := []
  due : List Cpl := []
  evq : List EvtRec := []
  evLost : Nat := 0
  round : List Nat := []
deriving DecidableEq, Repr

/-- A loaded flight (R46): header address and fields, the byte ranges read-only to its wing (R49, R153), and its bubbles as
(core rank, guest wing). -/
structure Flight where
  hdr : Nat
  id : Nat
  len : Nat
  rep : Nat
  hall : Bool
  base : Nat
  n : Nat
  ro : List (Nat × Nat)
  bubbles : List (Nat × Nat)
deriving DecidableEq, Repr

/-- A wing's flight slots (R50, R52): FSTATE and INDEX of TRD_WSTAT, tread of start, cycles ended, the index of a local flight's
next tread, and whether an entry is due in the present tread. -/
structure Flights where
  active : Option Flight := none
  pend : Option Flight := none
  fstate : Nat := 0
  index : Nat := 0
  start : Nat := 0
  cycles : Nat := 0
  pos : Nat := 0
  live : Bool := false
deriving DecidableEq, Repr

/-- A guest flight held for a lender (R341), and the one that replaces it at the next boundary. -/
structure Guest where
  lender : Nat
  fl : Flight
deriving DecidableEq, Repr

/-- A running or ended entry in a context slot of a core (R74, R83): the wing whose work it is, the entry's tread, FLIGHT_ID,
rank, whether it runs in the guest slot and for which lender's tread, the 128-bit entry, the 512-bit configuration word and
the 256-bit block entries latched, the WNG_STEP latched; progress (first issue made, blocks issued and retired, function
ended, work ended, stopped at a refusal); the counts of Table 3.8; AMAX per scale record; pinned pages and held lists of the
page walker (row, list); draw counts by lane × 256 + STREAM; BANK in force and the generator key of its tread; `work`: what the function
keeps for its end, by a number of its own; `snaps`: by slot, the table rows that its first issue read (R171, R199); `via`: by block issued, the way
mask and the exchange of context slots in force at its issue (R335). `late` counts boundaries passed before the end of the work. -/
structure Run where
  wing : Nat := 0
  tread : Nat := 0
  fid : Nat := 0
  rank : Nat := 0
  guest : Bool := false
  ent : Nat := 0
  cfg : Nat := 0
  blks : List Nat := []
  step : Nat := 0
  started : Bool := false
  issued : List Nat := []
  retired : List Nat := []
  fnDone : Bool := false
  done : Bool := false
  fault : Bool := false
  late : Nat := 0
  endClk : Nat := 0
  nf : Bool := false
  pzn : Bool := false
  vanished : Nat := 0
  saturated : Nat := 0
  pznBlocks : Nat := 0
  blocks : Nat := 0
  nfCount : Nat := 0
  fstat : Nat := 0
  amax : Tab Nat := []
  pins : List Nat := []
  held : List (Nat × Nat) := []
  draws : Tab Nat := []
  bank : Nat := 0
  key : Nat := 0
  work : Tab Nat := []
  snaps : Tab (List Byte) := []
  via : Tab (Nat × Nat × Nat × Nat) := []
deriving DecidableEq, Repr

/-- A logical core (R70, R75, R76): the physical half that has the work role, the quarter half that has the guest's work role,
whether the last quarter belongs to the guest slot, the wing whose guest work it last held, zeroing due, and the entries. -/
structure Core where
  half : Nat := 0
  gHalf : Nat := 0
  quarter : Bool := false
  gUser : Option Nat := none
  zeroQuarter : Bool := false
  zeroAll : Bool := false
  home : Option Run := none
  guest : Option Run := none
deriving DecidableEq, Repr

/-- A completion record to be written in clk 0 to 63 after the next boundary (R81). -/
structure CRec where
  wing : Nat
  guest : Bool
  tread : Nat
  core : Nat
  rank : Nat
  n : Nat
  bytes : List Byte
deriving DecidableEq, Repr

/-- The end of an entry, kept until the boundary for the void test (R178), the norm merge (R245), the vote flags (R248) and round
closes (R274): its wing, core and tread, the configuration word, STATUS, LATE, the step latched, and the run if one was made. -/
structure Ended where
  wing : Nat
  core : Nat
  tread : Nat
  cw : Nat
  status : Nat
  late : Bool
  step : Nat
  run : Option Run
deriving DecidableEq, Repr

/-- A staged commit of a generation step (R179): table, tread, slot, whether it samples, the rows of a prefill, the new LEN, the
new GSTATE, the ending (0 none, 1 STOP_TOKEN, 2 MAXLEN, 3 MASK_BAD) and a bad-logits reason (R186). -/
structure Commit where
  table : Nat
  tread : Nat
  slot : Nat
  sample : Bool
  rows : Nat
  newLen : Nat
  gstate : Nat
  ending : Nat
  bad : Option Nat
deriving DecidableEq, Repr

/-- A copy on the newel's transfers for the KV cache (R205, R209, R210) or a prefix registration (R227): kind 0 copy-on-write,
1 swap-out, 2 swap-in, 3 prefix; the sequence slot (or prefix handle); list index; source page or slot; destination; place of
the park slot (1 CXL, 2 host); whether it has landed, failed, or is discarded. -/
structure KvCopy where
  id : Nat
  kind : Nat
  slot : Nat
  idx : Nat
  src : Nat
  dst : Nat
  loc : Nat
  landed : Bool
  failed : Bool
  discard : Bool
deriving DecidableEq, Repr

/-- A staged edit of a row (R206): kind 0 admission, 1 fork, 2 swap-out, 3 swap-in; the mailbox command it answers; the row
bytes to be published for an admission or fork; the first tread at whose boundary it may flip. -/
structure Staged where
  slot : Nat
  kind : Nat
  cid : Option Nat
  row : List Byte
  eff : Nat
deriving DecidableEq, Repr

/-- Generation and KV state of a job that is not in memory (spec/08, spec/09): PROD of the event ring and whether this boundary wrote a
record; staged commits and edits; copies; park slots in use; WNG_KV_STAT.PARKS; rows that SEQ_RESUME named; slots that count for R173; rows
that ended and give up their pages at the next 4b; the adapter generation that PLAN fixed by length table × 16,384 + slot (R179, R225); the void
steps of each slot since wing reset (R178). -/
structure Gen where
  evtProd : Nat := 0
  evtIrq : Bool := false
  commits : List Commit := []
  staged : List Staged := []
  copies : List KvCopy := []
  nextCopy : Nat := 0
  cxlUsed : List Nat := []
  hostUsed : List Nat := []
  parks : Nat := 0
  resumeReq : List Nat := []
  seqs : List Nat := []
  ends : List Nat := []
  agens : Tab Nat := []
  voids : Tab Nat := []
deriving DecidableEq, Repr

/-- A DMA channel (R160 to R169): RING, CTRL, TAIL, HEAD and STAT; `idle`: nothing in progress or awaiting writeback; `waitOwn`:
the channel waits for a tail write (R162); `drain`: EN was cleared and the drain is not over. -/
structure Chan where
  ring : Nat := 0
  ctrl : Nat := 0
  tail : Nat := 0
  head : Nat := 0
  stat : Nat := 0
  idle : Bool := true
  waitOwn : Bool := false
  drain : Bool := false
deriving DecidableEq, Repr

/-- A pending weight-epoch flip (R219): E, the step it waits for (none: NEXT), the first boundary at which it may land, and the EPOCH_FLIP
command it answers (none: a turn's). -/
structure Flip where
  e : Nat
  atStep : Option Nat
  eff : Nat
  cid : Option Nat
deriving DecidableEq, Repr

/-- Weight epochs (spec/10): WNG_WEP's EPOCH and BANK and the pending flip. Adapters and prefixes lie in the wing's tables. -/
structure Variants where
  wep : Nat := 0
  bank : Nat := 0
  pend : Option Flip := none
deriving DecidableEq, Repr

/-- An allocation of a stash ring (R235): its tag, where it lies, where it ends with the gap before it, whether it is released. -/
structure Alloc where
  tag : Nat
  start : Nat
  len : Nat
  released : Bool
deriving DecidableEq, Repr

/-- A vote or verdict that falls due at 4k (R246, R248): the core, the step, the tread whose boundary it is, and what its blocks
contributed: the records read (STEP, FLAGS, LOSS, VOTES, NFC, PZC; none where read poisoned). `own`: no blocks. -/
structure VoteDue where
  core : Nat
  step : Nat
  due : Nat
  own : Bool
  recs : List (Option (List Nat))
deriving DecidableEq, Repr

/-- Training state of a wing (spec/11): RMODE, RECOMP, LATE, LONE; the allocations of the arena and the spill ring, oldest first,
with the head of each; the fields of WNG_TRN_STAT and WNG_TRN_LWS; verdicts formed, by step (1 APPLY, 0 SKIP); the flags ENTRY,
FORCE and LOSSV by step and the steps whose vote is written; T after each verdict, by step; FORCE written and not yet in effect; votes and verdicts due; ADVANCE entries ended and whether WNG_STEP was written
since the last 4l. -/
structure Training where
  rmode : Bool := false
  recomp : Nat := 0
  late : Bool := false
  lone : Bool := false
  arena : List Alloc := []
  arenaHead : Nat := 0
  spill : List Alloc := []
  spillHead : Nat := 0
  t : Nat := 0
  tAfter : Tab Nat := []
  reasons : Nat := 0
  lastSkip : Bool := false
  seen : Bool := false
  mean : Nat := 0
  var : Nat := 0
  verdicts : Tab Nat := []
  flags : Tab Nat := []
  voted : List Nat := []
  votes : List VoteDue := []
  judges : List VoteDue := []
  advance : Nat := 0
  stepW : Bool := false
  force : Bool := false
deriving DecidableEq, Repr

/-- Exchange state that is not in the table (spec/12): WNG_XCH_DROP; whether LATE or STALE of an entry has grown, or a round closed with MISS
nonzero, since the last 4m; and by XID the rounds opened, the missing count of the present one and its closing shares that have ended. -/
structure Exchange where
  drop : Nat := 0
  grown : Bool := false
  missed : Bool := false
  opens : Tab Nat := []
  missing : Tab Nat := []
  shares : List (Nat × Nat) := []
deriving DecidableEq, Repr

/-- A block to be requested raw, or requested (R291, R292): its place in the turn map, entry and block, failed attempts, and whether its request
is out. -/
structure RawBlk where
  idx : Nat
  entry : Nat
  block : Nat
  tries : Nat
  out : Bool
deriving DecidableEq, Repr

/-- An outstanding TURN_LAND (R293). -/
structure Land where
  t : Nat
  h : Nat
  wflip : Bool
  e : Nat
  seq : Nat
  cid : Nat
deriving DecidableEq, Repr

/-- Turn state of a wing (spec/13): WNG_LEP.EPOCH; the current and the pending layout table as base and COUNT; the counters of WNG_TURN_BLK,
WNG_TURN_ERR and WNG_TURN_RAW; raw requests in map order; failed blocks by place in the map; the CHECKs received by place in the map; the
landing window. -/
structure Turn where
  lep : Nat := 0
  cur : Option (Nat × Nat) := none
  pend : Option (Nat × Nat) := none
  expect : Nat := 0
  landed : Nat := 0
  dup : Nat := 0
  stale : Nat := 0
  pzn : Nat := 0
  rawreq : Nat := 0
  raws : List RawBlk := []
  failed : List Nat := []
  checks : Tab Nat := []
  land : Option Land := none
deriving DecidableEq, Repr

/-- Mirror state of a wing (R328 to R333): ROUND, RUN, DONE, DIRTY, SKIPPED; the next block of the round as (descriptor, block), the blocks
coded so far and the SAME blocks not sent yet; and as a receiver RR (none before a round opens), blocks landed, the failed flag and
WNG_MIR_RX. -/
structure Mirror where
  round : Nat := 0
  run : Bool := false
  done : Bool := false
  dirty : Bool := false
  skipped : Nat := 0
  desc : Nat := 0
  block : Nat := 0
  count : Nat := 0
  same : Nat := 0
  rr : Option Nat := none
  landed : Nat := 0
  failed : Bool := false
  half : Nat := 0
  cround : Nat := 0
  wepoch : Nat := 0
  lepoch : Nat := 0
deriving DecidableEq, Repr

/-- The MODEL_LOAD of a wing (R394 to R399) and what ATTEST reports of the last good one (Table 17.7): WNG_LOAD's fields; for a load in
progress the command, image, base, queues of (shard, copy) per flash channel, shards written, shards with a wrong hash seen; the last
good load's image, manifest digest, base and labels. -/
structure ModelLoad where
  fshard : Nat := 0xFFFFFFFF
  st : Nat := 0
  bad : Bool := false
  done : Nat := 0
  cid : Option Nat := none
  image : Nat := 0
  base : Nat := 0
  span : Nat := 0
  queues : Tab (List (Nat × Nat)) := []
  written : List Nat := []
  wrong : List Nat := []
  succeeded : Bool := false
  okId : Nat := 0
  okDigest : List Byte := []
  okBase : Nat := 0
  okLab0 : Nat := 0
  okLab1 : Nat := 0
deriving DecidableEq, Repr

/-- What a context of a wing holds (R351): the per-wing registers outside the protection set-up as last written (`wr`) and,
where a write waits for the boundary, in effect (`we`), by the offset of RegMap; the flight slots; the configuration store;
WNG_FLT and TRD_WOVR; the saved DMA channels of a context that is not active; and the state of each chapter. -/
structure Job where
  wr : Tab Nat := []
  we : Tab Nat := []
  fl : Flights := {}
  cfgBase : Nat := 0
  cfgCount : Nat := 0
  fltSeen : Bool := false
  fltCount : Nat := 0
  fltAddr : Nat := 0
  ovr : Nat := 0
  capskip : Nat := 0
  chans : Tab Chan := []
  gen : Gen := {}
  vr : Variants := {}
  trn : Training := {}
  xch : Exchange := {}
  turn : Turn := {}
  mir : Mirror := {}
deriving DecidableEq, Repr

/-- A job context of a wing (R351 to R353): state code of WNG_CTXS, the stamp of its entry to BLOCKED or WANT (tread), whether
CTX_SET or a semaphore blocked it, the state OUT or WANT that a wait took it from, NEED mask, resident slot, and the saved registers, flights and
model load. -/
structure Ctx where
  st : Nat := 0
  stamp : Nat := 0
  bySet : Bool := false
  back : Nat := 0
  need : Nat := 0
  slot : Option Nat := none
  saved : Job := {}
  load : ModelLoad := {}
deriving DecidableEq, Repr

/-- Accounting of a wing (spec/18_accounting.md): the counts of Table 18.1 in the open window by field number and since wing reset
(R417), those stamped at the boundary that is being carried out, which belong to what begins there (R34), what they were when its first window
opened, what the last telemetry record covered, the start of the window, the first window's start, and SEQ. -/
structure AccWing where
  win : Tab Nat := []
  cum : Tab Nat := []
  edge : Tab Nat := []
  base : Tab Nat := []
  tel : Tab Nat := []
  start : Nat := 0
  first : Nat := 0
  opened : Bool := false
  everOpened : Bool := false
  seq : Nat := 0
deriving DecidableEq, Repr

/-- A wing: protection registers as written and in effect, a change held by R336, its active job, guest flights held and those
that replace them at the next boundary, contexts and semaphores (holder by semaphore number; waiters as context × 32 +
semaphore with the stamp), the last FAULT record of R339, model load facts, quiesce, accounting. -/
structure Wing where
  pwr : Tab Nat := []
  pwe : Tab Nat := []
  conflict : Bool := false
  job : Job := {}
  guests : List Guest := []
  guestNext : List Guest := []
  ctxReg : Nat := 0
  ctxSave : Nat := 0
  active : Nat := 0
  ctxs : Tab Ctx := []
  sems : Tab Nat := []
  waits : Tab Nat := []
  ctxEvent : Bool := false
  fltSent : Bool := false
  fltLost : Nat := 0
  quiet : Bool := false
  load : ModelLoad := {}
  acc : AccWing := {}
deriving DecidableEq, Repr

/-- Start-up state (spec/21): code of Table 21.1, cause of the last reset, HBM_INIT, active slot of the flash record, running slot and
copy, failed copies, START_MS, the tread at which start-up began, rails good, reset inputs asserted, input switch and thermal latch
(spec/22), wing resets by FLR that wait for their boundary (wing and first boundary, R468), whether the ROM's key matches the fused hash
(log entry 13), and the first `events` of start-up, kept until the PF's event ring exists (R464). -/
structure Boot where
  st : Nat := 0
  cause : Nat := 0
  hbmInit : Bool := false
  active : Nat := 0
  slot : Nat := 0
  copy : Nat := 0
  failed : Nat := 0
  startMs : Nat := 0
  startTread : Nat := 0
  rails : Bool := false
  perst : Bool := true
  modRst : Bool := true
  switchOpen : Bool := false
  tripped : Bool := false
  flr : List (Nat × Nat) := []
  romKeyOk : Bool := true
  minSvn : Nat := 0
  events : List EvtRec := []
deriving DecidableEq, Repr

/-- PCIe configuration space as far as spec/20 states it (R441 to R444): VFs, the D-state of the PF, PCI_ERR, and the base addresses of BAR0 and of
the VFs' BAR0. -/
structure Pci where
  numVFs : Nat := 0
  vfEnable : Bool := false
  d3hot : Bool := false
  errSeen : Bool := false
  errCount : Nat := 0
  bar0 : Nat := 0
  vfBar0 : Nat := 0
deriving DecidableEq, Repr

/-- A CXL root port (R446 to R448): STATE, SPEED, WIDTH, SIZE in 256 MiB, LATE, TIMEOUTS, writes discarded while the link is down
(R137), lines whose read in progress has timed out, and lines whose late completion may still come. -/
structure CxlSt where
  st : Nat := 0
  speed : Nat := 0
  width : Nat := 0
  size : Nat := 0
  late : Nat := 0
  timeouts : Nat := 0
  discards : Nat := 0
  timed : List Nat := []
  gone : List Nat := []
deriving DecidableEq, Repr

/-- The board's side of the module (R450 to R455): alert bits of Table 20.6, in-band interrupts raised, whether the sideband runs as I3C and not
as SMBus, the SB_ADDR strap, the TAP's instruction and data register, the boundary register's update stage, whether an instruction has the
pins, and whether one had them since the last return to Test-Logic-Reset. -/
structure Board where
  alerts : Nat := 0
  ibi : Nat := 0
  i3c : Bool := false
  sbAddr : Nat := 0
  tapIr : Nat := 0xFF
  tapDr : Nat := 0
  bsr : Nat := 0
  pinsTaken : Bool := false
  pinsUsed : Bool := false
deriving DecidableEq, Repr

/-- An accounting record (Table 18.3): the wing (none for the module), start, end, SEQ, flag bits [26:22] and counts by field. -/
structure AccRec where
  wing : Option Nat
  start : Nat
  stop : Nat
  seq : Nat
  flags : Nat
  counts : Tab Nat
deriving DecidableEq, Repr

/-- Accounting and telemetry of the module (spec/18): the module's own window (as `AccWing`), input energy of the window in units
of 10 pJ, PROD, CONS, the hold, MERGES, the telemetry queue, TEL_PROD and LOST, and whether counts are stamped at the boundary that is being
carried out, or in the gap before it (R33, R43). -/
structure Acct where
  own : AccWing := {}
  input : Nat := 0
  prod : Nat := 0
  cons : Nat := 0
  held : List AccRec := []
  merges : Nat := 0
  telq : List (List Byte) := []
  telProd : Nat := 0
  telLost : Nat := 0
  edge : Bool := false
  static : Nat := 450000
deriving DecidableEq, Repr

/-- A firmware image in a flash slot (R400, R461): FORMAT, whether the reserved bytes are 0, CODE_LEN and whether it fits, SVN, whether its signature
verifies, interface level, Torak version, firmware digest; `readable`: flash still gives the bytes written. -/
structure FwCopy where
  format : Nat
  clean : Bool
  codeLen : Nat
  fits : Bool
  svn : Nat
  sigOk : Bool
  level : Nat
  version : Nat
  digest : List Byte
  readable : Bool
deriving DecidableEq, Repr

/-- A shard of an image (Table 17.3) with its bytes. -/
structure Shard where
  dataOff : Nat
  destOff : Nat
  len : Nat
  hash : List Byte
  data : List Byte
deriving DecidableEq, Repr

/-- An image in the directory (R389 to R392): header fields, signer's key hash, tread of the write, manifest bytes and signature, shards,
and the copies found bad or dropped, as 2 × (shard × 2 + copy), plus 1 when dropped. `cid`: the IMAGE_WRITE that still programs it; `place`: the
erase blocks that hold a copy, by shard × 2 + copy (R386). -/
structure Image where
  id : Nat
  total : Nat
  destSize : Nat
  lab0 : Nat
  lab1 : Nat
  keyHash : List Byte
  written : Nat
  manifest : List Byte
  sig : List Byte
  shards : List Shard
  lost : List Nat
  cid : Option Nat
  place : Tab (List Nat) := []
deriving DecidableEq, Repr

/-- Trust state (spec/17): the log queue, the stored log, next SEQ, CHAIN (empty stands for 64 zero bytes), LOG_FULL and LOG_HELD,
SVC_DEBUG, firmware copies by 2 × slot + copy, the slot staged, the image directory in order, and ATTEST reports queued (commands). -/
structure Trust where
  logq : List (List Byte) := []
  log : List (List Byte) := []
  seq : Nat := 0
  chain : List Byte := []
  full : Bool := false
  held : Bool := false
  dbgSeen : Bool := false
  dbgFirst : Nat := 0
  dbgCount : Nat := 0
  fw : Tab FwCopy := [(0, ⟨1, true, 0, true, 0, true, 1, 0, [], true⟩), (1, ⟨1, true, 0, true, 0, true, 1, 0, [], true⟩)]
  images : List Image := []
deriving DecidableEq, Repr

/-- A background task's SVC_BGn (R422), the tread of its last SLICE_DEFERRED event, and whether a pass has ended since the reset. -/
structure BgTask where
  deferred : Nat := 0
  late : Bool := false
  last : Nat := 0
  evt : Option Nat := none
  ran : Bool := false
deriving DecidableEq, Repr

/-- A repair list entry (Table 19.3): kind, made permanent, where, spare, tread. -/
structure Repair where
  kind : Nat
  fused : Bool
  loc : Nat
  spare : Nat
  tread : Nat
deriving DecidableEq, Repr

/-- A core replacement (R433, R434): its command, logical core, spare, landing tread; `phase` 0 scan, 1 scan passed, 2 replacement
tread, 3 every spare failed; whether the copy is made. -/
structure Repl where
  cid : Nat
  core : Nat
  spare : Nat
  land : Nat
  phase : Nat
  copied : Bool
deriving DecidableEq, Repr

/-- Service state (spec/19): tasks by number, the W1C bits of SVC_BIST as PLL, VMON, TSENSE and MARGIN bits 0 to 11, INWIN, excluded
sensors and monitors, thermal calibrations made, the repair list, fused repairs, LIST_FULL, replacements in progress, gallery spares used by slice, patrol passes of the three stores with the tread each pass began, SCRUB_LATE records out,
flash upkeep (spare blocks, system reserve, free-store blocks taken, retired blocks, erase counts by block, by channel the block it fills with the
MiB left there, blocks refreshed); the tread from which passes are counted (R422), the last adaptation by port, and by port and lane the equalizer
taps in use and those of the last adaptation that ended (R423). -/
structure Svc where
  bg : Tab BgTask := []
  bist : Nat := 0
  inWin : Bool := false
  tsExcl : Nat := 0
  vmExcl : Nat := 0
  ecal : Nat := 0
  repairs : List Repair := []
  fuses : List Repair := []
  listFull : Bool := false
  repl : List Repl := []
  galSpares : Tab Nat := []
  passes : Tab Nat := []
  passStart : Tab Nat := []
  scrubLate : List Nat := []
  flSpare : Nat := 32768
  flSys : Nat := 64
  flTaken : Nat := 0
  flRetired : List Nat := []
  flErase : Tab Nat := []
  flOpen : Tab (Nat × Nat) := []
  flRefreshed : Nat := 0
  bgFrom : Nat := 0
  serdes : Tab Nat := []
  taps : Tab (List Int) := []
  tapsDone : Tab (List Int) := []
deriving DecidableEq, Repr

/-- A frame waiting at an egress port (R319): its queue, the wing and number of its requester, the record it belongs to, and for a
transit frame the port it came in on with the VC index and pool it holds there. -/
structure QFrame where
  f : Frame
  q : Nat
  wing : Nat
  num : Nat
  rid : Nat
  inn : Option (Nat × Nat × Nat)
deriving DecidableEq, Repr

/-- A DATA cell as it leaves: header, 640-byte body, and whether its codeword was made uncorrectable (Table 14.10). -/
structure CellOut where
  head : Nat
  body : List Byte
  bad : Bool
deriving DecidableEq, Repr

/-- A hall port or T (spec/14): Table 14.3 state; whether codeword lock holds and good and bad codewords in a row; what NEIGH last said;
whether link state is kept from a retrain; TRAINS; the fields of HAL_PERRn by number (0 REPLAYS to 7 HOLDWAIT); next CSEQ to send and the replay buffer as
(CSEQ, times sent), with by CSEQ the bytes written into the cell's body so far and how many frames end in it; expected CSEQ, the last CSEQ accepted without an ACK queued, the last NAK's CSEQ and stamp;
items pending for the next CTRL cell and the items of the last one; frames waiting; credits in flight by VC × 64 + pool, the last FREED
heard and the FREED to report, likewise; VCs granted to a record; acc of R159; injection counts, whether HAL_INJn, or EN of HAL_PORTn, was written since the last
landing, the frames held by REORDER and those that now go behind another; frames
sent by the last FRAME_TRANSMIT; by VC index the type and the part received of the record that is being joined, the source whose record is
being dropped (R317), and the number of the record in transit; the frame bytes received that are no whole frame yet, the frames received in cells
that no row has taken, the bytes of the cell that is being filled and how many frames end in it, and the DATA cells sent last. -/
structure PortSt where
  st : Nat := 0
  locked : Bool := false
  goodRun : Nat := 0
  badRun : Nat := 0
  neigh : Nat := 0
  nport : Nat := 0
  keepHeard : Bool := false
  heard : Bool := false
  kept : Bool := false
  trains : Nat := 0
  perr : Tab Nat := []
  nextSeq : Nat := 0
  replay : List (Nat × Nat) := []
  bodies : Tab (List Byte × Nat) := []
  expect : Nat := 0
  nak : Option (Nat × Nat × Nat) := none
  items : List Nat := []
  ctrlOut : List Nat := []
  txq : List QFrame := []
  used : Tab Nat := []
  heardFreed : Tab Nat := []
  freed : Tab Nat := []
  grant : Tab Nat := []
  acc : Tab Int := []
  injSeen : Nat := 0
  injLeft : Nat := 0
  injW : Bool := false
  enW : Bool := false
  held : List QFrame := []
  late : List QFrame := []
  out : List Frame := []
  joining : Tab (Nat × RecIn) := []
  dropping : Tab (List Nat) := []
  inRec : Tab Nat := []
  rx : List Byte := []
  rxFrames : List Frame := []
  tail : List Byte := []
  tailEnds : Nat := 0
  cellsOut : List CellOut := []
deriving DecidableEq, Repr

/-- An outstanding remote request (R323, R326): tag, wing, the block or descriptor it serves (`own`) and the offset there, length, a write,
first-hop port, tread and clk of issue, whether it is answered, refused, and the data. -/
structure RemReq where
  tag : Nat
  wing : Nat
  own : Nat
  off : Nat
  len : Nat
  write : Bool
  port : Nat
  tread : Nat
  clk : Nat
  done : Bool
  fault : Bool
  data : List (Byte × Bool)
deriving DecidableEq, Repr

/-- The fabric's state apart from the ports: next tag and record number, requests, message records in the wings' holds (oldest first) and
those at the heads of input VCs, and the arbitration pointers (R344), which advance together. -/
structure Fab where
  nextTag : Nat := 0
  nextRid : Nat := 1
  reqs : List RemReq := []
  holds : Tab (List (Nat × RecIn)) := []
  heads : List (Nat × RecIn) := []
  ptr : Nat := 0
deriving DecidableEq, Repr

/-- The last answers on the links that read: a configuration request (none: Retry Status), a register read, sideband bytes (none:
NACK or no answer), and the last bits shifted out of the TAP. -/
structure Answers where
  cfg : Option Nat := none
  reg : Option Nat := none
  sb : Option (List Byte) := none
  tap : Nat := 0
deriving DecidableEq, Repr

/-- The memory event records of the present tread and the suppressed ones (R142): units with a CE record, UE records made,
channels with a RETIRED_ACCESS record, suppressed records by unit, and whether the SCRUB_LATE record of a store is out. -/
structure MemRec where
  ceSent : List Nat := []
  ueSent : Nat := 0
  retSent : List Nat := []
  lost : Tab Nat := []
deriving DecidableEq, Repr

/-- The whole module (spec/00 to spec/22), host memory as its rings and DMA see it, and the queue of waiting commands. -/
structure State where
  pending : List Instr := []
  fresh : Nat := 0
  boot : Boot := {}
  pci : Pci := {}
  time : TimeSt := {}
  power : PowerSt := {}
  mem : Mem := ⟨[], []⟩
  host : Mem := ⟨[], []⟩
  hostBad : List (Nat × Nat) := []
  gal : Gallery := {}
  hbm : Hbm := {}
  units : Tab UnitSt := []
  recs : MemRec := {}
  pfw : Tab Nat := []
  pfe : Tab Nat := []
  wings : Tab Wing := []
  cores : Tab Core := []
  phys : Tab Nat := []
  crecs : List CRec := []
  ended : List Ended := []
  chans : Tab Chan := []
  cxl : Tab CxlSt := []
  board : Board := {}
  ports : Tab PortSt := []
  fab : Fab := {}
  acct : Acct := {}
  svc : Svc := {}
  trust : Trust := {}
  fns : Tab FnSt := []
  newel : Newel := {}
  ans : Answers := {}
deriving DecidableEq, Repr

/-- The machine at the beginning of a cold reset: every register at the value the spec states, the module in state RESET, hall
time FREE at tread 0, memory with nothing listed. -/
def State.reset : State := {}

end Sys2Proof.Machine
end

