-- ==== Sys2Proof/Machine/Ops.lean ====
section
/-!
DEFINITION. The named operations over the state: free values, wings and registers in effect, units, events and records,
interrupts, host memory, the address map, windows, refusals, and the reads and writes of memory with SECDED, poison, HBM
channels and the gallery.
-/
namespace Sys2Proof.Machine

/-- Take a free value (log entry 3). -/
def State.free (s : State) : Nat × State := (Config.freeValue s.fresh, { s with fresh := s.fresh + 1 })

/-- The wing's record. -/
def State.wing (s : State) (w : Nat) : Wing := (Tab.find s.wings w).getD {}

/-- Change a wing's record. -/
def State.modWing (s : State) (w : Nat) (f : Wing → Wing) : State := { s with wings := Tab.set s.wings w (f (s.wing w)) }

/-- The active job of a wing (R351). -/
def State.job (s : State) (w : Nat) : Job := (s.wing w).job

/-- Change a wing's active job. -/
def State.modJob (s : State) (w : Nat) (f : Job → Job) : State := s.modWing w fun x => { x with job := f x.job }

/-- A per-wing register outside the protection set-up as last written. -/
def State.wr (s : State) (w off : Nat) : Nat := Tab.cnt (s.job w).wr off

/-- A per-wing register whose writes wait for the boundary, in effect. -/
def State.we (s : State) (w off : Nat) : Nat := Tab.cnt (s.job w).we off

/-- A protection register of a wing in effect (R335). -/
def State.pr (s : State) (w off : Nat) : Nat := Tab.cnt (s.wing w).pwe off

/-- A register of the PF in effect. -/
def State.pf (s : State) (off : Nat) : Nat := (Tab.find s.pfe off).getD (RegRow.resetOf pfRegRows off)

/-- WNG_PROT.EN in effect: the wing exists (R337). -/
def State.enabled (s : State) (w : Nat) : Bool := bit (s.pr w Reg.wngProt) 15

/-- WNG_PROT.LEND of the lender for a wing (R341). -/
def State.lends (s : State) (lender w : Nat) : Bool := s.enabled lender && bit (s.pr lender Reg.wngProt) (32 + w)

/-- The gallery way mask of a wing (R131). -/
def State.ways (s : State) (w : Nat) : Nat := bits (s.pr w Reg.wngProt) 16 16

/-- The core set of a wing's protection registers, in ascending order. -/
def coresOf (r : Tab Nat) : List Nat :=
  (upFrom 0 25).flatMap fun n =>
    let v := Tab.cnt r (Reg.wngCores + 4 * n)
    if v = 0 then [] else (upFrom 0 32).filterMap fun j => if bit v j then some (32 * n + j) else none

/-- The wing's core set in effect (a wing with EN 0 holds none, R337). -/
def State.coreSet (s : State) (w : Nat) : List Nat := if s.enabled w then coresOf (s.wing w).pwe else []

/-- The DMA channels of a wing in effect, in ascending order (R160). -/
def chansOf (r : Tab Nat) : List Nat :=
  (upFrom 0 8).flatMap fun n =>
    let v := Tab.cnt r (Reg.wngDmaset + 4 * n)
    if v = 0 then [] else (upFrom 0 32).filterMap fun j => if bit v j then some (32 * n + j) else none

def State.chanSet (s : State) (w : Nat) : List Nat := if s.enabled w then chansOf (s.wing w).pwe else []

/-- The wing that owns a logical core. -/
def State.coreWing (s : State) (c : Nat) : Option Nat :=
  (upFrom 0 32).find? fun w => s.enabled w && bit (s.pr w (Reg.wngCores + 4 * (c / 32))) (c % 32)

/-- The wing that owns a DMA channel. -/
def State.chanWing (s : State) (c : Nat) : Option Nat :=
  (upFrom 0 32).find? fun w => s.enabled w && bit (s.pr w (Reg.wngDmaset + 4 * (c / 32))) (c % 32)

/-- The position of an element in a list. -/
def idxOf : List Nat → Nat → Option Nat
  | [], _ => none
  | x :: xs, a => if x = a then some 0 else (idxOf xs a).map (· + 1)

/-- The present tread. -/
def State.tread (s : State) : Nat := s.time.tread

/-- Note the clk at which an event happens: clk 0 in the gap of a step (R43). -/
def State.at_ (s : State) (clk : Nat) : State :=
  { s with time := { s.time with phase := if s.time.inGap.isSome then 0 else clk } }

/-- The first tread at whose boundary something asked now may take effect (Table 2.1, R366): t + 1, or t + 2 after clk 37,472. -/
def State.nextEff (s : State) (clk : Nat) : Nat := treadAdd s.tread (if clk > 37472 ∧ s.time.inGap = none then 2 else 1)

/-- The physical core that serves a logical core (R432, R29). -/
def State.physOf (s : State) (c : Nat) : Nat := (Tab.find s.phys c).getD (c + 8 * (c / 200))

/-- The logical core that a physical core serves. -/
def State.logicalOf (s : State) (p : Nat) : Option Nat := (upFrom 0 800).find? fun c => s.physOf c = p

/-! ## Units (R380) -/

/-- The key of a unit: UKIND × 1,024 + number. -/
def unitKey (kind n : Nat) : Nat := kind * 1024 + n

/-- A unit's word before anything changed it: spares SPARE (R432), ports and CXL ports OFFLINE while EN is 0, others LIVE. -/
def unitDefault (key : Nat) : UnitSt :=
  let st := if key / 1024 = 0 ∧ key % 208 ≥ 200 then 5 else if key / 1024 ≥ 3 then 4 else 0
  ⟨st, 0, st, false, none, false, 0, 0, false⟩

def State.unit (s : State) (key : Nat) : UnitSt := (Tab.find s.units key).getD (unitDefault key)

def State.modUnit (s : State) (key : Nat) (f : UnitSt → UnitSt) : State := { s with units := Tab.set s.units key (f (s.unit key)) }

/-! ## Charges (R410, R411) -/

/-! Fields of Table 18.3 by number, and the model's own counts behind them. -/
namespace Acf
abbrev ctRun : Nat := 0
abbrev ctIdle : Nat := 1
abbrev ctGuest : Nat := 2
abbrev ctLent : Nat := 3
abbrev hbmRd : Nat := 4
abbrev hbmWr : Nat := 5
abbrev cxl : Nat := 6
abbrev hostIn : Nat := 7
abbrev hostOut : Nat := 8
abbrev fabTx : Nat := 9
abbrev fabRx : Nat := 10
abbrev flash : Nat := 11
abbrev energy : Nat := 12
abbrev ovr : Nat := 13
abbrev capskip : Nat := 14
abbrev refused : Nat := 15
abbrev ctNone : Nat := 16
abbrev products : Nat := 18
abbrev vecOps : Nat := 19
abbrev nfCount : Nat := 20
abbrev pznBlocks : Nat := 21
abbrev ceRecs : Nat := 22
abbrev ueRecs : Nat := 23
abbrev working : Nat := 24
end Acf

/-- Add `n` to count `f` of an accounting holder, with its energy in units of 10 pJ (R412). `edge`: the count is stamped at the boundary that is
being carried out, so it is none of the window that may close there (R34). -/
def AccWing.add (a : AccWing) (edge : Bool) (f n e : Nat) : AccWing :=
  let put (t : Tab Nat) : Tab Nat := Tab.bump (Tab.bump t f n) Acf.energy e
  if edge then { a with edge := put a.edge } else { a with win := put a.win, cum := put a.cum }

/-- The energy coefficient of a class after a number of TEMP_CAL passes: at each pass within ±4 % of its manufactured value (R412, R424). -/
def energyCoeff (f passes : Nat) : Nat :=
  let made := Config.energyCoeff f 0
  max (made - made * 4 / 100) (min (made + made * 4 / 100) (Config.energyCoeff f passes))

/-- Charge `n` of a class to a wing, or to none; the module record holds the sum (R411). -/
def State.charge (s : State) (w : Option Nat) (f n : Nat) : State :=
  if n = 0 then s else
  let e := if f ≤ 2 then n * s.acct.static * 5
    else if (4 ≤ f ∧ f ≤ 11) ∨ f = Acf.products ∨ f = Acf.vecOps then energyCoeff f s.svc.ecal * n else 0
  match w with
  | some w =>
    let s := s.modWing w fun x => { x with acc := x.acc.add s.acct.edge f n e }
    { s with acct := { s.acct with own := s.acct.own.add s.acct.edge f n e } }
  | none => { s with acct := { s.acct with own := s.acct.own.add s.acct.edge f n 0 } }

/-! ## Functions, host memory and interrupts (R340, R442, R443) -/

def State.fnSt (s : State) (fn : Nat) : FnSt := (Tab.find s.fns fn).getD {}

def State.modFn (s : State) (fn : Nat) (f : FnSt → FnSt) : State := { s with fns := Tab.set s.fns fn (f (s.fnSt fn)) }

/-- The function exists (R442). -/
def State.fnExists (s : State) (fn : Nat) : Bool := fn = 0 || (s.pci.vfEnable && fn ≤ s.pci.numVFs)

/-- The function may master the bus (R442, R443); the host link is down while a test instruction has the pins (R455). -/
def State.fnMaster (s : State) (fn : Nat) : Bool := !s.board.pinsTaken && (if fn = 0 then !s.pci.d3hot else s.fnExists fn)

/-- Put one byte into canonical cells: rising addresses, no zero byte listed. -/
def setCell : List Host.Cell → Nat → Byte → List Host.Cell
  | [], a, b => if b = 0 then [] else [(a, b)]
  | (k, v) :: t, a, b =>
    if a < k then (if b = 0 then (k, v) :: t else (a, b) :: (k, v) :: t)
    else if a = k then (if b = 0 then t else (a, b) :: t)
    else (k, v) :: setCell t a b

/-- The byte at an address; an address that is not listed reads 0. -/
def getCell : List Host.Cell → Nat → Byte
  | [], _ => 0
  | (k, v) :: t, a => if k = a then v else getCell t a

/-- Put a word's syndrome; 0 removes it. -/
def setErr (e : Tab Nat) (word syn : Nat) : Tab Nat := if syn = 0 then Tab.erase e word else Tab.set e word syn

/-- The `n` data bytes from an address. -/
def Mem.bytes (m : Mem) (a n : Nat) : List Byte := (upFrom a n).map (getCell m.cells)

/-- Data bytes stored from an address, nothing said of the syndromes. -/
def storeCells : List Host.Cell → Nat → List Byte → List Host.Cell
  | c, _, [] => c
  | c, a, b :: bs => storeCells (setCell c a b) (a + 1) bs

/-- The bytes from an address with the poison of their words. -/
def Mem.read (m : Mem) (a n : Nat) : List PByte :=
  (upFrom a n).map fun x => (getCell m.cells x, Tab.cnt m.errs (x / 4) ≠ 0)

/-- The words that a store of `n` bytes at `a` covers: each with whether the store covers all four bytes. -/
def wordsOf (a n : Nat) : List (Nat × Bool) :=
  if n = 0 then [] else
  (upFrom (a / 4) ((a + n - 1) / 4 - a / 4 + 1)).map fun w => (w, a ≤ 4 * w && 4 * w + 4 ≤ a + n)

/-- Write bytes with poison marks: a word that is wholly written takes its mark from the new bytes; a word written in part keeps
a mark or an uncorrectable syndrome as the stored mark (R134, R140). -/
def Mem.write (m : Mem) (a : Nat) (bs : List PByte) : Mem :=
  let errs := (wordsOf a bs.length).foldl (fun e (w, whole) =>
    let new := ((upFrom (4 * w) 4).any fun x => a ≤ x && (bs.getD (x - a) (0, false)).2 && x < a + bs.length)
    let old := !whole && Tab.cnt e w ≠ 0
    setErr e w (if new || old then 127 else 0)) m.errs
  { cells := storeCells m.cells a (bs.map (·.1)), errs := errs }

/-- Unmarked bytes. -/
def clean (bs : List Byte) : List PByte := bs.map fun b => (b, false)

/-- The host end of a range answers a function's requests. -/
def State.hostOk (s : State) (fn a n : Nat) : Bool :=
  s.fnMaster fn && !(s.hostBad.any fun (b, len) => a < b + len && b < a + n)

/-- Write to host memory through a function; a write that does not reach it changes nothing (R167). -/
def State.hostWrite (s : State) (fn a : Nat) (bs : List PByte) : State :=
  if s.hostOk fn a bs.length then
    let s := { s with host := s.host.write a bs }
    if fn = 0 then s else s.charge (some (fn - 1)) Acf.hostOut bs.length
  else s

/-- Read host memory through a function. -/
def State.hostRead (s : State) (fn a n : Nat) : Option (List PByte) :=
  if s.hostOk fn a n then some (s.host.read a n) else none

/-- Charge `n` bytes read from host memory through a function: a VF's to its wing (Table 18.2). -/
def State.hostIn (s : State) (fn n : Nat) : State := if fn = 0 then s else s.charge (some (fn - 1)) Acf.hostIn n

/-- A word of the MSI-X table; the vector control word is masked until written (R340, R357). -/
def FnSt.tblWord (f : FnSt) (k : Nat) : Nat := (Tab.find f.tbl k).getD (if k % 4 = 3 then 1 else 0)

/-- A source of a function fires a vector for the events of this tread (R340). -/
def State.fire (s : State) (fn vec : Nat) : State := s.modFn fn fun f => { f with fired := f.fired ||| 2 ^ vec }

/-- Send a vector's message, or keep its pending bit while the vector is masked or the function absent (R340, R442). -/
def State.sendVec (s : State) (fn vec : Nat) : State :=
  let f := s.fnSt fn
  if !s.fnExists fn || !f.msixEn || f.fnMask || bit (f.tblWord (4 * vec + 3)) 0 then
    s.modFn fn fun f => { f with pend := f.pend ||| 2 ^ vec }
  else
    (s.modFn fn fun f => { f with pend := f.pend &&& (0xFFFF - 2 ^ vec) }).hostWrite fn
      (f.tblWord (4 * vec) + 2 ^ 32 * f.tblWord (4 * vec + 1)) (clean (leBytes 4 (f.tblWord (4 * vec + 2))))

/-- The interrupts of the tread that ended: one message per fired vector. -/
def State.sendFired (s : State) : State :=
  (upFrom 0 33).foldl (fun s fn =>
    let fired := (s.fnSt fn).fired
    if fired = 0 then (if (s.fnSt fn).raised = 0 then s else s.modFn fn fun f => { f with raised := 0 })
    else (upFrom 0 16).foldl (fun s v => if bit fired v then s.sendVec fn v else s) (s.modFn fn fun f => { f with fired := 0, raised := fired })) s

/-- A source fires a vector at the boundary itself, for an event of the tread that ended: its message is one of those just sent, or goes out
with them (R84, R340). -/
def State.fireNow (s : State) (fn vec : Nat) : State :=
  if bit (s.fnSt fn).raised vec then s else (s.modFn fn fun f => { f with raised := f.raised ||| 2 ^ vec }).sendVec fn vec

/-! ## Alerts and events -/

/-- Set an alert bit of Table 20.6. Each bit that becomes set raises one in-band interrupt on I3C; on SMBus ALERT_N shows it (R450, R451). -/
def State.alert (s : State) (b : Nat) : State :=
  if bit s.board.alerts b then s
  else { s with board := { s.board with alerts := s.board.alerts ||| 2 ^ b, ibi := s.board.ibi + b2n s.board.i3c } }

/-- The test access port answers: the main rails are up, and start-up has begun, before which inputs are ignored (R471, log entry 79). -/
def State.tapLive (s : State) : Bool := s.boot.rails && s.boot.st ≠ 0

/-- The debug port is used (R405): the first use after a cold reset sets DEBUG_SEEN, latches the tread and writes a DEBUG entry, by `log`. -/
def State.debugFirst (s : State) (log : State → State) : State :=
  if s.trust.dbgSeen then s else log { s with trust := { s.trust with dbgSeen := true, dbgFirst := s.time.tread } }

/-- Write one event slot into a function's ring (R370, R369). -/
def State.writeEvt (s : State) (fn : Nat) (body : List Byte) (cls : Nat) : State :=
  let f := s.fnSt fn
  if bit f.ctrl 0 then
    let size := 2 ^ (min (bits f.evt 0 4) 8 + 6)
    let slot := body ++ leBytes 4 (cls * 2 ^ 28) ++ leBytes 4 f.evtProd ++ leBytes 24 0
    let s := s.hostWrite fn (f.evt / 4096 * 4096 + f.evtProd % size * 64) (clean slot)
    let s := s.modFn fn fun f => { f with evtProd := (f.evtProd + 1) % 2 ^ 32 }
    if bit f.ctrl 8 then s.fire fn (bits f.ctrl 9 4) else s
  else s

/-- What counts the records of a kind that are not delivered (R142): a unit's memory records, a wing's FAULT records. -/
inductive LostBy
  | unit (key : Nat)
  | wing (w : Nat)
deriving DecidableEq, Repr

/-- A record that is not delivered counts in LOST of the next one, with the records that its own LOST field told of (R142, R370). -/
def State.countLost (s : State) (b : LostBy) (n : Nat) : State :=
  match b with
  | .unit u => { s with recs := { s.recs with lost := Tab.bump s.recs.lost u n } }
  | .wing w => s.modWing w fun x => { x with fltLost := x.fltLost + n }

/-- Post an event: written while the newel runs, else queued, at most 4,096, and counted lost beyond (R370). `mem`: a memory record's LOST
counter, and the count its field carries. -/
def State.postEvt (s : State) (fns : List Nat) (body : List Byte) (cls : Nat) (mem : Option (LostBy × Nat)) : State :=
  if s.newel.running then fns.foldl (fun s fn => s.writeEvt fn body cls) s
  else if s.newel.evq.length < 4096 then { s with newel := { s.newel with evq := s.newel.evq ++ [⟨fns, body, cls⟩] } }
  else
    let s := { s with newel := { s.newel with evLost := s.newel.evLost + 1 } }
    match mem with
    | some (b, n) => s.countLost b (n + 1)
    | none => s

/-- The events that waited for the newel. -/
def State.drainEvts (s : State) : State :=
  s.newel.evq.foldl (fun s e => e.fns.foldl (fun s fn => s.writeEvt fn e.body e.cls) s) { s with newel := { s.newel with evq := [] } }

/-- The stamp of the present moment: TREAD and CLK as Table 6.3 packs them. -/
def State.stamp (s : State) : Nat := s.tread * 65536 + s.time.phase

/-- Body of a UNIT, TIME or NEWEL event (Table 16.3): CODE and the three words of bytes 12 to 23. -/
def State.evtBody (s : State) (code w12 w16 w20 : Nat) : List Byte :=
  leBytes 8 s.stamp ++ leBytes 4 (code * 2 ^ 24) ++ leBytes 4 w12 ++ leBytes 4 w16 ++ leBytes 4 w20 ++ leBytes 8 0

/-- The rings that a UNIT event of a unit goes to: the PF, and the VF whose core set holds the core (R370). -/
def State.unitFns (s : State) (key : Nat) : List Nat :=
  if key / 1024 = 0 then
    match (s.logicalOf (key % 1024)).bind s.coreWing with
    | some w => [0, w + 1]
    | none => [0]
  else [0]

/-- UNIT_CHANGE (code 1) or UNIT_DIVERGE (code 0) of a unit. -/
def State.unitEvt (s : State) (code key : Nat) : State :=
  let u := s.unit key
  s.postEvt (s.unitFns key) (s.evtBody code (key / 1024 * 2 ^ 28 + key % 1024 * 2 ^ 18) (u.hw + 256 * u.want) u.epoch) 1 none

/-- The hardware word of a unit takes a state: the epoch grows and a UNIT_CHANGE event is written (R380). `own`: the hardware did
it by itself, and the newel adopts it at the next boundary. -/
def State.setHw (s : State) (key st : Nat) (own : Bool) : State :=
  if (s.unit key).hw = st then s
  else (s.modUnit key fun u => { u with
    hw := st, epoch := (u.epoch + 1) % 2 ^ 32, own := own || u.own
    since := if u.want = st then none else if u.since.isSome then u.since else some s.tread
    told := if u.want = st then false else u.told }).unitEvt 1 key

/-! ## The address map (R26, R28, R30) -/

/-- Where a local address lies. -/
inductive Region
  | sram (core off : Nat)
  | hbm (o : Nat)
  | cxl (port o : Nat)
  | unmapped
deriving DecidableEq, Repr

def sramEnd : Nat := 0x64000000
def hbmBase : Nat := 0x8000000000
def hbmGiB : Nat := 0x40000000

def State.cxlPort (s : State) (p : Nat) : CxlSt := (Tab.find s.cxl p).getD {}

/-- The end of HBM as an offset, less 3.25 GiB per retired channel (R149). -/
def State.hbmEnd (s : State) : Nat := 384 * hbmGiB - s.hbm.order.length * (hbmGiB * 13 / 4)

/-- The region of a local address (Table 1.6, R30, R149). -/
def State.region (s : State) (a : Nat) : Region :=
  if a < sramEnd then .sram (a / 0x200000) (a % 0x200000)
  else if hbmBase ≤ a ∧ a < hbmBase + s.hbmEnd then .hbm (a - hbmBase)
  else if 0x40000000000 ≤ a ∧ a < 0x80000000000 then
    let p := (a - 0x40000000000) / 0x20000000000
    let o := (a - 0x40000000000) % 0x20000000000
    if o < (s.cxlPort p).size * 0x10000000 then .cxl p o else .unmapped
  else .unmapped

/-- The channel of an HBM offset (R126). -/
def hbmChannel (o : Nat) : Nat :=
  let g := o / 256
  Nat.xor (Nat.xor (Nat.xor (bits g 0 7) (bits g 7 7)) (Nat.xor (bits g 14 7) (bits g 21 7))) (bits g 28 3)

/-- The channel address of an HBM offset (R126). -/
def hbmChanAddr (o : Nat) : Nat := o / 256 / 128 * 256 + o % 256

/-- The HBM offset of a granule of a channel, by its number within the channel: the inverse of R126. -/
def hbmGranule (ch c : Nat) : Nat :=
  let lo := Nat.xor (Nat.xor ch (bits c 0 7)) (Nat.xor (Nat.xor (bits c 7 7) (bits c 14 7)) (bits c 21 3))
  (c * 128 + lo) * 256

/-- Where the k-th retirement puts a granule that a channel stored at storage offset `x`: behind the withdrawn range, on a channel that is not
retired by then (R149, R150). Each run of 128 granules has one granule on every channel. -/
def movedTo (order : List Nat) (k x : Nat) : Nat :=
  let live := (upFrom 0 128).filter fun ch => !(order.take (k + 1)).contains ch
  let m := Config.moveTo k (x / 256)
  let run := (384 * hbmGiB - (k + 1) * (hbmGiB * 13 / 4)) / 32768 + m / 128 % 106496
  hbmGranule (live.getD (m % live.length) 0) run + x % 256

/-- The storage offset that holds an HBM offset: R126's, moved by each retirement of the channel that held it, and for the channel that is
migrating once the granule has flipped (R150). -/
def State.hbmSite (s : State) (o : Nat) : Nat :=
  (upFrom 0 s.hbm.order.length).foldl (fun x k =>
    let ch := s.hbm.order.getD k 0
    if hbmChannel x = ch && (s.hbm.migrating ≠ some ch || hbmChanAddr x / 256 < s.hbm.migrated) then movedTo s.hbm.order k x else x) o

/-- The channel that holds an HBM offset. -/
def State.hbmChanOf (s : State) (o : Nat) : Nat := hbmChannel (s.hbmSite o)

/-- The HBM offsets whose granules a storage offset holds: its own, or those that a migration put behind a withdrawn range (R150). -/
def State.granulesAt (s : State) (x : Nat) : List Nat :=
  if x < s.hbmEnd then (if s.hbmSite x = x then [x] else [])
  else ((upFrom 0 (s.hbmEnd / 256)).map (256 * ·)).filter fun o => s.hbmSite o = x

/-- The owning gallery slice of a local address (R128). -/
def galSlice (a : Nat) : Nat :=
  let l := a / 256
  (upFrom 0 8).foldl (fun x i => Nat.xor x (bits l (5 * i) (if i = 7 then 4 else 5))) 0

/-- The set within the slice (R128). -/
def galSet (a : Nat) : Nat := bits (a / 256) 5 12

/-- Move an address of range [x, x + n) to the same offset of [y, y + n) and back (R217, R351). -/
def swapRange (x y n a : Nat) : Nat := if x ≤ a ∧ a < x + n then y + (a - x) else if y ≤ a ∧ a < y + n then x + (a - y) else a

/-- The MiB windows of a wing (R338): kind, start and length in bytes. -/
def State.windows (s : State) (w : Nat) : List (Nat × Nat × Nat) :=
  if !s.enabled w then [] else
  (upFrom 0 8).filterMap fun n =>
    let v := s.pr w (Reg.wngWin + 8 * n)
    let k := bits v 62 2
    let sz := bits v 0 27
    if (k = 1 ∨ k = 2) ∧ sz ≠ 0 then some (k, bits v 32 27 * 1048576, sz * 1048576) else none

/-- The kind of window that a region can lie in: 1 HBM, 2 CXL. -/
def Region.kind : Region → Nat
  | .hbm _ => 1
  | .cxl _ _ => 2
  | _ => 0

/-- Every byte of a range lies in the region of a kind (R30): its ends do, and no unmapped gap of a CXL port lies between them. -/
def State.mappedAs (s : State) (k a n : Nat) : Bool :=
  (s.region a).kind = k && (n = 0 || ((s.region (a + n - 1)).kind = k && match s.region a, s.region (a + n - 1) with
    | .cxl p _, .cxl q _ => p = q || (s.cxlPort p).size ≥ 0x2000
    | _, _ => true))

/-- A range lies wholly in one window of the given kinds and is mapped (R338, R30). -/
def State.inWindowK (s : State) (w : Nat) (kinds : List Nat) (a n : Nat) : Bool :=
  (s.windows w).any fun (k, b, len) => kinds.contains k && b ≤ a && a + n ≤ b + len && s.mappedAs k a n

/-- A range lies in the wing's HBM window. -/
def State.inHbm (s : State) (w a n : Nat) : Bool := s.inWindowK w [1] a n

/-- The context range of a wing: start, slot size and slot count, 0 slots when it overlaps a weight bank or leaves the HBM window
(R351). -/
def State.ctxGeom (s : State) (w : Nat) : Nat × Nat × Nat :=
  let r := (s.wing w).ctxReg
  let cb := bits r 32 27 * 1048576
  let sz := bits r 0 27 * 1048576
  let n := min (bits r 29 3) 4
  let v := bits (s.wr w Reg.wngWbank) 0 27 * 1048576
  let b0 := bits (s.wr w Reg.wngWbank) 32 27 * 1048576
  let b1 := bits (s.wr w (Reg.wngWbank + 8)) 32 27 * 1048576
  let hits (b : Nat) : Bool := v ≠ 0 && b < cb + n * sz && cb < b + v
  if n = 0 || sz = 0 || hits b0 || hits b1 || !s.inHbm w cb (n * sz) then (cb, sz, 0) else (cb, sz, n)

/-- The resident slot of the active context; 0 when contexts are off. -/
def State.activeSlot (s : State) (w : Nat) : Nat :=
  let x := s.wing w
  match (Tab.find x.ctxs x.active).bind (·.slot) with
  | some a => a
  | none => 0

/-- The swap of a wing's weight banks when BANK is 1 (R217). -/
def State.bankAddr (s : State) (w bank a : Nat) : Nat :=
  let v := bits (s.wr w Reg.wngWbank) 0 27 * 1048576
  let b0 := bits (s.wr w Reg.wngWbank) 32 27 * 1048576
  let b1 := bits (s.wr w (Reg.wngWbank + 8)) 32 27 * 1048576
  if bank = 1 ∧ v ≠ 0 then swapRange b0 b1 v a else a

/-- The exchange of context slots in force for a wing (R351): the two ranges and their length, 0 without one. -/
def State.ctxSwap (s : State) (w : Nat) : Nat × Nat × Nat :=
  let (cb, sz, n) := s.ctxGeom w
  let k := s.activeSlot w
  if n = 0 ∨ k = 0 ∨ k ≥ n then (0, 0, 0) else (cb, cb + k * sz, sz)

/-- The address that serves a wing's local address: the swap of weight banks (R217), then the exchange of context slots (R351). -/
def State.mapAddr (s : State) (w bank a : Nat) : Nat :=
  let x := s.ctxSwap w
  swapRange x.1 x.2.1 x.2.2 (s.bankAddr w bank a)

/-- The pieces of a range cut at MiB, where a mapping may change. -/
def mibPieces (a n : Nat) : List (Nat × Nat) :=
  if n = 0 then [(a, 0)] else
  (upFrom (a / 1048576) ((a + n - 1) / 1048576 - a / 1048576 + 1)).map fun m =>
    let lo := max a (m * 1048576)
    (lo, min (a + n) ((m + 1) * 1048576) - lo)

/-- A wing's range lies in one of its windows of the given kinds, compared after the mapping (R217, R338). -/
def State.mappedIn (s : State) (w bank : Nat) (kinds : List Nat) (a n : Nat) : Bool :=
  (s.windows w).any fun (k, b, len) =>
    kinds.contains k && (mibPieces a n).all fun (x, m) =>
      let y := s.mapAddr w bank x
      b ≤ y && y + m ≤ b + len && s.mappedAs k y m

/-- The ranges that are read-only to a wing: loaded flights with their block lists, also those kept loaded in a saved context (R352), guest
flights from acceptance on, its stores (R49, R62, R153), and its layout tables (R280). -/
def State.roRanges (s : State) (w : Nat) : List (Nat × Nat) :=
  let x := s.wing w
  let fl (f : Option Flight) : List (Nat × Nat) := match f with | some f => f.ro | none => []
  (x.guests ++ x.guestNext).flatMap (·.fl.ro) ++ (x.job :: x.ctxs.map (·.2.saved)).flatMap fun j =>
    fl j.fl.active ++ fl j.fl.pend ++ [(j.cfgBase, 64 * j.cfgCount)]
      ++ (j.turn.cur.toList ++ j.turn.pend.toList).map fun y => (y.1, 64 + 32 * y.2)

/-- A tread number as a key that orders numbers near the present by their difference modulo 2^48 (R32). -/
def State.treadKey (s : State) (t : Nat) : Nat := (t + 3 * 2 ^ 47 - s.tread % 2 ^ 48) % 2 ^ 48

/-- Two ranges share a byte. -/
def overlaps (a n b m : Nat) : Bool := n ≠ 0 && m ≠ 0 && a < b + m && b < a + n

/-- A wing's write into a range that is read-only to it. -/
def State.readOnly (s : State) (w a n : Nat) : Bool := (s.roRanges w).any fun (b, m) => overlaps a n b m

/-- The wing with a window that holds an address (R141). -/
def State.ownerOf (s : State) (a : Nat) : Option Nat := (upFrom 0 32).find? fun w => s.inWindowK w [1, 2] a 1

/-! ## Memory records (R141, R142) -/

/-- The unit behind an address as a record names it: STORE code and unit key. -/
def State.unitOf (s : State) (a : Nat) : Nat × Nat :=
  match s.region a with
  | .sram c _ => (0, unitKey 0 (s.physOf c))
  | .hbm o => (2, unitKey 2 (s.hbmChanOf o))
  | .cxl p _ => (3, unitKey 4 p)
  | .unmapped => (0, unitKey 0 0)

/-- Bytes of a memory event record (Table 6.3). -/
def State.recBody (s : State) (kind store src syn : Nat) (wing : Option Nat) (lost key unmapped addr : Nat) : List Byte :=
  leBytes 8 s.stamp
    ++ leBytes 4 (kind * 2 ^ 28 + store * 2 ^ 26 + src * 2 ^ 24 + syn * 2 ^ 17 + wing.getD 0 * 2 ^ 12 + b2n wing.isSome * 2 ^ 11 + lost)
    ++ leBytes 4 (key % 1024 * 2 ^ 22 + unmapped * 2 ^ 21) ++ leBytes 8 (addr % 2 ^ 47) ++ leBytes 8 0

/-- Make a memory event record of a kind other than FAULT, under the limits of R142. -/
def State.memRecord (s : State) (kind store src syn key addr : Nat) : State :=
  let r := s.recs
  let held := (kind = 0 && r.ceSent.contains key) || (kind = 1 && r.ueSent ≥ 64) || (kind = 5 && r.retSent.contains key)
  if held then { s with recs := { r with lost := Tab.bump r.lost key 1 } }
  else
    let lost := Tab.cnt r.lost key
    let s := { s with recs := { r with
      lost := Tab.erase r.lost key
      ceSent := if kind = 0 then key :: r.ceSent else r.ceSent
      ueSent := if kind = 1 then r.ueSent + 1 else r.ueSent
      retSent := if kind = 5 then key :: r.retSent else r.retSent } }
    let o := s.ownerOf addr
    let s := if kind = 0 then s.charge none Acf.ceRecs 1 else if kind = 1 then s.charge none Acf.ueRecs 1 else s
    let s := if kind = 1 then s.alert 4 else s
    s.postEvt (match o with | some w => [0, w + 1] | none => [0]) (s.recBody kind store src syn o (min lost 2047) key 0 addr) 0
      (some (.unit key, lost))

/-- A refused access of a wing (R339): WNG_FLT, the interrupt of WNG_IRQ.FLT_EN, and one FAULT record per wing per tread. `noModule`:
the refused global address names no module. -/
def State.refuse (s : State) (w addr : Nat) (noModule : Bool) : State :=
  let s := s.charge (some w) Acf.refused 1
  let s := s.modJob w fun j => { j with
    fltCount := sat 16 (j.fltCount + 1)
    fltAddr := if j.fltSeen then j.fltAddr else addr % 2 ^ 47
    fltSeen := true }
  let s := if bit (s.we w Reg.wngIrq) 27 then s.fire (w + 1) (bits (s.we w Reg.wngIrq) 28 4) else s
  if (s.wing w).fltSent then s.modWing w fun x => { x with fltLost := x.fltLost + 1 }
  else
    let un := noModule || s.region addr = .unmapped
    -- Table 6.3: a FAULT record names the channel of R126
    let (st, key) := if un then (0, 0) else match s.region addr with | .hbm o => (2, unitKey 2 (hbmChannel o)) | _ => s.unitOf addr
    let lost := (s.wing w).fltLost
    let body := s.recBody 4 st 0 0 (some w) (min lost 2047) key (b2n un) addr
    (s.modWing w fun x => { x with fltSent := true, fltLost := 0 }).postEvt [0, w + 1] body 0 (some (.wing w, lost))

/-! ## SECDED, HBM errors and repair candidates (R138 to R145, R430) -/

/-- The seven-bit words of weight 1 or 3 (R138). -/
def oddColumns : List Nat := (upFrom 1 127).filter fun y => [1, 3].contains ((upFrom 0 7).filter fun i => bit y i).length

/-- The 39 columns of the check matrix: those words without the three that the matrix leaves out. -/
def checkColumns : List Nat := (upFrom 0 3).foldl (fun l i => l.eraseIdx (Config.leftOut i % l.length)) oddColumns

/-- A syndrome equal to one column of the check matrix (Table 6.2). -/
def synCorrectable (y : Nat) : Bool := checkColumns.contains y

/-- The row of a channel address: bank and row number (log entry 10: which address bits name the bank is the model's). -/
def hbmRowOf (chanAddr : Nat) : Nat × Nat := (chanAddr / 1024 % 16, chanAddr / 16384)

/-- Add a repair candidate row once. -/
def Hbm.candidate (h : Hbm) (ch : Nat) (r : Nat × Nat) : Hbm :=
  if h.cands.contains ⟨ch, r.1, r.2⟩ then h else { h with cands := h.cands ++ [⟨ch, r.1, r.2⟩] }

/-- A new error at an HBM word (R145): an uncorrectable error makes its row a candidate, and so do corrected errors at a second
word of the row or in a second patrol pass; `o` is its storage offset, `pass` names the patrol pass, 0 for a demand access. -/
def Hbm.note (h : Hbm) (o pass : Nat) (ue : Bool) : Hbm :=
  let ch := hbmChannel o
  let r := hbmRowOf (hbmChanAddr o)
  let rk := ch * 2 ^ 40 + r.1 * 2 ^ 20 + r.2
  if ue then { (h.candidate ch r) with ueTread := Tab.bump h.ueTread ch 1 }
  else
    let before := h.ceWords.filter fun x => x.1 = rk
    let again := before.any fun x => x.2.1 ≠ o / 4 ∨ (pass ≠ 0 ∧ x.2.2 ≠ 0 ∧ x.2.2 ≠ pass)
    let h := if again then h.candidate ch r else h
    { h with ceWords := (rk, o / 4, pass) :: (h.ceWords.filter fun x => !(x.1 = rk && x.2.1 = o / 4 && x.2.2 = pass)) }

/-- A gallery location's error (R430): an uncorrectable word, correctable words in two passes, or two distinct correctable words
make it a candidate. `word` is the word within the line; a demand access (`pass` 0) leaves a patrol pass's mark as it is. -/
def Gallery.note (g : Gallery) (loc word pass : Nat) (ue : Bool) : Gallery :=
  let key := loc * 64 + word
  let again := ue || (upFrom (loc * 64) 64).any (fun k => k ≠ key && (Tab.find g.ce k).isSome) ||
    (match Tab.find g.ce key with | some p => pass ≠ 0 && p ≠ 0 && p ≠ pass | none => false)
  let g := if again && !g.candidates.contains loc then { g with candidates := g.candidates ++ [loc] } else g
  if ue then g else { g with ce := Tab.set g.ce key (if pass = 0 then (Tab.find g.ce key).getD 0 else pass) }

/-- The location of a line in the gallery, if it is valid. -/
def Gallery.locate (g : Gallery) (a : Nat) : Option Nat :=
  let base := galSlice a * 65536 + galSet a * 16
  (upFrom base 16).find? fun k => match Tab.find g.lines k with | some l => l.tag = a / 256 | none => false

/-- An HBM channel found 64 uncorrectable errors in one tread and enters FAULT (R148). -/
def State.hbmUeLimit (s : State) (ch : Nat) : State :=
  if Tab.cnt s.hbm.ueTread ch ≥ 64 ∧ (s.unit (unitKey 2 ch)).hw = 0 then s.setHw (unitKey 2 ch) 1 true else s

/-- A word was read with syndrome `y` other than 0 and 0x7F: its unit counts and reports it, and its row or line location may become a repair
candidate (Table 6.2). `src`: 0 demand, 1 patrol scrub, 2 repair; `pass`: the patrol pass; `i`: the word within its line; `loc`: the gallery
location that holds it, none for the store behind the address. -/
def State.found (s : State) (src pass y i a : Nat) (loc : Option Nat) : State :=
  let (store, key) := match loc with
    | some k => (1, unitKey 1 (k / 65536))
    | none => s.unitOf a
  let ue := !synCorrectable y
  let s := s.modUnit key fun u => if ue then { u with ue := u.ue + 1 } else { u with ce := u.ce + 1 }
  let s := match loc, s.region a with
    | some k, _ => { s with gal := s.gal.note k i pass ue }
    | none, .hbm o => ({ s with hbm := s.hbm.note (s.hbmSite o) pass ue }).hbmUeLimit (s.hbmChanOf o)
    | none, _ => s
  s.memRecord (if ue then 1 else 0) store src y key a

/-- What a word's check bits become when it is read with a syndrome: a correction leaves 0, and any other error the stored mark 0x7F. -/
def afterRead (y : Nat) : Nat := if y = 127 ∨ !synCorrectable y then 127 else 0

/-- A read of one protected word as it is visible: in the gallery line that holds it, else in its store (Table 6.2). -/
def State.readFix (s : State) (src pass word : Nat) : State :=
  let y := Tab.cnt s.mem.errs word
  let a := 4 * word
  if y = 0 ∨ y = 127 then s
  else
    let loc := match s.region a with
      | .sram _ _ => none
      | _ => s.gal.locate a
    ({ s with mem := { s.mem with errs := setErr s.mem.errs word (afterRead y) } }).found src pass y (word % 64) a loc

/-- The words of a range with a syndrome. -/
def errWords (e : Tab Nat) (a n : Nat) : List Nat :=
  if n = 0 then [] else (e.filter fun x => a / 4 ≤ x.1 ∧ x.1 ≤ (a + n - 1) / 4).map (·.1)

/-- Reads every marked word of a range as Table 6.2 states. -/
def State.touch (s : State) (src pass a n : Nat) : State := (errWords s.mem.errs a n).foldl (fun s w => s.readFix src pass w) s

/-- Reads the words that HBM holds at a line, behind the gallery where it holds the line. -/
def State.touchBehind (s : State) (src pass a : Nat) : State :=
  match s.gal.locate a with
  | none => s.touch src pass (a / 256 * 256) 256
  | some k => match Tab.find s.gal.lines k with
    | none => s
    | some l => l.backErr.foldl (fun s (x : Nat × Nat) =>
        if x.2 = 0 ∨ x.2 = 127 then s
        else
          let l : Line := (Tab.find s.gal.lines k).getD l
          let l : Line := { l with backErr := setErr l.backErr x.1 (afterRead x.2) }
          let s := { s with gal := { s.gal with lines := Tab.set s.gal.lines k l } }
          s.found src pass x.2 (x.1 % 64) (4 * x.1) none) s

/-! ## The gallery (R129 to R133) -/

/-- A line lies in a wing's pinned range that acts (R132, R151). -/
def State.pinned (s : State) (a : Nat) : Bool :=
  (upFrom 0 32).any fun w => s.enabled w && (upFrom 0 4).any fun n =>
    let v := s.we w (Reg.wngGpin + 8 * n)
    let b := bits v 32 27 * 1048576
    let z := bits v 0 27 * 1048576
    z ≠ 0 && b ≤ a && a < b + z && s.inWindowK w [1, 2] b z

/-- A gallery slice serves its lines uncached (R431). -/
def State.sliceFault (s : State) (sl : Nat) : Bool := (s.unit (unitKey 1 sl)).hw = 1

/-- A dirty line of a CXL port whose link is down: it stays until the link returns (R137). -/
def State.stuck (s : State) (l : Line) : Bool :=
  l.dirty && (match s.region (l.tag * 256) with | .cxl p _ => (s.cxlPort p).st ≠ 2 | _ => false)

/-- The victim way of a fill (R130): eligible ways, after lowering the counts when none is 0; an empty way counts as 0. A set's rotating pointer
starts at way 0, and 'nearest after' it tries the way that it names first (DESIGN CHOICE, log entry 76). -/
def State.victim (s : State) (mask sl set : Nat) : Option (Nat × State) :=
  let base := sl * 65536 + set * 16
  let el := (upFrom 0 16).filter fun y => bit mask y && !s.gal.retired.contains (base + y) &&
    (match Tab.find s.gal.lines (base + y) with | some l => !s.pinned (l.tag * 256) && !s.stuck l | none => true)
  let cnt (g : Gallery) (y : Nat) : Nat := match Tab.find g.lines (base + y) with | some l => l.reuse | none => 0
  match el with
  | [] => none
  | y0 :: ys =>
    let low := ys.foldl (fun m y => min m (cnt s.gal y)) (cnt s.gal y0)
    let g := if low = 0 then s.gal else { s.gal with lines := el.foldl (fun t y =>
      match Tab.find t (base + y) with | some l => Tab.set t (base + y) { l with reuse := l.reuse - low } | none => t) s.gal.lines }
    let p := Tab.cnt g.ptrs (sl * 4096 + set)
    match ((upFrom 0 16).map fun i => (p + i) % 16).find? fun y => el.contains y && cnt g y = 0 with
    | some y => some (base + y, { s with gal := { g with ptrs := Tab.set g.ptrs (sl * 4096 + set) ((p + 1) % 16) } })
    | none => none

/-- The syndromes of a line's words. -/
def lineErrs (e : Tab Nat) (tag : Nat) : Tab Nat := e.filter fun x => tag * 64 ≤ x.1 ∧ x.1 < tag * 64 + 64

/-- Put other syndromes in place of a line's. -/
def setLineErrs (e : Tab Nat) (tag : Nat) (new : Tab Nat) : Tab Nat :=
  new.foldl (fun e x => setErr e x.1 x.2) (e.filter fun x => !(tag * 64 ≤ x.1 ∧ x.1 < tag * 64 + 64))

/-- Memory with what stands behind a line made visible again. -/
def Mem.uncover (m : Mem) (l : Line) : Mem :=
  { cells := if l.dirty then storeCells m.cells (l.tag * 256) (l.back.take 256) else m.cells, errs := setLineErrs m.errs l.tag l.backErr }

/-- What stands between the gallery and a line: the granule is retired, the channel that holds it is in FAULT, or the CXL link is down
(R137, R147, R148). -/
inductive Behind | plain | retired | dead
deriving DecidableEq, Repr

/-- What stands behind the gallery at an address. -/
def State.below (s : State) (a : Nat) : Behind :=
  match s.region a with
  | .hbm o =>
    if s.hbm.gone.contains (o / 256) then .retired
    else
      let ch := s.hbmChanOf o
      let hw := (s.unit (unitKey 2 ch)).hw
      if hw = 1 || (hw = 2 && s.hbm.faultCh = some ch) then .dead else .plain
  | .cxl p _ => if (s.cxlPort p).st ≠ 2 then .dead else .plain
  | _ => .plain

/-- What an access to an address meets: the gallery's line where it holds one. -/
def State.behind (s : State) (a : Nat) : Behind :=
  match s.below a with
  | .dead => if (s.gal.locate a).isSome then .plain else .dead
  | b => b

/-- A read or write of a retired granule is reported (R147). -/
def State.retiredAccess (s : State) (src a : Nat) : State := s.memRecord 5 2 src 0 (unitKey 2 (s.hbmChanOf (a - hbmBase))) a

/-- A write that does not reach its store is counted (R137, R148). -/
def State.writeLost (s : State) (a : Nat) : State :=
  match s.region a with
  | .cxl p _ => { s with cxl := Tab.set s.cxl p { s.cxlPort p with discards := (s.cxlPort p).discards + 1 } }
  | .hbm o => { s with hbm := { s.hbm with dropped := Tab.bump s.hbm.dropped (s.hbmChanOf o) 1 } }
  | _ => s

/-- A line leaves its location: a dirty one is read word by word and written to memory (R129), where the write of a retired granule or of a
channel in FAULT is discarded; behind a clean one memory's own words come back. The location keeps its words' check bits. -/
def State.evict (s : State) (k : Nat) : State :=
  match Tab.find s.gal.lines k with
  | none => s
  | some l =>
    let a := l.tag * 256
    let s := if l.dirty then s.touch 0 0 a 256 else s
    let old : Tab Nat := (lineErrs s.mem.errs l.tag).map fun x => (k * 64 + x.1 % 64, x.2)
    let s := { s with gal := { s.gal with lines := Tab.erase s.gal.lines k, stale := setLineErrs s.gal.stale k old } }
    if !l.dirty then { s with mem := s.mem.uncover l }
    else match s.below a with
      | .plain => s
      | .retired => ({ s with mem := s.mem.uncover l }).retiredAccess 0 a
      | .dead => ({ s with mem := s.mem.uncover l }).writeLost a

/-- One access to a line of HBM or CXL in the gallery (R129, R130): a hit raises the count; a miss fills the line, which reads all of it from
memory unless the access writes it whole, except when it is `noalloc`, the mask allows no way, or the slice is in FAULT; a write makes a held
line dirty, keeping the bytes behind it. -/
def State.galAccess (s : State) (mask : Nat) (noalloc write whole : Bool) (a : Nat) : State :=
  let sl := galSlice a
  let dirtied (m : Mem) (l : Line) : Line := if write && !l.dirty then { l with dirty := true, back := m.bytes (a / 256 * 256) 256 } else l
  match s.gal.locate a with
  | some k =>
    match Tab.find s.gal.lines k with
    | some l => { s with gal := { s.gal with lines := Tab.set s.gal.lines k (dirtied s.mem { l with reuse := min 3 (l.reuse + 1) }) } }
    | none => s
  | none =>
    if noalloc || s.sliceFault sl then s
    else match s.victim mask sl (galSet a) with
      | none => s
      | some (k, s) =>
        let s := s.evict k
        let s := if write && whole then s else s.touch 0 0 (a / 256 * 256) 256
        let l := dirtied s.mem ⟨a / 256, false, 0, [], lineErrs s.mem.errs (a / 256)⟩
        { s with gal := { s.gal with lines := Tab.set s.gal.lines k l, stale := setLineErrs s.gal.stale k [] } }

/-! ## Reads and writes of memory -/

/-- The lines of a range: the part of each 256-byte line. -/
def linePieces (a n : Nat) : List (Nat × Nat) :=
  if n = 0 then [] else
  (upFrom (a / 256) ((a + n - 1) / 256 - a / 256 + 1)).map fun l =>
    let lo := max a (l * 256)
    (lo, min (a + n) ((l + 1) * 256) - lo)

/-- How a request reaches memory: the wing whose mapping applies (none: addresses are taken as they stand), BANK in force, the way
mask charged, NOALLOC, SOURCE of Table 6.3, and whether the owner of the address is charged (R411; not for the debug port, R454). `swap`: the
exchange of context slots in force at its issue, for a request that is made later (R335). -/
structure Req where
  wing : Option Nat := none
  bank : Nat := 0
  mask : Nat := 0
  noalloc : Bool := false
  src : Nat := 0
  owner : Bool := true
  swap : Option (Nat × Nat × Nat) := none
deriving DecidableEq, Repr

/-- The present BANK of a wing. -/
def State.bankNow (s : State) (w : Nat) : Nat := (s.job w).vr.bank

/-- A wing's own request with the mapping in force now. -/
def State.reqOf (s : State) (w : Nat) : Req := { wing := some w, bank := s.bankNow w, mask := s.ways w }

/-- The address a request reaches. -/
def State.place (s : State) (r : Req) (a : Nat) : Nat :=
  match r.wing, r.swap with
  | some w, some x => swapRange x.1 x.2.1 x.2.2 (s.bankAddr w r.bank a)
  | some w, none => s.mapAddr w r.bank a
  | none, _ => a

/-- Charge the bytes of an access (Table 18.2); background work is in the module record only. -/
def State.chargeMem (s : State) (r : Req) (a n : Nat) (write : Bool) : State :=
  -- what a request of an earlier set-up addresses lay in a window of its own wing (R335)
  let w := if r.src ≠ 0 || !r.owner then none else if r.swap.isSome then r.wing else s.ownerOf a
  match s.region a with
  | .hbm _ => s.charge w (if write then Acf.hbmWr else Acf.hbmRd) n
  | .cxl _ _ => s.charge w Acf.cxl n
  | _ => s

/-- A line of a CXL port whose read was not completed (R137). -/
def State.timedOut (s : State) (a : Nat) : Bool :=
  match s.region a with
  | .cxl p _ => (s.cxlPort p).timed.contains (a / 256) && (s.gal.locate a).isNone
  | _ => false

/-- The read that was not completed has been delivered. -/
def State.forgetTimed (s : State) (a : Nat) : State :=
  match s.region a with
  | .cxl p _ => { s with cxl := Tab.set s.cxl p { s.cxlPort p with timed := (s.cxlPort p).timed.filter (· ≠ a / 256) } }
  | _ => s

/-- Read the part of one line. -/
def State.readPiece (s : State) (r : Req) (a n : Nat) : List PByte × State :=
  match s.region a with
  | .unmapped => (List.replicate n (0, true), s)
  | .sram _ _ =>
    let s := s.touch r.src 0 a n
    (s.mem.read a n, s)
  | _ =>
    match s.behind a with
    | .retired => (List.replicate n (0, true), s.retiredAccess r.src a)
    | .dead => (List.replicate n (0, true), s.forgetTimed a)
    | .plain =>
      if s.timedOut a then (List.replicate n (0, true), s.forgetTimed a)
      else
        let s := (s.galAccess r.mask r.noalloc false false a).touch r.src 0 a n
        (s.mem.read a n, s)

/-- Read `n` bytes at a local address: the bytes with their poison marks, and the state after the reads. -/
def State.read (s : State) (r : Req) (a n : Nat) : List PByte × State :=
  (linePieces a n).foldl (fun (acc : List PByte × State) (p : Nat × Nat) =>
    let y := acc.2.place r p.1
    let (b, s') := (acc.2.chargeMem r y p.2 false).readPiece r y p.2
    (acc.1 ++ b, s')) ([], s)

/-- The words that a write covers in part are read for the merge (R134). -/
def State.mergeRead (s : State) (src a n : Nat) : State := ((wordsOf a n).filter fun x => !x.2).foldl (fun s x => s.readFix src 0 x.1) s

/-- Write into the part of one line. The read that a partial write needs may be one that is not completed: its words are poisoned then, and
the line is not filled (log entry 72). -/
def State.writePiece (s : State) (r : Req) (a : Nat) (bs : List PByte) : State :=
  let put (s : State) : State := { s with mem := s.mem.write a bs }
  match s.region a with
  | .unmapped => s
  | .sram _ _ => put (s.mergeRead r.src a bs.length)
  | _ =>
    match s.behind a with
    | .retired => s.retiredAccess r.src a
    | .dead => s.writeLost a
    | .plain =>
      let whole : Bool := bs.length = 256
      if s.timedOut a && !whole then
        let errs := ((wordsOf a bs.length).filter fun x => !x.2).foldl (fun e x => setErr e x.1 127) s.mem.errs
        put { s.forgetTimed a with mem := { s.mem with errs := errs } }
      else put ((s.galAccess r.mask r.noalloc true whole a).mergeRead r.src a bs.length)

/-- Write bytes at a local address. -/
def State.write (s : State) (r : Req) (a : Nat) (bs : List PByte) : State :=
  (linePieces a bs.length).foldl (fun s (p : Nat × Nat) =>
    let y := s.place r p.1
    (s.chargeMem r y p.2 true).writePiece r y ((bs.drop (p.1 - a)).take p.2)) s

/-- Read a number of the wing's tables through the newel or a unit of the data path. -/
def State.readN (s : State) (r : Req) (a n : Nat) : Nat × Bool × State :=
  let (b, s) := s.read r a n
  (leNat (b.map (·.1)), b.any (·.2), s)

/-- The bytes of a wing's range as they stand, without the effects of a read: `State.fetch` has those. -/
def State.peek (s : State) (w bank a n : Nat) : List Byte :=
  (linePieces a n).flatMap fun p => s.mem.bytes (s.mapAddr w bank p.1) p.2

/-- A number of a wing's range as it stands. -/
def State.peekN (s : State) (w a n : Nat) : Nat := leNat (s.peek w (s.bankNow w) a n)

/-- A fetch of a wing's table, list or configuration words, which passes the owning slice as every read does (R124): gallery, check bits and
charges (log entry 27). -/
def State.fetch (s : State) (w a n : Nat) : State := (s.read (s.reqOf w) a n).2

/-- A fetch of a range that lies in the wing's HBM window. -/
def State.fetchIn (s : State) (w a n : Nat) : State := if n ≠ 0 && s.mappedIn w (s.bankNow w) [1] a n then s.fetch w a n else s

/-- Write back every dirty line and empty the gallery (R467). -/
def State.galFlush (s : State) : State := (s.gal.lines.map (·.1)).foldl State.evict s

/-- Lose every line: memory behind it keeps its former bytes (R466, warm reset). -/
def State.galLose (s : State) : State :=
  { s with mem := s.gal.lines.foldl (fun m x => m.uncover x.2) s.mem
           gal := { s.gal with lines := [], stale := s.gal.lines.foldl (fun e x =>
             setLineErrs e x.1 ((lineErrs s.mem.errs x.2.tag).map fun y => (x.1 * 64 + y.1 % 64, y.2))) s.gal.stale } }

/-- Zero a range of local memory with valid check bits. -/
def State.zero (s : State) (a n : Nat) : State :=
  { s with mem := { cells := s.mem.cells.filter fun c => c.1 < a ∨ a + n ≤ c.1
                    errs := s.mem.errs.filter fun e => e.1 < a / 4 ∨ (a + n) / 4 ≤ e.1 } }

end Sys2Proof.Machine
end

