-- ==== Sys2Proof/Machine/Scale.lean ====
section
/-!
DEFINITION. Scale records and delayed scaling (spec/04_formats.md R100 to R104), and the fields of a block entry (spec/07, Table
7.1).
-/
namespace Sys2Proof.Machine

/-! Block entry (Table 7.1), as a 256-bit number. -/
def blkAddr (b : Nat) : Nat := bits b 0 64
def blkDir (b : Nat) : Nat := bits b 94 2
def blkHalf (b : Nat) : Nat := bits b 93 1
def blkNoalloc (b : Nat) : Bool := bit b 92
def blkSplit (b : Nat) : Bool := bit b 91
def blkPrio (b : Nat) : Nat := bits b 88 3
def blkFmt (b : Nat) : Nat := bits b 83 5
def blkUse (b : Nat) : Nat := bits b 80 3
def blkLoff (b : Nat) : Nat := bits b 96 20
def blkLen (b : Nat) : Nat := bits b 128 21
def blkScl (b : Nat) : Nat := bits b 176 16
def blkAge (b : Nat) : Bool := bit b 175

/-- A finite FP32 pattern's magnitude; a non-finite one counts as 0 (R103). -/
def finMag (x : Nat) : Nat := if x % 2 ^ 31 < 0x7F800000 then x % 2 ^ 31 else 0

/-- ⌈log2(a ÷ fmax)⌉ for a positive FP32 pattern `a` and fmax = m × 2^e. -/
def ceilLog2Div (a m : Nat) (e : Int) : Int :=
  match Fp.of32 a with
  | .fin _ n f =>
    let k := flog2 n f - flog2 m e
    -- a ≤ fmax × 2^k or one more
    if magGt n f m (e + k) then k + 1 else if magGt n f m (e + k - 1) then k else k - 1
  | _ => 0

/-- SEXP or SEXP_PREV of a record as it is used (R101, R102). -/
def sclExp (f : FmtInfo) (rec : List Byte) (age : Bool) : Int :=
  max (-126) (min (toSigned 8 (fieldN rec (if age then 6 else 7) 1)) (127 - f.eF))

/-- The record advanced to step `q` (R103). -/
def sclAdvance (rec : List Byte) (q : Nat) : List Byte :=
  if fieldN rec 0 4 = q then rec else
  let w := fieldN rec 4 4
  let hlen := min (bits w 11 5) 16
  let head0 := bits w 2 4
  let head := if hlen = 0 then head0 else head0 % hlen
  let valid := min (bits w 6 5) hlen
  let margin := bits (fieldN rec 8 4) 10 3
  let amax := fieldN rec 12 4
  let h := (upFrom 0 16).map fun k => if hlen ≠ 0 ∧ k = head then amax else fieldN rec (64 + 4 * k) 4
  let head' := if hlen = 0 then head0 else (head + 1) % hlen
  let valid' := if hlen = 0 then bits w 6 5 else min (valid + 1) hlen
  let a := if hlen = 0 then 0 else (upFrom 1 valid').foldl (fun m i => max m (finMag (h.getD ((head' + hlen - i % hlen) % hlen) 0))) 0
  let sexp := bits w 24 8
  let sexp' := match fmtInfo (bits (fieldN rec 8 4) 0 5) with
    | some f => if a > 0 then ofSigned 8 (max (-128) (min 127 (ceilLog2Div a f.fmax.1 f.fmax.2 + margin))) else sexp
    | none => sexp
  leBytes 4 q ++ leBytes 4 (sexp' * 2 ^ 24 + sexp * 2 ^ 16 + bits w 11 5 * 2 ^ 11 + valid' * 2 ^ 6 + head' * 4 + bits w 0 2)
    ++ sliceB rec 8 4 ++ leBytes 4 0 ++ sliceB rec 16 48 ++ h.flatMap (leBytes 4)

/-- The address of a scale record. -/
def State.sclAddr (s : State) (w idx : Nat) : Nat := s.wr w Reg.wngSclBase + 128 * idx

/-- A scale record as a block of format `fmt` finds it, unless R101 rejects it. -/
def State.sclRead (s : State) (w bank idx fmt : Nat) : Option (List Byte) × State :=
  if idx ≥ min (s.wr w Reg.wngSclCount) 65536 || !fmtTensor fmt || !s.mappedIn w bank [1] (s.sclAddr w idx) 128 then (none, s)
  else
    let (b, s) := s.read { (s.reqOf w) with bank := bank } (s.sclAddr w idx) 128
    let r := b.map (·.1)
    if b.any (·.2) || bits (fieldN r 8 4) 0 5 ≠ fmt then (none, s) else (some r, s)

/-- Write bytes of a scale record. -/
def State.sclWrite (s : State) (w bank idx off : Nat) (bs : List Byte) : State :=
  s.write { (s.reqOf w) with bank := bank } (s.sclAddr w idx + off) (clean bs)

/-- The first issue of an entry advances each record that a block of its list names validly (R103). -/
def State.sclAdvanceAll (s : State) (w bank step : Nat) (blks : List Nat) : State :=
  blks.foldl (fun s b =>
    if !fmtTensor (blkFmt b) then s else
    match s.sclRead w bank (blkScl b) (blkFmt b) with
    | (some r, s) => if fieldN r 0 4 = step then s else s.sclWrite w bank (blkScl b) 0 (sclAdvance r step)
    | (none, s) => s) s

/-- Saturations under a record are counted as they happen (R104). -/
def State.sclCount (s : State) (w bank idx n : Nat) : State :=
  if n = 0 then s else
  let (b, s) := s.read { (s.reqOf w) with bank := bank } (s.sclAddr w idx + 16) 4
  s.sclWrite w bank idx 16 (leBytes 4 (sat 32 (leNat (b.map (·.1)) + n)))

/-- The end of an entry raises AMAX_CUR of each record it wrote under (R103). -/
def State.sclRaise (s : State) (r : Run) : State :=
  r.amax.foldl (fun s x =>
    if x.2 = 0 ∨ x.1 ≥ min (s.wr r.wing Reg.wngSclCount) 65536 ∨ s.mappedIn r.wing r.bank [1] (s.sclAddr r.wing x.1) 128 = false then s else
    let (b, s) := s.read { (s.reqOf r.wing) with bank := r.bank } (s.sclAddr r.wing x.1 + 12) 4
    if finMag (leNat (b.map (·.1))) < x.2 then s.sclWrite r.wing r.bank x.1 12 (leBytes 4 x.2) else s) s

end Sys2Proof.Machine
end

