-- ==== Sys2Proof/Machine/Mailbox.lean ====
section
/-!
DEFINITION. The mailbox (spec/16_newel.md R363 to R371): taking a command entry, the checks that come before every command's own,
outstanding commands and completions.
-/
namespace Sys2Proof.Machine

/-! Status codes of Table 16.4. -/
namespace St
abbrev ok : Nat := 0
abbrev badOpcode : Nat := 1
abbrev denied : Nat := 2
abbrev badArg : Nat := 3
abbrev noWing : Nat := 4
abbrev tableBad : Nat := 5
abbrev treadPast : Nat := 6
abbrev htUnlocked : Nat := 7
abbrev slotBusy : Nat := 8
abbrev poolFull : Nat := 9
abbrev rowLive : Nat := 0xA
abbrev refLimit : Nat := 0xB
abbrev noSeq : Nat := 0xC
abbrev cancelLate : Nat := 0xD
abbrev badEpoch : Nat := 0xE
abbrev flipPending : Nat := 0xF
abbrev adapterBusy : Nat := 0x10
abbrev noAdapter : Nat := 0x11
abbrev prefixBusy : Nat := 0x12
abbrev noPrefix : Nat := 0x13
abbrev prefixStale : Nat := 0x14
abbrev layoutPending : Nat := 0x15
abbrev badLayout : Nat := 0x16
abbrev noLayout : Nat := 0x17
abbrev landPending : Nat := 0x18
abbrev landLate : Nat := 0x19
abbrev blockBad : Nat := 0x1A
abbrev landTimeout : Nat := 0x1B
abbrev aborted : Nat := 0x1C
abbrev quiesceLate : Nat := 0x1D
abbrev unitBusy : Nat := 0x1E
abbrev retireBlocked : Nat := 0x1F
abbrev noSpare : Nat := 0x20
abbrev fuseFail : Nat := 0x21
abbrev shardBad : Nat := 0x22
abbrev shardMissing : Nat := 0x23
abbrev sigBad : Nat := 0x24
abbrev noImage : Nat := 0x25
abbrev flashFull : Nat := 0x26
abbrev fwBad : Nat := 0x27
abbrev fwLevel : Nat := 0x28
abbrev fwReverted : Nat := 0x29
abbrev unitFault : Nat := 0x2B
abbrev seqLimit : Nat := 0x2C
end St

/-- Entries of a command or completion ring (R363, R364; LOG2SZ 9 to 15 act as 8). -/
def ringSize (reg : Nat) : Nat := 2 ^ (min (bits reg 0 4) 8 + 4)

/-- Commands of a function that are outstanding (R365). -/
def State.outst (s : State) (fn : Nat) : Nat :=
  (s.newel.out.filter fun c => c.fn = fn).length + (s.newel.due.filter fun c => c.cmd.fn = fn).length

/-- The newel takes commands: it runs and start-up is over (R460, R381). -/
def State.ready (s : State) : Bool := s.newel.running && s.boot.st = 5

/-- The entry at the head of a ring, when the newel may read one (R363, R365). -/
def State.headEntry (s : State) (fn : Nat) : Option (List Byte) :=
  let f := s.fnSt fn
  if s.ready && bit f.ctrl 0 && f.head ≠ f.tail && s.outst fn < 256 && f.cplUsed + s.outst fn < ringSize f.cpl then
    (s.hostRead fn (f.cmd / 4096 * 4096 + 128 * f.head) 128).map fun b => b.map (·.1)
  else none

/-- The rings in the order in which a round serves them (R367): the PF's, then the VFs' from the wing pointer of R344 upward. -/
def State.ringOrder (s : State) : List Nat := 0 :: (upFrom 0 32).map fun i => (s.fab.ptr + i) % 32 + 1

/-- The ring that the newel serves next (R367): the first behind the one served last that holds work and was not served in the round, or the first of
a new round; and whether a round begins with it. -/
def State.nextRing (s : State) : Option (Nat × Bool) :=
  let work := s.ringOrder.filter fun fn => (s.headEntry fn).isSome
  let rest := match s.newel.round.head? with
    | some l => (s.ringOrder.dropWhile (· ≠ l)).drop 1
    | none => s.ringOrder
  match work.find? fun fn => rest.contains fn && !s.newel.round.contains fn with
  | some fn => some (fn, false)
  | none => work.head?.map fun fn => (fn, true)

/-- The entry that the newel takes next, when it is a given ring's. -/
def State.turnEntry (s : State) (fn : Nat) : Option (List Byte) :=
  if s.nextRing.map (·.1) = some fn then s.headEntry fn else none

/-- An entry of a ring is taken: the head moves on, the read is charged, and the ring is served in the round. -/
def State.takeHead (s : State) (fn : Nat) : State :=
  let new := match s.nextRing with | some x => x.2 | none => true
  let t := (s.hostIn fn 128).modFn fn fun f => { f with head := (f.head + 1) % ringSize f.cmd }
  { t with newel := { s.newel with nextCid := s.newel.nextCid + 1, round := if new then [fn] else fn :: s.newel.round } }

/-- The OPCODE field of an entry (Table 16.1). -/
def entryOp (e : List Byte) : Nat := fieldN e 2 2

/-- The command of an entry as accepted now (Table 16.1, R366, R368). -/
def State.cmdOf (s : State) (fn : Nat) (e : List Byte) : Cmd :=
  { cid := s.newel.nextCid, fn := fn, wing := if fn = 0 then bits (fieldN e 0 4) 8 5 else fn - 1, op := entryOp e, tag := fieldN e 4 4,
    irq := bit (fieldN e 0 4) 15, at_ := s.tread, aclk := s.time.phase, eff := s.nextEff s.time.phase,
    w := (upFrom 0 15).map fun n => fieldN e (8 + 8 * n) 8, prog := 0, aux := [] }

/-- Argument word n. -/
def Cmd.arg (c : Cmd) (n : Nat) : Nat := c.w.getD n 0

/-- Bytes of a completion entry (Table 16.2). -/
def cplBytes (phase : Bool) (c : Cpl) : List Byte :=
  leBytes 4 (b2n phase * 2 ^ 31 + c.cmd.op) ++ leBytes 4 c.cmd.tag ++ leBytes 4 (c.detail * 65536 + c.status) ++ leBytes 4 0
    ++ leBytes 8 (c.cmd.at_ * 65536 + c.cmd.aclk) ++ leBytes 8 (c.dtread * 65536)
    ++ (upFrom 0 12).flatMap fun n => leBytes 8 (c.r.getD n 0)

/-- Write a completion into the function's ring (R364, R369). -/
def State.writeCpl (s : State) (c : Cpl) : State :=
  let f := s.fnSt c.cmd.fn
  let n := ringSize f.cpl
  let s := s.hostWrite c.cmd.fn (f.cpl / 4096 * 4096 + 128 * f.cplTail) (clean (cplBytes f.cphase c))
  let s := s.modFn c.cmd.fn fun f => { f with
    cplTail := (f.cplTail + 1) % n, cplUsed := f.cplUsed + 1, cphase := if f.cplTail + 1 = n then !f.cphase else f.cphase }
  if c.cmd.irq && bit f.ctrl 3 then s.fire c.cmd.fn (bits f.ctrl 4 4) else s

/-- A command's outcome falls now: its completion is written, or waits while the newel restarts (R366, R381). -/
def State.complete (s : State) (c : Cmd) (status detail : Nat) (r : List Nat) : State :=
  let p : Cpl := ⟨c, status, detail, s.tread, r⟩
  if s.newel.running then s.writeCpl p else { s with newel := { s.newel with due := s.newel.due ++ [p] } }

/-- Completions that fell due while the newel restarted (R381). -/
def State.drainCpls (s : State) : State := s.newel.due.foldl (fun s c => s.writeCpl c) { s with newel := { s.newel with due := [] } }

/-- An outstanding command ends. -/
def State.finish (s : State) (c : Cmd) (status : Nat) (r : List Nat) : State :=
  ({ s with newel := { s.newel with out := s.newel.out.filter fun x => x.cid ≠ c.cid } }).complete c status 0 r

/-- An accepted command becomes outstanding. -/
def State.hold (s : State) (c : Cmd) : State := { s with newel := { s.newel with out := s.newel.out ++ [c] } }

/-- Change an outstanding command's progress. -/
def State.modCmd (s : State) (cid : Nat) (f : Cmd → Cmd) : State :=
  { s with newel := { s.newel with out := s.newel.out.map fun x => if x.cid = cid then f x else x } }

/-- The outstanding commands of an opcode on a wing, in acceptance order. -/
def State.outOf (s : State) (op w : Nat) : List Cmd := s.newel.out.filter fun c => c.op = op && c.wing = w

/-- The outstanding commands of an opcode. -/
def State.outOp (s : State) (op : Nat) : List Cmd := s.newel.out.filter fun c => c.op = op

/-- A command's boundary has come: the present tread is at or after its first effective one (R366). -/
def State.isDue (s : State) (c : Cmd) : Bool := treadReached c.eff s.tread

/-- What Table 16.5 says of a command before its own rules: opcode, wing-scoped, open to a VF, exempt from NO_WING, and the bits of
each argument word that it uses. -/
structure CmdSpec where
  op : Nat
  onWing : Bool
  vf : Bool
  exempt : Bool
  masks : List Nat
deriving DecidableEq, Repr

/-- The refusal that R368 gives before the command's own rules: DENIED, BAD_ARG for reserved bits and unused words, NO_WING. -/
def State.preCheck (s : State) (k : CmdSpec) (c : Cmd) (hdr : Nat) : Option Nat :=
  if c.fn ≠ 0 ∧ k.vf = false then some St.denied
  else if bits hdr 13 2 ≠ 0 ∨ bits hdr 0 8 ≠ 0 ∨ (upFrom 0 15).any fun n => c.arg n &&& (k.masks.getD n 0) ≠ c.arg n then some St.badArg
  else if k.onWing ∧ k.exempt = false ∧ s.enabled c.wing = false then some St.noWing
  else none

/-- An opcode that Table 16.5 assigns. -/
def opAssigned (op : Nat) : Bool :=
  (op ≤ 1) || (0x100 ≤ op && op ≤ 0x105) || (0x200 ≤ op && op ≤ 0x204) || (0x300 ≤ op && op ≤ 0x304) || (0x400 ≤ op && op ≤ 0x402)
    || (0x500 ≤ op && op ≤ 0x503) || (0x600 ≤ op && op ≤ 0x602) || (0x700 ≤ op && op ≤ 0x706) || (0x800 ≤ op && op ≤ 0x804)
    || op = 0x900 || op = 0x901 || op = 0xA00

/-- Entries whose turn has come and that no command row stands for are taken: an unassigned opcode completes with BAD_OPCODE, and a
SELFTEST_RUN of an ITEM that Table 19.2 does not assign with BAD_ARG (DENIED from a VF). -/
def State.takeRest : Nat → State → State
  | 0, s => s
  | f + 1, s =>
    match s.nextRing with
    | none => s
    | some (fn, _) => match s.headEntry fn with
      | none => s
      | some e =>
        let c := s.cmdOf fn e
        let bad := !opAssigned (entryOp e)
        let item := entryOp e = 0x706 && bits (c.arg 0) 0 4 ≥ 8
        if bad || item then
          State.takeRest f ((s.takeHead fn).complete c (if bad then St.badOpcode else if fn ≠ 0 then St.denied else St.badArg) 0 [])
        else s

/-- A command row: at `clk` the newel ends its acceptance checks on the head entry of ring `fn`, whose turn it must be (R367) and which must hold the
row's opcode; otherwise nothing happens. Entries before it that no row stands for are taken first. A refusal completes at acceptance; else the
command's own rules follow. -/
def State.mailRow (s : State) (fn clk : Nat) (k : CmdSpec) (body : State → Cmd → State) : State :=
  let s1 := State.takeRest 4096 (s.at_ clk)
  match s1.turnEntry fn with
  | none => s
  | some e =>
    if entryOp e ≠ k.op then s
    else
      let c := s1.cmdOf fn e
      let s2 := s1.takeHead fn
      match s2.preCheck k c (fieldN e 0 4) with
      | some st => s2.complete c st 0 []
      | none => body s2 c

/-- The outstanding commands of a wing end with ABORTED, but those that `keep` names (R384). -/
def State.abortWing (s : State) (w : Nat) (keep : Cmd → Bool) (onWing : Cmd → Bool) : State :=
  (s.newel.out.filter fun c => (c.fn = w + 1 || (onWing c && c.wing = w)) && !keep c).foldl (fun s c => s.finish c St.aborted []) s

/-- The number of the tread that the last boundary ended. -/
def State.endedTread (s : State) : Nat := s.time.stepped.getD ((s.tread + treadMod - 1) % treadMod)

/-- Do something as of the tread that the last boundary ended. -/
def State.asEnded (s : State) (f : State → State) : State :=
  let r := f { s with time := { s.time with tread := s.endedTread } }
  { r with time := { r.time with tread := s.tread } }

/-- A command acts on a wing (R372). -/
def opScoped (op : Nat) : Bool := (0x100 ≤ op && op < 0x700 && op ≠ 0x602) || op = 0x800 || op = 0xA00

end Sys2Proof.Machine
end

