-- ==== Sys2Proof/Machine/Account.lean ====
section
/-!
DEFINITION. Accounting windows and records, telemetry records, their rings, and the rows ACC_CONS, TELEM and ACC_SNAPSHOT
(spec/18_accounting.md).
-/
namespace Sys2Proof.Machine

/-- Slots of the accounting ring (ACC_RING.LOG2SZ 9 to 15 act as 8). -/
def State.accRingSize (s : State) : Nat := 2 ^ (min (bits (s.pf Reg.accRing) 0 4) 8 + 6)

/-- Energy in µJ from units of 10 pJ. -/
def toUj (e : Nat) : Nat := e / 100000

/-- Bytes of an accounting record (Table 18.3). `input` is the input energy of a module record. -/
def AccRec.bytes (r : AccRec) : List Byte :=
  let c (f : Nat) : Nat := Tab.cnt r.counts f
  let mod := r.wing.isNone
  let en : Nat := if mod then toUj (c 17) else toUj (c Acf.energy)
  let un : Int := if mod then (toUj (c 17) : Int) - (toUj (c Acf.energy) : Int) else 0
  leBytes 8 (r.start * 65536) ++ leBytes 8 (r.stop * 65536) ++ leBytes 4 r.seq
    ++ leBytes 4 ((r.wing.getD 0) * 2 ^ 27 + b2n mod * 2 ^ 26 + r.flags * 2 ^ 22)
    ++ ((upFrom 0 9).flatMap fun f => leBytes 8 (c f))
    ++ leBytes 8 (c Acf.fabTx) ++ leBytes 8 (c Acf.fabRx) ++ leBytes 8 (c Acf.flash) ++ leBytes 8 en
    ++ leBytes 4 (c Acf.capskip) ++ leBytes 4 (c Acf.ovr) ++ leBytes 4 0 ++ leBytes 4 (c Acf.refused)
    ++ leBytes 8 (if mod then c Acf.ctNone else 0) ++ leBytes 8 (ofSigned 64 un) ++ leBytes 96 0

/-- The ring has room for a record and can be reached: the PF is not in D3hot (R443). -/
def State.accRoom (s : State) : Bool :=
  let behind := (s.acct.prod + 2 ^ 32 - s.acct.cons) % 2 ^ 32
  s.fnMaster 0 && s.pf Reg.accRing / 4096 ≠ 0 && (behind < s.accRingSize || behind ≥ 2 ^ 31)

/-- Write one record into the ring (R416). -/
def State.accWrite (s : State) (r : AccRec) : State :=
  let s := s.hostWrite 0 (s.pf Reg.accRing / 4096 * 4096 + s.acct.prod % s.accRingSize * 256) (clean r.bytes)
  { s with acct := { s.acct with prod := (s.acct.prod + 1) % 2 ^ 32 } }

/-- Held records move to the ring, oldest first, while it has room. -/
def State.accDrain : Nat → State → State
  | 0, s => s
  | n + 1, s =>
    match s.acct.held with
    | [] => s
    | r :: rest => if s.accRoom then State.accDrain n (({ s with acct := { s.acct with held := rest } }).accWrite r) else s

/-- The counts of two spans together. -/
def addCounts (a b : Tab Nat) : Tab Nat := b.foldl (fun t x => Tab.bump t x.1 x.2) a

/-- Merge a record into the newest held one of the same wing or module (R416). -/
def mergeLast (r : AccRec) : List AccRec → Option (List AccRec)
  | [] => none
  | x :: xs => match mergeLast r xs with
    | some ys => some (x :: ys)
    | none => if x.wing = r.wing then
        some ({ x with stop := r.stop, flags := x.flags ||| r.flags ||| 4, counts := addCounts x.counts r.counts } :: xs)
      else none

/-- Place a record: in the ring behind held ones, in the hold, or merged when the hold is full (R416). With a full hold that has no
record of the same wing, the newest held record of any kind is displaced by none: the record is kept beyond the hold. -/
def State.accPlace (s : State) (r : AccRec) : State :=
  if s.acct.held.isEmpty && s.accRoom then s.accWrite r
  else if s.acct.held.length < 1024 then { s with acct := { s.acct with held := s.acct.held ++ [r] } }
  else match mergeLast r s.acct.held with
    | some h => { s with acct := { s.acct with held := h, merges := sat 16 (s.acct.merges + 1) } }
    | none => { s with acct := { s.acct with held := s.acct.held ++ [r] } }

/-- A record placed now would be merged: it is none of its own, and SEQ counts records. -/
def State.accMerges (s : State) (w : Option Nat) : Bool :=
  !(s.acct.held.isEmpty && s.accRoom) && s.acct.held.length ≥ 1024 && s.acct.held.any fun x => x.wing = w

/-- Close a wing's open window at a boundary, or the module's (`none`): a record is placed and the counts of the window clear. Flag
bits: 8 CUT (bit 25), 4 MERGED, 2 SNAP, 1 DEVRST. -/
def State.accClose (s : State) (w : Option Nat) (stop flags : Nat) : State :=
  match w with
  | some w =>
    let a := (s.wing w).acc
    if !a.opened then s else
    let q := if s.accMerges (some w) then a.seq else (a.seq + 1) % 2 ^ 32
    let s := s.modWing w fun x => { x with acc := { x.acc with win := [], start := stop, seq := q, opened := false } }
    s.accPlace ⟨some w, a.start, stop, a.seq, flags, a.win⟩
  | none =>
    let a := s.acct.own
    if !a.opened then s else
    let c := Tab.set a.win 17 s.acct.input
    let q := if s.accMerges none then a.seq else (a.seq + 1) % 2 ^ 32
    let s := { s with acct := { s.acct with own := { a with win := [], start := stop, seq := q, opened := false }, input := 0 } }
    s.accPlace ⟨none, a.start, stop, a.seq, flags, c⟩

/-- Open a window at a boundary (R414); counts gathered outside any window are left out of it. -/
def AccWing.openAt (a : AccWing) (t : Nat) : AccWing :=
  if a.opened then a else
  { a with
    opened := true, start := t, win := [], first := if a.everOpened then a.first else t, base := if a.everOpened then a.base else a.cum
    everOpened := true }

/-- A wing's counters are cleared and its window is gone (R415, R419); SEQ goes on. -/
def AccWing.clear (a : AccWing) : AccWing :=
  { a with win := [], cum := [], edge := [], base := [], tel := [], opened := false, everOpened := false }

/-- The counts stamped at the boundary join the window that runs from it, or that opened there (R34, R414). -/
def AccWing.settle (a : AccWing) : AccWing :=
  if a.edge = [] then a else { a with win := addCounts a.win a.edge, cum := addCounts a.cum a.edge, edge := [] }

/-- Windows that end at the boundary into the present tread close, wings first, then the module, and the next ones open (R414, R43).
`stop`: the end they show, `all`: a step or a cut closes them all; `flags`: those of each record. -/
def State.accWindows (s : State) (stop : Nat) (all : Bool) (flags : Option Nat → Nat) : State :=
  let n := bits (s.pf Reg.accCtrl) 0 24
  let ends := all || (n ≠ 0 && s.tread % n = 0)
  if !ends then s else
  let s := (upFrom 0 32).foldl (fun s w => s.accClose (some w) stop (flags (some w))) s
  s.accClose none stop (flags none)

/-- CUT of a window that action 2 of this boundary cuts too, `r` being the state behind the landing: WLEN changes, or EN falls (R415). -/
def State.cutAt (s r : State) (w : Option Nat) : Nat :=
  if bits (s.pf Reg.accCtrl) 0 24 ≠ bits (r.pf Reg.accCtrl) 0 24 then 8
  else match w with
    | some w => if s.enabled w && !r.enabled w then 8 else 0
    | none => 0

/-- Windows end at the boundary into the present tread (R414, R43). -/
def State.accEnds (s : State) : Bool :=
  let n := bits (s.pf Reg.accCtrl) 0 24
  s.time.stepped.isSome || (n ≠ 0 && s.tread % n = 0)

/-- Open the windows that may run: enabled wings and the module while WLEN is not 0 (R414, R415). -/
def State.accBegin (s : State) : State :=
  if bits (s.pf Reg.accCtrl) 0 24 = 0 then s else
  let s := (upFrom 0 32).foldl (fun s w => if s.enabled w && !(s.wing w).acc.opened then
    s.modWing w fun x => { x with acc := x.acc.openAt s.tread } else s) s
  if s.acct.own.opened then s
  else { s with acct := { s.acct with own := s.acct.own.openAt s.tread, input := 0 } }

/-- Windows that may run open, and what was counted at this boundary so far belongs to them. -/
def State.accOpen (s : State) : State :=
  let s := s.accBegin
  { s with wings := s.wings.map fun x => if x.2.acc.edge = [] then x else (x.1, { x.2 with acc := x.2.acc.settle })
           acct := { s.acct with own := s.acct.own.settle, edge := false } }

/-- From here on counts are stamped at the boundary that is being carried out, or in the gap before it (R33, R43). -/
def State.edgeOn (s : State) : State := { s with acct := { s.acct with edge := true } }

/-- Action 1 of Table 2.2: windows that end here close; `cut`: CUT of those that action 2 cuts too. -/
def State.accAction1 (s : State) (cut : Option Nat → Nat) : State :=
  match s.time.stepped with
  | none => s.accWindows s.tread false cut
  | some n =>
    let k := bits (s.pf Reg.accCtrl) 0 24
    if treadReached (treadAdd n 1) s.tread then s.accWindows s.tread true (if k ≠ 0 ∧ s.tread % k = 0 then cut else fun _ => 8)
    else s.accWindows (treadAdd n 1) true fun _ => 8

/-- KiB of a count since a former value of it, the remainder carried (Table 18.4). -/
def kib (now before : Nat) : Nat := now / 1024 - before / 1024

/-- A wing's telemetry record of tread `t` (Table 18.4). -/
def telWing (t w : Nat) (a : AccWing) : List Byte :=
  let d (f : Nat) : Nat := Tab.cnt a.cum f - Tab.cnt a.tel f
  let k (f g : Nat) : Nat := kib (Tab.cnt a.cum f + Tab.cnt a.cum g) (Tab.cnt a.tel f + Tab.cnt a.tel g)
  leBytes 8 (t * 65536 + 2 ^ 14 + w * 2 ^ 9) ++ leBytes 4 (toUj (Tab.cnt a.cum Acf.energy) - toUj (Tab.cnt a.tel Acf.energy))
    ++ leBytes 4 (sat 16 (d Acf.ovr) * 65536 + d Acf.ctRun) ++ leBytes 4 (d Acf.ctIdle * 65536 + d Acf.ctGuest)
    ++ leBytes 4 (sat 16 (d Acf.nfCount) * 65536 + sat 16 (d Acf.pznBlocks))
    ++ leBytes 4 (k Acf.hbmRd Acf.hbmWr) ++ leBytes 4 (kib (Tab.cnt a.cum Acf.fabTx) (Tab.cnt a.tel Acf.fabTx))
    ++ leBytes 4 (kib (Tab.cnt a.cum Acf.fabRx) (Tab.cnt a.tel Acf.fabRx)) ++ leBytes 4 (k Acf.hostIn Acf.hostOut) ++ leBytes 24 0

/-- The power averages: the exact sum of the newest `n` measured treads and how many there are (R57). -/
def PowerSt.sum (p : PowerSt) (n : Nat) : Nat × Nat := ((p.hist.take n).foldl (· + ·) 0, (p.hist.take n).length)

/-- TRD_PWR.AVG_W: the 250-tread mean in whole watts, truncated. -/
def PowerSt.avgW (p : PowerSt) : Nat := let (x, n) := p.sum 250; if n = 0 then 0 else x / n / 1000000

/-- The module's telemetry record of tread `t` (Table 18.4); LOST is filled in as it is written. -/
def State.telModule (s : State) (t : Nat) : List Byte :=
  let a := s.acct.own
  let k (f g : Nat) : Nat := kib (Tab.cnt a.cum f + Tab.cnt a.cum g) (Tab.cnt a.tel f + Tab.cnt a.tel g)
  leBytes 8 (t * 65536 + b2n (s.power.idleKind ≠ 0)) ++ leBytes 4 ((s.power.hist.headD 0) * 40 / 1000000)
    ++ leBytes 4 (s.time.lock * 65536 + s.power.avgW) ++ leBytes 4 s.time.thetaReg
    ++ leBytes 4 (ofSigned 16 s.power.temp8 * 65536 + (Tab.cnt a.cum Acf.working - Tab.cnt a.tel Acf.working))
    ++ leBytes 4 (k Acf.hbmRd Acf.hbmWr) ++ leBytes 4 (kib (Tab.cnt a.cum Acf.fabTx) (Tab.cnt a.tel Acf.fabTx))
    ++ leBytes 4 (kib (Tab.cnt a.cum Acf.fabRx) (Tab.cnt a.tel Acf.fabRx)) ++ leBytes 4 (k Acf.hostIn Acf.hostOut)
    ++ leBytes 4 ((Tab.cnt a.cum Acf.ueRecs - Tab.cnt a.tel Acf.ueRecs) * 65536 + (Tab.cnt a.cum Acf.ceRecs - Tab.cnt a.tel Acf.ceRecs)) ++ leBytes 20 0

/-- Queue a telemetry record; a full queue of 256 loses its oldest (R420). -/
def Acct.telPush (a : Acct) (b : List Byte) : Acct :=
  if a.telq.length < 256 then { a with telq := a.telq ++ [b] } else { a with telq := a.telq.drop 1 ++ [b], telLost := a.telLost + 1 }

/-- The telemetry of the tread `t` that ended is closed (R420, Table 2.1). -/
def State.telClose (s : State) (t : Nat) : State :=
  let s :=
    if bit (s.pf Reg.accTel) 4 then
      let s := { s with acct := s.acct.telPush (s.telModule t) }
      (upFrom 0 32).foldl (fun s w => if s.enabled w && bit (s.pf Reg.accTelmask) w then
        { s with acct := s.acct.telPush (telWing t w (s.wing w).acc) } else s) s
    else s
  let s := (upFrom 0 32).foldl (fun s w => if (s.wing w).acc.cum = (s.wing w).acc.tel then s else
    s.modWing w fun x => { x with acc := { x.acc with tel := x.acc.cum } }) s
  { s with acct := { s.acct with own := { s.acct.own with tel := s.acct.own.cum } } }

/-- LOST of a module record (KIND 0) about to be written: the records displaced since the last one (R420). -/
def telLostIn (b : List Byte) (lost : Nat) : List Byte :=
  if fieldN b 1 1 / 64 = 0 then leBytes 8 (fieldN b 0 8 + sat 8 lost * 2) ++ b.drop 8 else b

/-- Write the oldest queued telemetry record into the ring; it waits while the PF cannot master the bus (R443). -/
def State.telWrite (s : State) : State :=
  match s.acct.telq with
  | [] => s
  | b :: rest =>
    if !s.fnMaster 0 then s else
    let r := s.pf Reg.accTel
    let size := 2 ^ (min (bits r 0 4) 10 + 8)
    let s := s.hostWrite 0 (r / 4096 * 4096 + s.acct.telProd % size * 64) (clean (telLostIn b s.acct.telLost))
    { s with acct := { s.acct with
      telq := rest, telProd := (s.acct.telProd + 1) % 2 ^ 32, telLost := if fieldN b 1 1 / 64 = 0 then 0 else s.acct.telLost } }

/-- Write up to `n` queued telemetry records. -/
def State.telDrain : Nat → State → State
  | 0, s => s
  | n + 1, s => State.telDrain n s.telWrite

/-- ACC_CONS (R416): consumed records; held records drain into the room made. While the value is ahead of PROD it acts as PROD (`accRoom`). -/
def State.opAccCons (s : State) (v : Nat) : State :=
  let s := { s with acct := { s.acct with cons := v % 2 ^ 32 } }
  State.accDrain s.acct.held.length s

/-- TELEM (R420, R416): `n` telemetry records and the held accounting records that have room reach the host rings. -/
def State.opTelem (s : State) (n : Nat) : State :=
  let s := State.telDrain (min n s.acct.telq.length) s
  State.accDrain s.acct.held.length s

def spcAccSnapshot : CmdSpec := ⟨0xA00, true, true, false, [0xFFFFFFFFFFFFFFFF, 0xFFFFFFFF]⟩

/-- ACC_SNAPSHOT at acceptance (R417): a buffer below 256 bytes, or not 64-byte aligned, is BAD_ARG. -/
def State.acceptSnapshot (s : State) (c : Cmd) : State :=
  if c.arg 0 % 64 ≠ 0 ∨ c.arg 1 < 256 then s.complete c St.badArg 0 [] else s.hold c

/-- ACC_SNAPSHOT at action 1 of its boundary (R417): the counts since the wing's first window opened. -/
def State.doSnapshots (s : State) : State :=
  ((s.outOp 0xA00).filter s.isDue).foldl (fun s c =>
    let a := (s.wing c.wing).acc
    let r : AccRec := ⟨some c.wing, a.first, s.tread, a.seq, 2, a.cum.map fun (f, n) => (f, n - Tab.cnt a.base f)⟩
    (s.hostWrite c.fn (c.arg 0) (clean r.bytes)).finish c St.ok [s.tread]) s

end Sys2Proof.Machine
end

