-- ==== Sys2Proof/Machine/Time.lean ====
section
/-!
DEFINITION. Hall time: markers, the offset to the parent, the lock states of Table 2.4, the step of R42, the power cap, and the
flight slots at a boundary (spec/02_time.md).
-/
namespace Sys2Proof.Machine

/-- 1/8 clk in a tread. -/
def treadEighths : Int := 300800

def TimeSt.mark (t : TimeSt) (p : Nat) : PortMark := (Tab.find t.marks p).getD {}

/-- The signed distance of tread `b` from tread `a` (R32). -/
def treadSub (a b : Nat) : Int := if treadReached a b then (treadDiff a b : Int) else -(treadDiff b a : Int)

/-- A port carries markers: UP or MISWIRED (Table 14.3). -/
def State.marksOn (s : State) (p : Nat) : Bool := let st := ((Tab.find s.ports p).getD {}).st; st = 2 || st = 4

/-- Twice the offset θ of R38 that a marker received now gives; none without an echo. The own previous marker is the one of the
tread before the present one. -/
def State.theta2Of (s : State) (p : Nat) (m : MarkerMsg) (rx8 : Nat) : Option Int :=
  if m.echoPhase = 0x7FFFF then none
  else
    let k := treadEighths
    -- the tread at which the parent received the echoed marker: the last one at or before its own with those low bits
    let back : Int := ((m.tread + 256 - m.echoTread) % 256 : Nat)
    let lead := treadSub s.tread m.tread
    let t2t1 : Int := -lead * k + rx8 - m.txPhase
    let t4t3 : Int := (lead - back) * k + m.echoPhase - s.time.tx8Prev
    let asym := if p < 8 then toSigned 16 (s.pf (Reg.trdAsym + 4 * p)) else 0
    some (t2t1 - t4t3 - asym)

/-- MARKER: a marker arrives on a port that carries markers (R36 to R38). -/
def State.opMarker (s : State) (p : Nat) (m : MarkerMsg) (clk eighth : Nat) : State :=
  if !s.marksOn p || s.board.pinsTaken then s else
  let s := s.at_ clk
  let rx8 := if s.time.inGap.isSome then 0 else 8 * clk + eighth
  let pm := s.time.mark p
  let pm := { pm with got := true, msg := some m, rx8 := rx8, rxTread := s.tread, theta2 := s.theta2Of p m rx8 }
  { s with time := { s.time with marks := Tab.set s.time.marks p pm } }

/-- Count one tread of markers on a port: treads in a row with a LOCKED marker of HOPS below 63, treads in a row without one (R37). -/
def PortMark.count (m : PortMark) : PortMark :=
  let good := m.got && (match m.msg with | some x => x.state = 2 && x.hops < 63 | none => false)
  { m with good := if good then min 16 (m.good + 1) else 0, missed := if m.got then 0 else min 16 (m.missed + 1)
           got := false, theta2 := if m.got then m.theta2 else none }

/-- The hall ports that are sources after counting (R37). -/
def TimeSt.sources (t : TimeSt) : List Nat := (upFrom 0 8).filter fun p => (t.mark p).good ≥ 16

/-- The fields of the last marker of a port. -/
def TimeSt.lastMsg (t : TimeSt) (p : Nat) : MarkerMsg := (t.mark p).msg.getD ⟨0, 0, 0, 0x7FFFF, 0, 63, 0⟩

/-- The choice of R37 among ports: lowest ROOT, then smallest HOPS, then lowest port. -/
def TimeSt.choose (t : TimeSt) : List Nat → Option Nat
  | [] => none
  | p :: ps =>
    match t.choose ps with
    | none => some p
    | some q =>
      let a := t.lastMsg p
      let b := t.lastMsg q
      if a.root < b.root ∨ (a.root = b.root ∧ (a.hops < b.hops ∨ (a.hops = b.hops ∧ p < q))) then some p else some q

/-- |θ| ≤ 20 ns: 300.8 in units of 1/16 clk. -/
def near20 (th : Option Int) : Bool := match th with | some x => x.natAbs ≤ 300 | none => false
/-- |θ| > 40 ns: 601.6 in units of 1/16 clk. -/
def far40 (x : Int) : Bool := x.natAbs ≥ 602

/-- A change that Table 2.4 calls for. -/
inductive HtMove
  | stay
  | lock (parent : Nat)
  | rootLock
  | toHoldover
  | acquire (parent : Nat) (lost rconf : Bool)
  | toFree (lost : Bool)
  | reparent (parent : Nat)
deriving DecidableEq, Repr

/-- The counts of Table 2.4 after one more tread. The tread that ends at the step's own boundary is none of the run of 256: in the table
of R465 the step falls at u + 17 and LOCKED at u + 273. -/
def TimeSt.countAll (t : TimeSt) : TimeSt :=
  let t := { t with marks := (upFrom 0 9).foldl (fun m p => match Tab.find m p with | some x => Tab.set m p x.count | none => m) t.marks }
  let th := (t.mark t.parent).theta2
  let t := { t with noSrc := if t.lock = 1 ∧ t.sources.isEmpty then t.noSrc + 1 else 0
                    hold := if t.lock = 3 then t.hold + 1 else 0 }
  match th with
  | none => t
  | some x =>
    let t := { t with theta2 := x }
    if t.lock = 1 ∧ t.stepMade ∧ !t.stepNow then { t with run20 := if near20 (some x) then t.run20 + 1 else 0 }
    else if t.lock = 2 then { t with run40 := if far40 x then t.run40 + 1 else 0 }
    else t

/-- What Table 2.4 calls for on counted markers: HT_EN, ROOT and the module's own number in effect. Where two rows hold at one boundary the
table gives no order: in LOCKED a parent that is lost goes before |θ| > 40 ns, and in HOLDOVER a source, which gives LOCKED or ACQUIRE, goes before
the 500th tread (DESIGN CHOICE, log entry 68). -/
def TimeSt.eval (t : TimeSt) (en rootBit : Bool) (num : Nat) : HtMove :=
  let src := t.sources
  let lower := src.any fun p => (t.lastMsg p).root < num
  if !en then (if t.lock = 0 then .stay else .toFree (t.lock ≥ 2))
  else match t.lock with
    | 0 =>
      if rootBit && !lower then .rootLock
      else match t.choose src with
        | some p => .acquire p false false
        | none => .stay
    | 1 =>
      match t.choose src with
      | none => if t.noSrc ≥ 16 then .toFree false else .stay
      | some p => if p ≠ t.parent then .reparent p else if t.stepMade && t.run20 ≥ 256 then .lock p else .stay
    | 2 =>
      if t.parent = 15 then
        (if lower then match t.choose src with | some p => .acquire p true true | none => .stay else .stay)
      else if (t.mark t.parent).missed ≥ 4 || !src.contains t.parent then
        match t.choose (src.filter fun p => p ≠ t.parent && near20 (t.mark p).theta2) with
        | some p => .lock p
        | none => .toHoldover
      else if t.run40 ≥ 4 then
        match t.choose src with
        | some p => .acquire p true false
        | none => .stay
      else .stay
    | _ =>
      match t.choose (src.filter fun p => near20 (t.mark p).theta2) with
      | some p => .lock p
      | none =>
        if src.any fun p => (t.mark p).theta2.isSome then
          match t.choose src with
          | some p => .acquire p true false
          | none => .stay
        else if t.hold ≥ 500 then .toFree true else .stay

/-- The move of the present counts. -/
def State.htEval (s : State) : HtMove :=
  s.time.eval (bit (s.pf Reg.trdCtrl) 0) (bit (s.pf Reg.trdCtrl) 1) (bits (s.pf Reg.halMe) 0 17)

/-- A hall-wide flight runs in these slots. -/
def Flights.runsHall (f : Flights) : Bool := f.fstate = 2 && (match f.active with | some x => x.hall | none => false)

/-- Hall time is lost: a running hall-wide flight stops with STOPPED_HT and stays loaded (R44). -/
def Flights.stopHall (f : Flights) : Flights := if f.runsHall then { f with fstate := 4, live := false } else f

/-- Hall time is lost (R44): running hall-wide flights stop, those kept in a saved context among them, HT_LOST goes to the PF and their wings, with the wings' interrupts. -/
def State.htLost (s : State) (newLock : Nat) : State :=
  let s := s.alert 2
  let body := s.evtBody 0 newLock 0 0
  let hit := (upFrom 0 32).filter fun w => (s.job w).fl.runsHall || (s.wing w).ctxs.any fun x => x.2.saved.fl.runsHall
  let s := s.postEvt (0 :: hit.map (· + 1)) body 2 none
  hit.foldl (fun s w =>
    let s := s.modWing w fun x => { x with
      job := { x.job with fl := x.job.fl.stopHall }
      ctxs := x.ctxs.map fun (y : Nat × Ctx) => (y.1, { y.2 with saved := { y.2.saved with fl := y.2.saved.fl.stopHall } }) }
    if bit (s.wr w Reg.trdWctrl) 1 then s.fire (w + 1) (bits (s.we w Reg.wngIrq) 18 4) else s) s

/-- ROOT_NUM and HOPS from the parent's marker. -/
def TimeSt.fromParent (t : TimeSt) (p : Nat) : TimeSt :=
  let m := t.lastMsg p
  { t with parent := p, root := m.root, hops := min 63 (m.hops + 1) }

/-- The counts of Table 2.4 start anew. -/
def TimeSt.restart (t : TimeSt) : TimeSt := { t with run20 := 0, run40 := 0, noSrc := 0, hold := 0, behind := false }

/-- The hall-time unit after a move of Table 2.4; `num` is the module's own number. -/
def TimeSt.moved (t : TimeSt) (num : Nat) (m : HtMove) : TimeSt :=
  match m with
  | .stay => t
  | .reparent p => { (t.fromParent p) with stepMade := false, run20 := 0, behind := false }
  | .lock p => { (t.fromParent p).restart with lock := 2, rconf := if t.lock = 2 then t.rconf else false }
  | .rootLock => { t.restart with lock := 2, parent := 15, root := num, hops := 0, rconf := false }
  | .toHoldover => { t.restart with lock := 3, parent := 15 }
  | .acquire p _ rconf => { (t.fromParent p).restart with lock := 1, stepMade := false, rconf := t.rconf || rconf }
  | .toFree _ => { t.restart with lock := 0, parent := 15, root := 0, hops := 63, stepMade := false, theta2 := 0, thetaReg := 0 }

/-- Carry out a move of Table 2.4 (R41): the unit's state, the HT_LOCKED event of an entry to LOCKED from FREE or ACQUIRE, and the
loss of hall time (R44). -/
def State.htMove (s : State) (m : HtMove) : State :=
  let was := s.time.lock
  let s := { s with time := s.time.moved (bits (s.pf Reg.halMe) 0 17) m }
  let locked (s : State) : State := s.postEvt [0] (s.evtBody 1 s.time.root 0 0) 2 none
  let r := match m with
    | .lock _ => if was = 1 then locked s else s
    | .rootLock => locked s
    | .acquire _ lost _ => if lost then s.htLost 1 else s
    | .toFree lost => if lost then s.htLost 0 else s
    | .stay | .reparent _ | .toHoldover => s
  { r with time := s.time }

/-- The move is an entry to LOCKED under a parent. -/
def HtMove.isLock (m : HtMove) : Bool := match m with | .lock _ => true | _ => false

/-- The move is an entry to ACQUIRE. -/
def HtMove.isAcquire (m : HtMove) : Bool := match m with | .acquire _ _ _ => true | _ => false

/-- A slot holds a flight. -/
def Flights.loaded (f : Flights) : Bool := f.active.isSome || f.pend.isSome

/-- Any flight slot of any wing holds a flight (R42), a saved context's slots among them (R352). -/
def State.anyLoaded (s : State) : Bool :=
  (upFrom 0 32).any fun w =>
    let x := s.wing w
    x.job.fl.loaded || x.ctxs.any (fun y => y.2.saved.fl.loaded) || !x.guests.isEmpty || !x.guestNext.isEmpty

/-- The step of R42 at the boundary that ends tread n: the tread number n′ and the gap d, when it is due. The own boundary falls at
(n + 1) treads of local time; the parent reads that moment as θ less, and the boundary moves to the parent's next one. -/
def State.stepTarget (s : State) : Option (Nat × Nat × Bool) :=
  let t := s.time
  if t.lock = 1 ∧ t.stepMade = false ∧ t.parent < 8 then
    match (t.mark t.parent).theta2 with
    | none => none
    | some th =>
      let k2 := 2 * treadEighths
      -- the parent's reading relative to the local tread n, in 1/16 clk
      let rel := k2 - th
      let j := (rel + k2 - 1) / k2
      let d := ((j * k2 - rel) / 16).toNat
      let n' := ((t.tread : Int) + j) % (treadMod : Int)
      some (n'.toNat, d, j ≤ 0)
  else none

/-- The marker the module sends on a port at the start of the present tread (R36, Table 2.3). -/
def State.markerOut (s : State) (p : Nat) (heard : Bool) : MarkerMsg :=
  let m := s.time.mark p
  ⟨s.tread, s.time.tx8, if heard then m.rxTread % 256 else 0, if heard then m.rx8 else 0x7FFFF, s.time.root,
    s.time.hops, s.time.lock⟩

/-- The tread number moves on at a boundary: by one, or by the step of R42. -/
def State.advanceTread (s : State) : State :=
  let t := s.time
  let held := match s.stepTarget with | some (_, _, b) => b && s.anyLoaded | none => false
  let (n', d, step) := match s.stepTarget with
    | some (n', d, _) => if held then (treadAdd t.tread 1, 0, false) else (n', d, true)
    | none => (treadAdd t.tread 1, 0, false)
  let (fv, s) := s.free
  { s with time := { s.time with
    tread := n', phase := 0, gap := d, stepNow := step, stepped := if n' = treadAdd t.tread 1 then none else some t.tread
    behind := if t.lock = 1 then held else false, stepMade := t.stepMade || step, run20 := if step then 0 else t.run20
    tx8Prev := (t.tx8 : Int) - treadEighths - 8 * d, tx8 := fv % 512 } }

/-- The number of the tread that ends at the coming boundary. -/
def State.ending (s : State) : Nat := s.time.inGap.getD s.tread

/-- The boundary comes: its tread number, unless the present moment lies in the gap of a step and has it already (R43). -/
def State.gapEnd (s : State) : State := if s.time.inGap.isSome then { s with time := { s.time with inGap := none } } else s.advanceTread

/-- The gap of a step begins (R42): stamps, and so counts, are those of clk 0 of the tread n′ from here on, and no action of Table 2.2 takes
place yet (R43). -/
def State.enterGap (s : State) : State := { s.advanceTread.edgeOn with time := { s.advanceTread.time with inGap := some s.tread } }

/-- What the registers show at a boundary: THETA, half of twice the offset, whose last half bit of an odd value is open (`fv`), and ROOT_NUM and
HOPS of the parent (R36, R38). -/
def TimeSt.shown (t : TimeSt) (fv : Nat) : TimeSt :=
  let th2 := if t.lock = 0 ∨ (t.lock = 2 ∧ t.parent = 15) then 0 else t.theta2
  let follows := (t.lock = 1 ∨ t.lock = 2) ∧ t.parent < 8
  { t with theta2 := th2, thetaReg := ofSigned 32 (th2 / 2 + (if th2 % 2 = 0 then 0 else ((fv % 2 : Nat) : Int)))
           root := if follows then (t.lastMsg t.parent).root else t.root
           hops := if follows then min 63 ((t.lastMsg t.parent).hops + 1) else t.hops }

/-- The markers that start now on the ports that carry them; `heard`: the ports that received one in the tread that ended. -/
def State.markersOut (s : State) (heard : List Nat) : Tab MarkerMsg :=
  (upFrom 0 9).foldl (fun m p => if s.marksOn p then Tab.set m p (s.markerOut p (heard.contains p)) else m) []

/-- Hall time at a boundary, after the protection landing of action 2 (R51): counts, transitions of Table 2.4, THETA, and the markers
that start now. A marker echoes the one received in the tread that ended; 0x7_FFFF stands where that tread brought none (DESIGN CHOICE, log
entry 69). -/
def State.htBoundary (s : State) : State :=
  let heard := (upFrom 0 9).filter fun p => (s.time.mark p).got
  let c := { s with time := s.time.countAll }
  let m := c.htMove c.htEval
  let r := { m.free.2 with time := m.time.shown m.free.1 }
  { r with time := { r.time with sent := r.markersOut heard } }

/-! ## The power cap (R57, R452, R475, R478) -/

/-- A cap in watts as it acts: 600 to 2,800. -/
def clampW (w : Nat) : Nat := max 600 (min 2800 w)

/-- The cap in force (R452). -/
def State.capW (s : State) : Nat :=
  let c := clampW (bits (s.pf Reg.trdPcap) 0 12)
  if s.power.bcap = 0 then c else min c (max 600 s.power.bcap)

/-- The power of the tread that ended is measured. -/
def State.measure (s : State) (e : BoundaryEnv) : State :=
  let p := s.power
  let a := s.acct
  { s with power := { p with hist := if p.measuring then (e.powerUw :: p.hist).take 2500 else p.hist, temp8 := e.temp8, brakeLow := e.brakeLow }
           acct := { a with input := a.input + e.powerUw * 4 } }

/-- Bits set in a mask of 64. -/
def popCount64 (x : Nat) : Nat := ((upFrom 0 64).filter fun i => bit x i).length

/-- Action 6: whether the tread that begins is an idle tread, and of which kind. -/
def State.powerAction (s : State) : State :=
  let (x25, n25) := s.power.sum 25
  let (x250, n250) := s.power.sum 250
  let hard := n25 ≠ 0 && x25 > 2800000000 * n25
  let brake := s.power.brakeLow && s.boot.st = 5
  let hot := if s.power.hot then s.power.temp8 ≥ 800 else s.power.temp8 ≥ 840
  let soft := (n250 ≠ 0 && x250 > s.capW * 1000000 * n250) || hot || 64 - popCount64 s.svc.tsExcl < 8
  let kind := if hard || brake then 2 else if soft then 1 else 0
  let s := if hard || (brake && !s.power.brakeHeld) then s.alert 5 else s
  let s := if s.power.temp8 > 800 then s.alert 1 else s
  { s with power := { s.power with
    idleKind := kind, hot := hot, brakeHeld := brake, idleCnt := if kind = 0 then s.power.idleCnt else (s.power.idleCnt + 1) % 2 ^ 20 } }

/-! ## Flight slots at a boundary (R50 to R53, R373) -/

/-- At the boundary into the present tread: a cycle ended, and the last of REPEAT cycles ended (R52). -/
def Flights.cycle (f : Flights) (t : Nat) : Flights × Bool × Bool :=
  match f.active with
  | none => (f, false, false)
  | some a =>
    if f.fstate ≠ 2 then (f, false, false)
    else if a.hall then
      let n := treadDiff f.start t / a.len
      let e := n > f.cycles
      ({ f with cycles := n }, e, e && a.rep ≠ 0 && n ≥ a.rep)
    else if f.pos ≥ a.len then ({ f with pos := 0, cycles := f.cycles + 1 }, true, a.rep ≠ 0 && f.cycles + 1 ≥ a.rep)
    else (f, false, false)

/-- Unloads both slots (R53, R349). -/
def Flights.unloadAll (_ : Flights) (fstate : Nat) : Flights := { fstate := fstate }

/-- A switch that lands (R50): the pending slot becomes active from tread `start`. -/
def Flights.land (f : Flights) (start now : Nat) : Flights :=
  match f.pend with
  | none => f
  | some p => { f with active := some p, pend := f.active, fstate := 2, index := 0, start := start, pos := 0
                       cycles := if p.hall then treadDiff start now / p.len else 0 }

/-- The outstanding FLIGHT_SWITCH, FLIGHT_STOP or FLIGHT_UNLOAD of a wing (R373). -/
def State.flightCmd (s : State) (w : Nat) : Option Cmd := s.newel.out.find? fun c => (c.op = 0x102 || c.op = 0x103 || c.op = 0x104) && c.wing = w

/-- Set a wing's flight slots. -/
def State.setFl (s : State) (w : Nat) (f : Flights) : State := s.modJob w fun j => { j with fl := f }

/-- The state of a wing with no flight in its active slot. -/
def Flights.settle (f : Flights) : Flights :=
  if f.active.isSome then f else { f with fstate := if f.pend.isSome then 1 else 0, index := 0, live := false }

/-- Action 5 for one wing, in the order of Table 2.2: a switch, else the end of the flight, then a stop or an unload. -/
def State.flightAction (s : State) (w : Nat) : State :=
  let f0 := (s.job w).fl
  let (f, ended, last) := f0.cycle s.tread
  let s := if f = f0 then s else s.setFl w f
  let running := f.fstate = 2
  let f1 := if last then { f with fstate := 3, live := false } else f
  let done (s : State) : State := if last then s.setFl w f1 else s
  match s.flightCmd w with
  | none => done s
  | some c =>
    if !s.isDue c then done s
    else if c.op = 0x104 then
      (s.setFl w (if c.arg 0 = 1 then f1.unloadAll 0 else ({ f1 with pend := none }).settle)).finish c St.ok []
    else if c.op = 0x103 then
      if c.arg 0 = 0 || ended || !running then (s.setFl w { f with fstate := 3, live := false }).finish c St.ok [] else done s
    else
      let fires := if c.arg 0 = 1 then ended || !running else treadReached (c.arg 1) s.tread
      if !fires then done s
      else match f.pend with
        | none => done s
        | some p =>
          if p.hall && s.time.lock < 2 then done (s.finish c St.htUnlocked [])
          else (s.setFl w (f.land (if c.arg 0 = 1 then s.tread else c.arg 1) s.tread)).finish c St.ok []

/-- The index of the tread that begins (R52, R57): a local flight pauses in an idle tread. While a context switch quiesces the wing, no
entry is due (R352); no hall-wide flight runs in FREE or ACQUIRE (R45). -/
def State.flightIndex (s : State) (w : Nat) : State :=
  let f := (s.job w).fl
  match f.active with
  | none => if f.live then s.setFl w { f with live := false } else s
  | some a =>
    if f.fstate ≠ 2 then (if f.live then s.setFl w { f with live := false } else s)
    else if (s.wing w).quiet then s.setFl w { f with live := false }
    else if a.hall && s.time.lock < 2 then s.setFl w { f with live := false }
    else if a.hall then s.setFl w { f with index := treadDiff f.start s.tread % a.len, live := true }
    else if s.power.idleKind ≠ 0 then s.setFl w { f with live := false }
    else s.setFl w { f with index := f.pos, pos := f.pos + 1, live := true }

end Sys2Proof.Machine
end

