-- ==== Sys2Proof/Machine/Cores.lean ====
section
/-!
DEFINITION. Entries on cores: the fields of a tread-table entry and of a configuration word, action 7 of Table 2.2, overrun, abandon,
bubbles, zeroing treads and completion records (spec/02 R54 to R58, spec/03 R70 to R86, spec/15 R341 to R343).
-/
namespace Sys2Proof.Machine

/-! Tread-table entry (Table 2.6), as a 128-bit number. -/
def entKind (e : Nat) : Nat := bits e 124 4
def entSwap (e : Nat) : Bool := bit e 123
def entYield (e : Nat) : Bool := bit e 122
def entBudget (e : Nat) : Nat := bits e 104 16
def entGuest (e : Nat) : Nat := bits e 99 5
def entCfg (e : Nat) : Nat := bits e 80 16
def entCount (e : Nat) : Nat := bits e 64 16
def entList (e : Nat) : Nat := bits e 6 41 * 64

/-! Configuration word (Table 3.2), as a 512-bit number. -/
def cwFunc (c : Nat) : Nat := bits c 26 6
def cwPass (c : Nat) : Nat := bits c 24 2
def cwAmode (c : Nat) : Nat := bits c 21 3
def cwRnd (c : Nat) : Bool := bit c 20
def cwGrad (c : Nat) : Bool := bit c 19
def cwAcc (c : Nat) : Bool := bit c 18
def cwWalk (c : Nat) : Bool := bit c 17
def cwFmtX (c : Nat) : Nat := bits c 59 5
def cwFmtW (c : Nat) : Nat := bits c 54 5
def cwFmtY (c : Nat) : Nat := bits c 49 5
def cwFmtZ (c : Nat) : Nat := bits c 44 5
def cwM (c : Nat) : Nat := bits c 80 16
def cwK (c : Nat) : Nat := bits c 64 16
def cwN (c : Nat) : Nat := bits c 112 16
def cwEpi (c : Nat) (i : Nat) : Nat := bits c (96 + 4 * i) 4
def cwS0 (c : Nat) : Nat := bits c 128 32
def cwS1 (c : Nat) : Nat := bits c 160 32
def cwLayer (c : Nat) : Nat := bits c 212 12
def cwStream (c : Nat) : Nat := bits c 204 8
def cwArg (c i : Nat) : Nat := bits c (224 + 32 * i) 32

def State.core (s : State) (c : Nat) : Core := (Tab.find s.cores c).getD {}

def State.modCore (s : State) (c : Nat) (f : Core → Core) : State := { s with cores := Tab.set s.cores c (f (s.core c)) }

/-- The run in a context slot. -/
def Core.run (x : Core) (guest : Bool) : Option Run := if guest then x.guest else x.home

def Core.setRun (x : Core) (guest : Bool) (r : Option Run) : Core := if guest then { x with guest := r } else { x with home := r }

/-- Bytes of a completion record (Table 3.8). FSTAT, as END_CLK, is 0 unless STATUS is DONE (log entry 73). -/
def crecBytes (tread fid status core rank cfg : Nat) (guest : Bool) (r : Option Run) : List Byte :=
  let lateBy := match r with | some x => min x.late 16 | none => 0
  let n (f : Run → Nat) : Nat := match r with | some x => f x | none => 0
  let b (f : Run → Bool) : Nat := match r with | some x => b2n (f x) | none => 0
  leBytes 8 (tread * 65536 + fid)
    ++ leBytes 4 (status * 2 ^ 29 + b (·.nf) * 2 ^ 28 + b (·.pzn) * 2 ^ 27 + b2n guest * 2 ^ 26 + b2n (lateBy > 0) * 2 ^ 25
        + lateBy * 2 ^ 20 + core * 2 ^ 10 + (if guest then 0 else rank))
    ++ leBytes 4 (cfg * 65536 + (if status = 0 then n (·.endClk) else 0))
    ++ leBytes 4 (sat 16 (n (·.vanished)) * 65536 + sat 16 (n (·.saturated)))
    ++ leBytes 4 (sat 16 (n (·.pznBlocks)) * 65536 + sat 16 (n (·.blocks)))
    ++ leBytes 4 (sat 16 (n (·.nfCount)) * 65536) ++ leBytes 4 (if status = 0 then n (·.fstat) else 0)

/-- A word of the wing's configuration store (R62). -/
def State.cfgWord (s : State) (w i : Nat) : Nat :=
  if i < (s.job w).cfgCount then leNat (s.peek w (s.bankNow w) ((s.job w).cfgBase + 64 * i) 64) else 0

/-- Stage the record of an entry (R81), and keep the entry's end for action 4, with the word that the entry `ent` names when it is a RUN entry,
run or not (R178, R248). -/
def State.stage (s : State) (w : Nat) (guest : Bool) (tread fid core rank ent cfg status : Nat) (r : Option Run) : State :=
  { s with
    crecs := s.crecs ++ [⟨w, guest, tread, core, rank, (s.coreSet w).length, crecBytes tread fid status core rank cfg guest r⟩]
    ended := s.ended ++ [⟨w, core, tread, (match r with | some x => x.cfg | none => if entKind ent = 1 then s.cfgWord w (entCfg ent) else 0), status,
      (match r with | some x => x.late > 0 | none => false), (match r with | some x => x.step | none => s.we w Reg.wngStep), r⟩] }

/-- A wing counts an overrun (R54, R56). -/
def State.overrun (s : State) (w : Nat) : State :=
  let s := (s.modJob w fun j => { j with ovr := sat 16 (j.ovr + 1) }).charge (some w) Acf.ovr 1
  if bit (s.wr w Reg.trdWctrl) 0 then s.fire (w + 1) (bits (s.we w Reg.wngIrq) 14 4) else s

/-- A wing counts an entry skipped by the 2,800 W limit (R57). -/
def State.countCapskip (s : State) (w : Nat) : State :=
  (s.modJob w fun j => { j with capskip := sat 16 (j.capskip + 1) }).charge (some w) Acf.capskip 1

/-- The key k3‖k2‖k1‖k0 of a wing's generator in effect (R79). -/
def State.keyOf (s : State) (w : Nat) : Nat :=
  (upFrom 0 4).foldl (fun k i => k + s.we w (Reg.wngSeed + 4 * i) * 2 ^ (32 * i)) 0

/-- A core takes a RUN entry into a slot: the entry, its configuration word and its block list are latched (Table 2.1), and so is the key of the
wing's generator, which a WNG_SEED that takes effect while the entry runs late does not change (log entry 73). -/
def State.startRun (s : State) (core w : Nat) (guest : Bool) (fid rank ent : Nat) : State :=
  if (s.unit (unitKey 0 (s.physOf core))).hw = 1 then s.stage w guest s.tread fid core rank ent (entCfg ent) 6 none
  else
    let bank := s.bankNow w
    let cfg := leNat (s.peek w bank ((s.job w).cfgBase + 64 * entCfg ent) 64)
    let blks := (upFrom 0 (entCount ent)).map fun i => leNat (s.peek w bank (entList ent + 32 * i) 32)
    let s := ((s.fetch w ((s.job w).cfgBase + 64 * entCfg ent) 64).fetch w (entList ent) (32 * entCount ent))
    let r : Run := { wing := w, tread := s.tread, fid := fid, rank := rank, guest := guest, ent := ent, cfg := cfg, blks := blks,
                     step := s.we w Reg.wngStep, bank := bank, key := s.keyOf w }
    s.modCore core fun x => x.setRun guest (some r)

/-- The guest flight that a wing holds for a lender (R341). -/
def State.guestFlight (s : State) (g lender : Nat) : Option Flight := ((s.wing g).guests.find? fun x => x.lender = lender).map (·.fl)

/-- The guest entry that runs in a bubble, if the guest flight matches (R342, R343). -/
def State.guestEntry (s : State) (g lender : Nat) (a : Flight) (idx rank : Nat) : Option Nat :=
  match s.guestFlight g lender with
  | some f =>
    if f.id = a.id ∧ f.len = a.len ∧ s.lends lender g then some (leNat (s.peek g (s.bankNow g) (f.base + (idx * f.n + rank) * 16) 16))
    else none
  | none => none

/-- The record of a lent bubble's borrower when it runs nothing (R342, R57). -/
def State.guestIdle (s : State) (g lender fid core ent : Nat) : State :=
  if (s.guestFlight g lender).isSome then s.stage g true s.tread fid core 0 ent 0 3 none else s

/-- Zero a core's whole SRAM, or its guest quarter (R76). -/
def State.zeroCore (s : State) (c : Nat) (all : Bool) : State :=
  if all then s.zero (c * 0x200000) 0x200000 else s.zero (c * 0x200000 + 0x180000) 0x80000

/-- The hand-over of the guest quarter at action 5 (R75): to the guest slot while the active flight holds a bubble for the core. Its halves then
have their first roles, 0x18_0000 as the work half (log entry 73). -/
def State.quarterOwner (s : State) (w rank core : Nat) : State :=
  let has := match (s.job w).fl.active with
    | some f => f.bubbles.any fun b => b.1 = rank
    | none => false
  if (s.core core).quarter = has then s
  else s.modCore core fun x => { x with quarter := has, zeroQuarter := true, gUser := none, gHalf := 0 }

/-- Remote requests of a block belong to its core, slot and number in the list. -/
def blockOwn (unit k : Nat) : Nat := unit * 65536 + k

/-- The owner number of requests whose requester is gone: their answers are discarded. -/
def orphan : Nat := 2 ^ 60

/-- The requests of an entry that has ended are waited for by no one. -/
def State.orphanReqs (s : State) (unit : Nat) : State :=
  { s with fab := { s.fab with reqs := (s.fab.reqs.filter fun x => !(x.own / 65536 = unit && x.done)).map fun x =>
      if x.own / 65536 = unit then { x with own := orphan } else x } }

/-- What the counts of an entry whose work has ended add to the accounts. -/
def State.chargeEnd (s : State) (r : Run) : State := (s.charge (some r.wing) Acf.nfCount r.nfCount).charge (some r.wing) Acf.pznBlocks r.pznBlocks

/-- The core has work running. -/
def Core.busy (x : Core) : Bool := x.home.isSome || x.guest.isSome

/-- The tread that begins is the replacement tread of a logical core (R434). -/
def State.replacing (s : State) (c : Nat) : Bool := s.svc.repl.any fun r => r.core = c && r.phase = 2

/-- Action 7 for core `c` of rank `k` in wing `w`. Zeroing that falls due while earlier work still runs on the core waits until the core is free
(log entry 73). A core in FAULT runs no work (R464), so its tread is CT_IDLE. -/
def State.takeEntry (s : State) (w k c : Nat) : State :=
  let f := (s.job w).fl
  let t := s.tread
  let x := s.core c
  let idle := s.power.idleKind
  let dead : Bool := (s.unit (unitKey 0 (s.physOf c))).hw = 1
  -- Table 18.1, and the cores running work of Table 18.4
  let charge (s : State) (p : Option Nat) (fld : Nat) : State :=
    let s := s.charge p fld 1
    if fld = Acf.ctRun ∨ fld = Acf.ctGuest then s.charge none Acf.working 1 else s
  match f.active with
  | none =>
    if s.replacing c then charge s none Acf.ctNone
    else if (x.zeroAll || x.zeroQuarter) && !x.busy then
      charge ((s.zeroCore c x.zeroAll).modCore c fun y => { y with zeroAll := false, zeroQuarter := false, gUser := none }) none Acf.ctNone
    else match x.home, x.guest with
      | some r, _ => charge s (some r.wing) Acf.ctRun
      | none, some r => charge s (some r.wing) Acf.ctGuest
      | none, none => charge s (some w) Acf.ctIdle
  | some a =>
    -- the entry due in this tread, with a bubble whose lending ended read as IDLE (R343)
    let e0 := if f.live then leNat (s.peek w (s.bankNow w) (a.base + (f.index * a.n + k) * 16) 16) else 0
    let bub := f.live && entKind e0 = 2
    let g := entGuest e0
    let lent := bub && s.lends w g
    let kind := if !f.live then 9 else if bub && !lent then 0 else entKind e0
    let ge := if lent then s.guestEntry g w a f.index k else none
    let ye := ge.getD 0
    -- the core reads its entry, and the guest flight's for a bubble, through the gallery (R124)
    let s := if f.live then s.fetch w (a.base + (f.index * a.n + k) * 16) 16 else s
    let s := match lent, s.guestFlight g w with
      | true, some gf => s.fetch g (gf.base + (f.index * gf.n + k) * 16) 16
      | _, _ => s
    let home (s : State) (status : Nat) : State :=
      s.stage w false t a.id c k e0 (if status = 3 ∨ status = 4 then 0 else entCfg e0) status none
    let idleRec (s : State) : State := if bub then (home s 3).guestIdle g w a.id c ye else home s 3
    -- in a zeroing tread too the record of a lent bubble is LENT (R342)
    let zeroRec (s : State) : State := if lent then (home s 4).guestIdle g w a.id c ye else idleRec s
    if s.replacing c then
      -- the replacement tread (R434): RUN entries are skipped, no overrun is counted
      charge (if kind = 9 then s
        else if lent then
          let s := home s 4
          match ge with
          | some y => if entKind y = 1 then s.stage g true t a.id c 0 y (entCfg y) 1 none else s.stage g true t a.id c 0 y 0 3 none
          | none => s.guestIdle g w a.id c ye
        else if kind = 1 then home s 1 else idleRec s) none Acf.ctNone
    else if (x.zeroAll || x.zeroQuarter) && !x.busy then
      let s := (s.zeroCore c x.zeroAll).modCore c fun y => { y with zeroAll := false, zeroQuarter := false, gUser := none }
      charge (if kind = 9 then s else zeroRec s) none Acf.ctNone
    else
      -- power-cap idle treads (R57): the records of an entry that runs none of its parts
      let capped := f.live && a.hall && (idle = 2 || (idle = 1 && entYield e0))
      let capRecs (s : State) : State :=
        if lent then
          let s := home s 4
          match ge with
          | some y =>
            if idle = 2 && entKind y = 1 then (s.countCapskip g).stage g true t a.id c 0 y (entCfg y) 5 none
            else s.stage g true t a.id c 0 y 0 3 none
          | none => s.guestIdle g w a.id c ye
        else
          let s := if idle = 2 then home (s.countCapskip w) 5 else home s 3
          if bub then s.guestIdle g w a.id c ye else s
      match x.home, x.guest with
      | none, none =>
        if kind = 9 then
          let s := if idle ≠ 0 && f.fstate = 2 then home s 3 else s
          charge s (some w) Acf.ctIdle
        else if capped then charge (capRecs s) (some w) Acf.ctIdle
        else if lent && !dead && (match ge with | some y => entKind y = 1 | none => false) && (x.gUser.isSome && x.gUser ≠ some g) then
          -- another wing's guest work was here: the quarter is zeroed first (R76)
          charge (zeroRec ((s.zeroCore c false).modCore c fun y => { y with gUser := none, gHalf := 0 })) none Acf.ctNone
        else
          let s := if entSwap e0 then s.modCore c fun y => { y with half := 1 - y.half } else s
          if kind = 1 then charge (s.startRun c w false a.id k e0) (some w) (if dead then Acf.ctIdle else Acf.ctRun)
          else if kind = 2 then
            let s := home s 4
            match ge with
            | some y =>
              let s := if entSwap y then s.modCore c fun z => { z with gHalf := 1 - z.gHalf } else s
              if entKind y = 1 && dead then charge (s.startRun c g true a.id k y) (some w) Acf.ctIdle
              else if entKind y = 1 then
                let s := s.modCore c fun z => { z with gUser := some g }
                charge (charge (s.startRun c g true a.id k y) (some g) Acf.ctGuest) (some w) Acf.ctLent
              else charge (s.stage g true t a.id c 0 y 0 3 none) (some w) Acf.ctIdle
            | none => charge (s.guestIdle g w a.id c ye) (some w) Acf.ctIdle
          else charge (idleRec s) (some w) Acf.ctIdle
      | _, _ =>
        -- earlier work still runs: no entry starts (R54, R77)
        let (rw, rg) := match x.home with
          | some r => (r.wing, false)
          | none => match x.guest with | some r => (r.wing, true) | none => (w, false)
        let s := charge s (some rw) (if rg then Acf.ctGuest else Acf.ctRun)
        let s := if rg && kind = 2 then charge s (some w) Acf.ctLent else s
        if kind = 9 then s
        else
          let s := if idle = 0 && (kind = 1 || kind = 2) then s.overrun rw else s
          if capped then capRecs s
          else if kind = 1 then home s 1
          else if kind = 2 then
            let s := home s 4
            match ge with
            | some y => if entKind y = 1 then s.stage g true t a.id c 0 y (entCfg y) 1 none else s.stage g true t a.id c 0 y 0 3 none
            | none => s.guestIdle g w a.id c ye
          else idleRec s

/-- The cores with a rank in a wing: (wing, rank, core). -/
def State.ranked (s : State) : List (Nat × Nat × Nat) :=
  (upFrom 0 32).flatMap fun w => let cs := s.coreSet w; ((upFrom 0 cs.length).zip cs).map fun x => (w, x.1, x.2)

/-- Cores that lie in no wing's set: zeroing is done, and CT_NONE is charged (R76, R410). -/
def State.looseCores (s : State) (owned : List Nat) : State :=
  let s := s.cores.foldl (fun s x =>
    if owned.contains x.1 then s else
    let y := s.core x.1
    if (y.zeroAll || y.zeroQuarter) && !y.busy then
      (s.zeroCore x.1 y.zeroAll).modCore x.1 fun z => { z with zeroAll := false, zeroQuarter := false, gUser := none }
    else s) s
  s.charge none Acf.ctNone (800 - owned.length)

/-- Action 7 of Table 2.2 for the whole module. -/
def State.coreAction (s : State) : State :=
  let rk := s.ranked
  let s := rk.foldl (fun s x => s.takeEntry x.1 x.2.1 x.2.2) s
  s.looseCores (rk.map (·.2.2))

/-- Abandon every entry of a wing without records (R86): home and guest, on any core. -/
def State.dropRuns (s : State) (w : Nat) : State :=
  { s with cores := s.cores.map fun x =>
      let drop (r : Option Run) : Option Run := match r with | some y => if y.wing = w then none else some y | none => none
      (x.1, { x.2 with home := drop x.2.home, guest := drop x.2.guest }) }

/-- Some home or guest entry of a wing still runs (R219). -/
def State.wingBusy (s : State) (w : Nat) : Bool :=
  s.cores.any fun x => (match x.2.home with | some r => r.wing = w | none => false) || (match x.2.guest with | some r => r.wing = w | none => false)

end Sys2Proof.Machine
end

