-- ==== Sys2Proof/Machine/Fabric.lean ====
section
/-!
DEFINITION. The hall fabric and the twin port (spec/14_hall_fabric.md): link states, cells, control items, routing, pools, frames and
remote requests.
-/
namespace Sys2Proof.Machine

def State.port (s : State) (p : Nat) : PortSt := (Tab.find s.ports p).getD {}

def State.modPort (s : State) (p : Nat) (f : PortSt → PortSt) : State := { s with ports := Tab.set s.ports p (f (s.port p)) }

/-! Fields of HAL_PERRn by number. -/
namespace Perr
abbrev replays : Nat := 0
abbrev fecunc : Nat := 1
abbrev badcell : Nat := 2
abbrev malformed : Nat := 3
abbrev unreach : Nat := 4
abbrev timeouts : Nat := 5
abbrev latersp : Nat := 6
abbrev holdwait : Nat := 7
end Perr

/-- Count in a HAL_PERRn field, saturating. -/
def State.perr (s : State) (p f n : Nat) : State := s.modPort p fun x => { x with perr := Tab.set x.perr f (sat 16 (Tab.cnt x.perr f + n)) }

/-! ## The torus (R311 to R314) -/

/-- The sizes SA, SB, SC, SD. -/
def State.hallDims (s : State) : List Nat :=
  let c := s.pf Reg.halCfg
  [min (bits c 15 5 + 1) 20, min (bits c 10 5 + 1) 20, min (bits c 5 5 + 1) 16, min (bits c 0 5 + 1) 16]

/-- The hall's module count. -/
def State.hallCount (s : State) : Nat := s.hallDims.foldl (· * ·) 1

/-- The module's own number. -/
def State.me (s : State) : Nat := bits (s.pf Reg.halMe) 0 17

/-- Coordinates of a module number, most significant dimension first. -/
def coordsOf (dims : List Nat) (n : Nat) : List Nat :=
  (dims.foldr (fun d (acc : Nat × List Nat) => (acc.1 / d, acc.1 % d :: acc.2)) (n, [])).2

/-- The module number of coordinates. -/
def numberOf (dims co : List Nat) : Nat := (dims.zip co).foldl (fun n x => n * x.1 + x.2) 0

/-- The next hop from coordinates `x` to `y` from dimension `i` on: the port, whether the hop crosses the dateline, the dimension. -/
def hopOf : Nat → List Nat → List Nat → List Nat → Option (Nat × Bool × Nat)
  | i, d :: ds, x :: xs, y :: ys =>
    if x = y then hopOf (i + 1) ds xs ys
    else
      let plus := (y + d - x) % d ≤ (x + d - y) % d
      some (2 * i + (if plus then 0 else 1), if plus then x = d - 1 else x = 0, i)
  | _, _, _, _ => none

/-- First or next port toward a module and the VC of the hop; `inn`: the port and VC the frame came in on. -/
def State.route (s : State) (dst : Nat) (inn : Option (Nat × Nat)) : Option (Nat × Nat) :=
  let dims := s.hallDims
  (hopOf 0 dims (coordsOf dims s.me) (coordsOf dims dst)).map fun (p, cross, dim) =>
    let stay := match inn with | some (q, vc) => q / 2 = dim && vc = 1 | none => false
    (p, if cross || stay then 1 else 0)

/-- The neighbour that a hall port must hear and the port it must hear it on (R310). -/
def State.expectNeigh (s : State) (p : Nat) : Nat × Nat :=
  let dims := s.hallDims
  let co := coordsOf dims s.me
  let i := p / 2
  let d := dims.getD i 1
  let x := co.getD i 0
  (numberOf dims (setIdx co i (if p % 2 = 0 then (x + 1) % d else (x + d - 1) % d)), if p % 2 = 0 then p + 1 else p - 1)

/-- The module number is within its hall (HAL_ME). -/
def State.inHall (s : State) : Bool := s.me < s.hallCount

/-! ## Pools (R318, R319, R347) -/

/-- Class of a frame type: 0 request, 1 response, 2 message. -/
def classOf (typ : Nat) : Nat := if typ = 0 ∨ typ = 2 ∨ typ = 8 then 0 else if typ = 1 ∨ typ = 3 then 1 else 2

/-- Credits of a VC index (Table 14.7). -/
def vcCredits (vci : Nat) : Nat := if vci < 2 then 256 else 1024

/-- Credits that a frame takes (R318). -/
def frameCredits (payload : Nat) : Nat := (32 + payload + 63) / 64

/-- A wing's share of a class. -/
def State.share (s : State) (w cls : Nat) : Nat := bits (s.pr w Reg.wngCred) (16 - 8 * cls) 8

/-- The transit pool of a VC index on a port. -/
def State.transitPool (s : State) (p vci : Nat) : Nat :=
  if p = 8 then 0 else
  let t := max 5 (min 14 (bits (s.pf Reg.halRto) 16 4))
  max 65 (vcCredits vci * t / 16)

/-- Wing w's pool of a VC index on a port (R347). -/
def State.wingPool (s : State) (p vci w : Nat) : Nat :=
  let cls := vci / 2
  let ws := (upFrom 0 32).filter fun x => s.enabled x && (p ≠ 8 || bit (s.wr x Reg.wngMir) 63)
  if !ws.contains w then 0
  else
    let tot := ws.foldl (fun a x => a + s.share x cls) 0
    (vcCredits vci - s.transitPool p vci) * s.share w cls / max 256 tot

/-- The credits a pool still holds. -/
def State.poolFree (s : State) (p vci pool : Nat) : Nat :=
  (if pool = 32 then s.transitPool p vci else s.wingPool p vci pool) - Tab.cnt (s.port p).used (vci * 64 + pool)

/-- A frame leaves the receive buffer of a port: its credits are freed and a CREDIT item waits (R320, Table 14.2). -/
def State.freeCredits (s : State) (p vci pool n : Nat) : State :=
  s.modPort p fun x =>
    let k := vci * 64 + pool
    let v := (Tab.cnt x.freed k + n) % 65536
    let it (v : Nat) : Nat := 4 * 2 ^ 124 + vci * 2 ^ 24 + pool * 2 ^ 16 + v
    { x with freed := Tab.set x.freed k v, items := (x.items.filter fun y => !(y / 65536 = it v / 65536)) ++ [it v] }

/-! ## Remote requests (R323, R326) -/

/-- A request is answered: data with poison, or the refusal. -/
def State.answer (s : State) (tag : Nat) (fault : Bool) (data : List PByte) : State :=
  { s with fab := { s.fab with reqs := (s.fab.reqs.filter fun x => !(x.tag = tag && x.own = orphan)).map fun x =>
      if x.tag = tag then { x with done := true, fault := fault, data := data } else x } }

/-- A request completes with poisoned data. -/
def State.answerPoison (s : State) (tag : Nat) : State :=
  match s.fab.reqs.find? fun x => x.tag = tag with
  | some r => s.answer tag false (if r.write then [] else List.replicate r.len (0, true))
  | none => s

/-- The 32 header bytes of a frame (Table 14.5): four little-endian words of 8 bytes. -/
def frameHead (f : Frame) : List Byte :=
  leBytes 8 (f.typ % 16 * 2 ^ 60 + f.vc % 2 * 2 ^ 59 + b2n f.pzn * 2 ^ 58 + b2n f.first * 2 ^ 57 + b2n f.last * 2 ^ 56 + f.prio % 8 * 2 ^ 53
      + f.dst % 2 ^ 17 * 2 ^ 36 + f.src % 2 ^ 17 * 2 ^ 19 + f.dwing % 32 * 2 ^ 14 + f.swing % 32 * 2 ^ 9)
    ++ leBytes 8 (f.lenw % 1024 * 2 ^ 54 + f.pool % 64 * 2 ^ 48 + f.tag % 2 ^ 16 * 2 ^ 32 + f.status % 16 * 2 ^ 28)
    ++ leBytes 8 (f.addr % 2 ^ 47) ++ leBytes 8 (f.epoch % 2 ^ 32 * 2 ^ 32 + f.rlen % 2 ^ 13)

/-- The frame that 32 header bytes spell, with a payload (Table 14.5). -/
def frameOf (h : List Byte) (payload : List Byte) : Frame :=
  let w (i : Nat) : Nat := fieldN h (8 * i) 8
  { typ := bits (w 0) 60 4, vc := bits (w 0) 59 1, pzn := bit (w 0) 58, first := bit (w 0) 57, last := bit (w 0) 56, prio := bits (w 0) 53 3
    dst := bits (w 0) 36 17, src := bits (w 0) 19 17, dwing := bits (w 0) 14 5, swing := bits (w 0) 9 5, lenw := bits (w 1) 54 10
    pool := bits (w 1) 48 6, tag := bits (w 1) 32 16, status := bits (w 1) 28 4, addr := bits (w 2) 0 47, epoch := bits (w 3) 32 32
    rlen := bits (w 3) 0 13
    rsv := bits (w 0) 0 9 ≠ 0 || bits (w 1) 0 28 ≠ 0 || bits (w 2) 47 17 ≠ 0 || bits (w 3) 13 19 ≠ 0
    payload := payload }

/-- A frame's bytes in the stream of DATA cells: the header and LENW × 8 payload bytes (R315). -/
def frameStream (f : Frame) : List Byte :=
  frameHead f ++ f.payload ++ List.replicate ((f.payload.length + 7) / 8 * 8 - f.payload.length) 0

/-- The whole frames at the front of a stream, and what is left of it. Eight bytes of 0 where a frame would begin are the fill of a cell that
went out part empty: no frame’s first header word is 0 (log entry 80). -/
def framesOf : Nat → List Byte → List Frame × List Byte
  | 0, bs => ([], bs)
  | k + 1, bs =>
    let n := 8 * bits (fieldN bs 8 8) 54 10
    if 8 ≤ bs.length ∧ fieldN bs 0 8 = 0 then framesOf k (bs.drop 8)
    else if bs.length < 32 ∨ bs.length < 32 + n then ([], bs)
    else
      let (fs, rest) := framesOf k (bs.drop (32 + n))
      (frameOf (bs.take 32) ((bs.drop 32).take n) :: fs, rest)

/-- The response frame to a request: STATUS, poison and payload. -/
def respFrame (me : Nat) (f : Frame) (status : Nat) (pzn : Bool) (payload : List Byte) : Frame :=
  { typ := if f.typ = 2 then 3 else 1, vc := 0, pzn := pzn, first := true, last := true, prio := f.prio, dst := f.src, src := me
    dwing := f.swing, swing := f.dwing, lenw := payload.length / 8, pool := f.swing, tag := f.tag, status := status, addr := 0, epoch := 0
    rlen := 0, rsv := false, payload := payload }

/-- The port can carry frames at some time: it is not DOWN or MISWIRED (R325). -/
def State.portOpen (s : State) (p : Nat) : Bool := let st := (s.port p).st; st = 1 || st = 2 || st = 3

/-- Put frames of the module's own at an egress: the queue, wing, requester number, and pool; an unreachable one is dropped and counted;
`true` when they were taken. -/
def State.enqueue (s : State) (dst : Nat) (wing pool q num : Nat) (cls : Nat) (fs : List Frame) : State × Bool :=
  if !s.inHall then (s, false) else
  match s.route dst none with
  | none => (s, false)
  | some (p, vc) =>
    if !s.portOpen p || s.wingPool p (2 * cls + vc) pool = 0 then (s.perr p Perr.unreach fs.length, false)
    else
      let rid := s.fab.nextRid
      let s := { s with fab := { s.fab with nextRid := rid + 1 } }
      (s.modPort p fun x => { x with txq := x.txq ++ fs.map fun (g : Frame) => QFrame.mk { g with vc := vc, pool := pool } q wing num rid none }, true)

/-- The queue of a wing's request: min(PRIO, C) (R158). -/
def State.queueOf (s : State) (w prio : Nat) : Nat := min prio (bits (s.pr w Reg.wngProt) 12 3)

/-- The bytes a frame of the wing may carry toward a module (R348). -/
def State.frameMax (s : State) (w dst cls : Nat) : Nat :=
  match s.route dst none with
  | some (p, vc) => let m := min 4096 (64 * s.wingPool p (2 * cls + vc) w - 32); m - m % 8
  | none => 4096

/-- Cut a range into requests of at most `m` bytes that cross no 4 KiB boundary: offset and length. -/
def cutRange (m : Nat) : Nat → Nat → Nat → Nat → List (Nat × Nat)
  | 0, _, _, _ => []
  | f + 1, a, off, n =>
    if n = 0 ∨ m = 0 then [] else
    let k := min n (min m (4096 - (a + off) % 4096))
    (off, k) :: cutRange m f a (off + k) (n - k)

/-- Issue the requests of a remote block or descriptor (R323). `own` names it, `base` is the offset of the range within it, `data` holds the
bytes of a write, `dw` is the wing it names at the target. -/
def State.remote (s : State) (w dw num own base dst addr n prio typ epoch : Nat) (data : Option (List PByte)) : State :=
  let cls := 0
  let m := s.frameMax w dst cls
  let pieces := cutRange (if m = 0 then 4096 else m) (n + 1) addr 0 n
  pieces.foldl (fun s (x : Nat × Nat) =>
    let off := x.1
    let k := x.2
    let tag := s.fab.nextTag
    let port := match s.route dst none with | some (p, _) => p | none => 0
    let s := { s with fab := { s.fab with
      nextTag := (tag + 1) % 65536, reqs := s.fab.reqs ++ [RemReq.mk tag w own (base + off) k data.isSome port s.tread s.time.phase false false []] } }
    let part := match data with | some d => (d.drop off).take k | none => []
    let pay := part.map (·.1)
    let f : Frame := { typ := typ, vc := 0, pzn := part.any (·.2), first := true, last := true, prio := s.queueOf w prio, dst := dst, src := s.me
                       dwing := dw, swing := w, lenw := (pay.length + 7) / 8, pool := w, tag := tag, status := 0, addr := addr + off, epoch := epoch
                       rlen := if data.isSome then 0 else k, rsv := false, payload := pay }
    let (s, ok) := s.enqueue dst w w (s.queueOf w prio) num cls [f]
    if ok then s else s.answerPoison tag) s

/-- Send a record of a wing to a wing of another module in frames (R317, R348); true when it was queued. -/
def State.sendRecord (s : State) (typ w dwing dst q num : Nat) (body : List PByte) : State × Bool :=
  let m := s.frameMax w dst 2
  if m = 0 then
    (match s.route dst none with | some (p, _) => (s.perr p Perr.unreach (max 1 ((body.length + 4095) / 4096)), false) | none => (s, false))
  else
    let cs := (upFrom 0 (max 1 ((body.length + m - 1) / m))).map fun i => (body.drop (i * m)).take m
    let fs := ((upFrom 0 cs.length).zip cs).map fun (i, c) =>
      ({ typ := typ, vc := 0, pzn := c.any (·.2), first := i = 0, last := i + 1 = cs.length, prio := q, dst := dst, src := s.me, dwing := dwing
         swing := w, lenw := (c.length + 7) / 8, pool := w, tag := 0, status := 0, addr := 0, epoch := 0, rlen := 0, rsv := false
         payload := c.map (·.1) } : Frame)
    s.enqueue dst w w q num 2 fs

/-- Take the requests of an owner, in issue order, once they are used. -/
def State.takeReqs (s : State) (own : Nat) : List RemReq × State :=
  (s.fab.reqs.filter fun x => x.own = own,
   { s with fab := { s.fab with reqs := s.fab.reqs.filter fun x => x.own ≠ own } })

/-- An owner's requests are all answered. -/
def State.reqsDone (s : State) (own : Nat) : Bool := s.fab.reqs.all fun x => x.own ≠ own || x.done

/-! ## Unreachable frames (R325) -/

/-- A frame that cannot go on at a port: a request is answered UNREACH toward SRC, any other is dropped; both are counted. -/
def State.unreachable (s : State) (p : Nat) (f : Frame) : State :=
  let s := s.perr p Perr.unreach 1
  if classOf f.typ ≠ 0 then s
  else if f.src = s.me then s.answerPoison f.tag
  else (s.enqueue f.src f.swing f.swing f.prio (2048 + p) 1 [respFrame s.me f 2 false []]).1

/-- Release what a waiting frame holds at its input port. -/
def State.release (s : State) (x : QFrame) : State :=
  match x.inn with
  | some (p, vci, pool) => s.freeCredits p vci pool (frameCredits x.f.payload.length)
  | none => s

/-! ## Link states (Table 14.3, R308 to R310, R331) -/

/-- A running round has failed (R331). -/
def Mirror.fail (m : Mirror) : Mirror := if m.run then { m with run := false, done := false, dirty := true } else m

/-- T left UP: the running mirror rounds fail, those of saved contexts among them (R331). -/
def State.mirFail (s : State) (w : Nat) : State :=
  s.modWing w fun x => { x with
    job := { x.job with mir := x.job.mir.fail }
    ctxs := x.ctxs.map fun (y : Nat × Ctx) => (y.1, { y.2 with saved := { y.2.saved with mir := y.2.saved.mir.fail } }) }

/-- A port's state changes. -/
def State.portTo (s : State) (p st : Nat) : State :=
  let was := (s.port p).st
  let s := s.modPort p fun x => { x with
    st := st, trains := if (st = 1 ∨ st = 3) ∧ was ≠ st then sat 16 (x.trains + 1) else x.trains
    locked := if st = 2 then x.locked else false, goodRun := if st = 2 then x.goodRun else 0, badRun := if st = 2 then x.badRun else 0 }
  if p = 8 && was = 2 && st ≠ 2 then (upFrom 0 32).foldl (fun s w => s.mirFail w) s else s

/-- The frame came in by a port. -/
def QFrame.cameBy (y : QFrame) (p : Nat) : Bool := match y.inn with | some (q, _) => q = p | none => false

/-- acc of a queue that holds no request is 0 (R159). -/
def PortSt.keepAcc (x : PortSt) : PortSt := { x with acc := x.acc.filter fun z => x.txq.any fun t => t.q = z.1 }

/-- Link state is discarded (R309): replay buffer, CSEQ, credits, and the receive buffer's frames not yet forwarded or delivered. Each frame lost
is counted in UNREACH: those that end in a cell of the replay buffer or of the cell being filled, those that wait at another port's egress, those of records that wait at
the head of an input VC or are being joined, and those received that no row has taken. -/
def State.portForget (s : State) (p : Nat) : State :=
  let x := s.port p
  let inReplay := x.replay.foldl (fun (a : Nat) (c : Nat × Nat) => a + ((Tab.find x.bodies c.1).map (·.2)).getD 0) 0
  let waiting := s.ports.foldl (fun (a : Nat) (y : Nat × PortSt) => a + (y.2.txq.filter (QFrame.cameBy · p)).length) 0
  let heads := (s.fab.heads.filter fun y => y.2.port = p).foldl (fun (a : Nat) y => a + y.2.lens.length) 0
  let joined := x.joining.foldl (fun (a : Nat) (y : Nat × (Nat × RecIn)) => a + y.2.2.lens.length) 0
  let s := { s with
    ports := s.ports.map fun (y : Nat × PortSt) => (y.1, { y.2 with txq := y.2.txq.filter fun z => !z.cameBy p }.keepAcc)
    fab := { s.fab with heads := s.fab.heads.filter fun y => y.2.port ≠ p } }
  let s := s.modPort p fun y => { y with
    tail := [], tailEnds := 0, replay := [], bodies := [], nextSeq := 0, expect := 0, nak := none, items := [], used := [], heardFreed := [], freed := [], grant := []
    kept := false, joining := [], dropping := [], inRec := [], rx := [], rxFrames := [] }
  let lost := x.tailEnds + inReplay + waiting + heads + joined + x.rxFrames.length
  if lost = 0 then s else s.perr p Perr.unreach lost

/-- The frames that wait at a port which can no longer send them are unreachable (R309, R325). -/
def State.portFlush (s : State) (p : Nat) : State :=
  let x := s.port p
  let q := x.late ++ x.held ++ x.txq
  let s := s.modPort p fun x => { x with txq := [], held := [], late := [], acc := [] }
  q.foldl (fun s x => (s.release x).unreachable p x.f) s

/-- A port goes DOWN: its link state is discarded and the frames that wait for it are unreachable. -/
def State.portDown (s : State) (p : Nat) : State := ((s.portTo p 0).portForget p).portFlush p

/-- HAL_PORTn.EN takes a value (R308). -/
def State.portEnable (s : State) (p : Nat) (en : Bool) : State :=
  if en then (if (s.port p).st = 4 then s.portTo p 1 else s)
  else if (s.port p).st = 0 then s else s.portDown p

/-- RETRAIN restores the settings of the last completed adaptation of the port's lanes (R423). -/
def State.retune (s : State) (p : Nat) : State :=
  { s with svc := { s.svc with taps := match Tab.find s.svc.tapsDone p with
      | some x => Tab.set s.svc.taps p x
      | none => Tab.erase s.svc.taps p } }

/-- The link of a port drops under it: an UP port loses lock and enters RETRAIN. -/
def State.portDrop (s : State) (p : Nat) : State :=
  if (s.port p).st = 2 then ((s.portTo p 3).modPort p fun x => { x with kept := true }).retune p else s

/-- Every port DOWN at a device reset; TRAINS counts since cold reset stay. -/
def State.fabReset (s : State) : State :=
  { s with ports := s.ports.map fun (x : Nat × PortSt) => (x.1, { trains := x.2.trains }), fab := {} }

/-- The port is enabled and its unit is LIVE. -/
def State.portOn (s : State) (p : Nat) : Bool := (s.unit (unitKey 3 p)).hw = 0

/-- PORT_SIGNAL_DETECT. -/
def State.opSignal (s : State) (p : Nat) : State :=
  if (s.port p).st = 0 && s.portOn p && !s.board.pinsTaken then
    (s.portTo p 1).modPort p fun x => { x with kept := false, heard := false, keepHeard := false }
  else s

/-- A NEIGH item is consistent (R310); no check applies in a dimension of size 1 (R312). -/
def State.neighOk (s : State) (p num nport : Nat) : Bool :=
  if p = 8 then nport = 8
  else if s.hallDims.getD (p / 2) 1 = 1 then true
  else (num, nport) = s.expectNeigh p

/-- A DATA cell's 20-bit header (Table 14.1). -/
def cellHead (seq : Nat) : Nat := 2 ^ 18 + seq % 4096 * 2 ^ 6

/-- The cells of the replay buffer from a position on, as they are sent (Table 14.1). -/
def PortSt.again (x : PortSt) (i : Nat) : List CellOut :=
  (x.replay.drop i).map fun (c : Nat × Nat) => ⟨cellHead c.1, ((Tab.find x.bodies c.1).map (·.1)).getD [], false⟩

/-- A port that has codeword lock and a consistent NEIGH in TRAIN goes UP (R308, R309). -/
def State.portUpIf (s : State) (p : Nat) : State :=
  let x := s.port p
  if x.st = 1 && !s.board.pinsTaken && x.locked && x.heard && s.neighOk p x.neigh x.nport then
    let s := if x.kept && x.keepHeard then s else s.portForget p
    let s := s.modPort p fun y => { y with st := 2, kept := false }
    if x.kept && x.keepHeard then
      s.modPort p fun y => { y with
        replay := y.replay.map fun (c : Nat × Nat) => (c.1, c.2 + 1), cellsOut := y.again 0
        perr := Tab.set y.perr 0 (sat 16 (Tab.cnt y.perr 0 + y.replay.length)) }
    else s
  else s

/-- CODEWORD_LOCK: 64 good codewords in a row give lock in TRAIN or RETRAIN (R301, R308, R309). The row stands for the last of them. -/
def State.opLock (s : State) (p : Nat) : State :=
  let x := s.port p
  if s.board.pinsTaken then s
  else if x.st = 1 then (s.modPort p fun y => { y with locked := true, goodRun := 64, badRun := 0 }).portUpIf p
  else if x.st = 3 then
    s.modPort p fun y => { y with
      st := 2, locked := true, goodRun := 64, badRun := 0, kept := false, replay := y.replay.map fun (c : Nat × Nat) => (c.1, c.2 + 1)
      cellsOut := y.again 0, perr := Tab.set y.perr 0 (sat 16 (Tab.cnt y.perr 0 + y.replay.length)) }
  else s

/-- An UP port enters RETRAIN, keeping its link state (R308, R309). -/
def State.toRetrain (s : State) (p : Nat) : State :=
  if (s.port p).st = 2 then
    ((s.portTo p 3).modPort p fun x => { x with kept := true, replay := x.replay.map fun (c : Nat × Nat) => (c.1, min c.2 7) }).retune p
  else s

/-- TRAIN_TIMEOUT: 500 ms in TRAIN. -/
def State.opTrainTimeout (s : State) (p : Nat) : State := if (s.port p).st = 1 then s.portDown p else s

/-- RETRAIN_TIMEOUT: 1 ms in RETRAIN; the kept state goes into TRAIN (R309). -/
def State.opRetrainTimeout (s : State) (p : Nat) : State :=
  if (s.port p).st = 3 then (s.portTo p 1).modPort p fun x => { x with kept := true, heard := false } else s

/-- NEIGH (R310): kept, judged, and acted on. -/
def State.opNeigh (s : State) (p num nport : Nat) (keep : Bool) : State :=
  let x := s.port p
  if x.st = 0 || x.st = 3 || s.board.pinsTaken then s else
  let changed := x.neigh ≠ num || x.nport ≠ nport
  let s := s.modPort p fun y => { y with neigh := num, nport := nport, keepHeard := keep, heard := true }
  if x.st = 4 then (if changed then s.portTo p 1 else s)
  else if !s.neighOk p num nport then (s.portTo p 4).portFlush p
  else s.portUpIf p

/-! ## Cells (R300 to R303, R306, R307) -/

/-- Queue a control item; an item that replaces an older one of its kind removes it. -/
def PortSt.item (x : PortSt) (it : Nat) : PortSt := { x with items := (x.items.filter fun y => y / 2 ^ 124 ≠ it / 2 ^ 124) ++ [it] }

/-- Resend cells of the replay buffer from a position on (R303). -/
def State.resend (s : State) (p i : Nat) : State :=
  let x := s.port p
  let n := x.replay.length - i
  (s.modPort p fun y => { y with
    replay := y.replay.take i ++ (y.replay.drop i).map fun (c : Nat × Nat) => (c.1, c.2 + 1), cellsOut := y.again i }).perr p Perr.replays n

/-- The position of a CSEQ in the replay buffer. -/
def replayPos (r : List (Nat × Nat)) (c : Nat) : Option Nat := idxOf (r.map (·.1)) c

/-- ACK: frees covered cells. -/
def State.opAck (s : State) (p c : Nat) : State :=
  match replayPos (s.port p).replay c with
  | some i => s.modPort p fun y => { y with
      replay := y.replay.drop (i + 1), bodies := (y.replay.take (i + 1)).foldl (fun (t : Tab (List Byte × Nat)) (c : Nat × Nat) => Tab.erase t c.1) y.bodies }
  | none => s

/-- NAK: resends from the named CSEQ; the cells before it are received (R302). -/
def State.opNak (s : State) (p c : Nat) : State :=
  if (s.port p).st ≠ 2 then s else
  match replayPos (s.port p).replay c with
  | some i => s.resend p i
  | none => s

/-- REPLAY_TIMEOUT. -/
def State.opReplayTimeout (s : State) (p : Nat) : State :=
  if (s.port p).st = 2 && !(s.port p).replay.isEmpty then s.resend p 0 else s

/-- RETRY_LIMIT: a cell sent 8 times without an ACK. -/
def State.opRetryLimit (s : State) (p : Nat) : State :=
  if (s.port p).replay.any fun c => c.2 ≥ 8 then s.toRetrain p else s

/-- CODEWORD_LOCK_LOSS: 8 uncorrectable codewords in a row. -/
def State.opLockLoss (s : State) (p : Nat) : State :=
  if (s.port p).st = 2 then s.toRetrain p
  else if (s.port p).st = 1 then s.modPort p fun y => { y with locked := false, goodRun := 0 } else s

/-- CREDIT (R320): the pool gets the difference from the last count. -/
def State.opCredit (s : State) (p vci pool freed : Nat) : State :=
  if (s.port p).st ≠ 2 then s else
  s.modPort p fun x =>
    let k := vci * 64 + pool
    let d := (freed + 65536 - Tab.cnt x.heardFreed k) % 65536
    { x with heardFreed := Tab.set x.heardFreed k freed, used := Tab.set x.used k (Tab.cnt x.used k - d) }

/-- Frame bytes of an accepted DATA cell go to the port's stream; frames that are whole are read off it (R300, R315). -/
def PortSt.receive (x : PortSt) (body : List Byte) : PortSt :=
  let r := framesOf (x.rx.length + body.length) (x.rx ++ body)
  { x with rx := r.2, rxFrames := x.rxFrames ++ r.1 }

/-- The marker of a control item (Table 14.2). -/
def markerOf (it : Nat) : MarkerMsg := ⟨bits it 76 48, bits it 60 16, bits it 52 8, bits it 33 19, bits it 16 17, bits it 10 6, bits it 8 2⟩

/-- One control item of a CTRL cell (Table 14.2). A port that is not UP takes MARKER and NEIGH only (Table 14.3). -/
def State.ctrlItem (s : State) (p clk eighth it : Nat) : State :=
  match it / 2 ^ 124 with
  | 1 => s.opMarker p (markerOf it) clk eighth
  | 2 => if (s.port p).st = 2 then s.opAck p (bits it 0 12) else s
  | 3 => s.opNak p (bits it 0 12)
  | 4 => s.opCredit p (bits it 24 3) (bits it 16 6) (bits it 0 16)
  | 5 => s.opNeigh p (bits it 0 17) (bits it 17 4) (bit it 21)
  | _ => s

/-- One codeword, good or not: the runs of R301. Lock is gained at 64 good ones in TRAIN or RETRAIN and lost at 8 uncorrectable ones. -/
def State.codeword (s : State) (p : Nat) (unc : Bool) : State :=
  let s := s.modPort p fun y => { y with goodRun := if unc then 0 else min 64 (y.goodRun + 1), badRun := if unc then min 8 (y.badRun + 1) else 0 }
  let y := s.port p
  if y.badRun ≥ 8 then s.opLockLoss p
  else if !y.locked && y.goodRun ≥ 64 then s.opLock p
  else s

/-- The clk since a stamp of the present tread or the one before it, counted through a step’s gap (R32, R43); none for an older one, which is more
than a tread back. -/
def State.clkSince (s : State) (t c : Nat) : Option Nat :=
  if t = s.tread && c ≤ s.time.phase then some (s.time.phase - c)
  else if t = s.time.stepped.getD ((s.tread + treadMod - 1) % treadMod) then some (treadClk - c + s.time.gap + s.time.phase)
  else none

/-- A good cell at a port that takes cells: `typ` 1 DATA in order, or answered by a NAK; 2 CTRL with its items; R300 to R303, R306. -/
def State.takeCell (s : State) (p typ seq : Nat) (body : List Byte) (clk eighth : Nat) : State :=
  let x := s.port p
  if typ = 2 then
    (upFrom 0 (body.length / 16)).foldl (fun s i => s.ctrlItem p clk eighth (fieldN body (16 * i) 16)) s
  else if typ ≠ 1 ∨ x.st ≠ 2 then s
  else if seq = x.expect then
    s.modPort p fun y => { ((y.item (2 * 2 ^ 124 + seq)).receive body) with expect := (seq + 1) % 4096, nak := none }
  else
    -- one NAK per expected CSEQ for every 16 µs, which is 15,040 clk
    let again := match x.nak with
      | some (e, t, c) => e ≠ x.expect || (match s.clkSince t c with | some d => d ≥ 15040 | none => true)
      | none => true
    if again then s.modPort p fun y => { (y.item (3 * 2 ^ 124 + x.expect)) with nak := some (x.expect, s.tread, clk) } else s

/-- CELL_RECEIVE (R300 to R302, R306). `body` holds the frame bytes of a DATA cell or the items of a CTRL cell; `clk` and `eighth` are the phase
at which the first bit of its codeword arrives. DOWN takes nothing; TRAIN and RETRAIN look for lock, and TRAIN hears control items. -/
def State.opCell (s : State) (p : Nat) (unc : Bool) (h : Nat) (body : List Byte) (clk eighth : Nat) : State :=
  let st := (s.port p).st
  if st = 0 || s.board.pinsTaken then s else
  let s := (s.at_ clk).codeword p unc
  if st = 3 then (if unc then s.perr p Perr.fecunc 1 else s)
  else if unc then s.perr p Perr.fecunc 1
  else
    let typ := bits h 18 2
    if st = 1 ∧ typ ≠ 2 then s
    else if typ = 3 ∨ bits h 0 6 ≠ 0 then s.perr p Perr.badcell 1
    else s.takeCell p typ (bits h 6 12) body clk eighth

/-- CTRL_CELL_SEND: the pending items leave in a CTRL cell of 40 items (R306, R307). -/
def State.opCtrlCell (s : State) (p : Nat) : State :=
  let x := s.port p
  if x.st ≠ 2 || x.items.isEmpty then s
  else s.modPort p fun y => { y with ctrlOut := y.items.take 40, items := y.items.drop 40 }

/-- A marker as a control item (Table 14.2). -/
def markerItem (m : MarkerMsg) : Nat :=
  2 ^ 124 + m.tread % 2 ^ 48 * 2 ^ 76 + m.txPhase % 2 ^ 16 * 2 ^ 60 + m.echoTread % 256 * 2 ^ 52 + m.echoPhase % 2 ^ 19 * 2 ^ 33
    + m.root % 2 ^ 17 * 2 ^ 16 + m.hops % 64 * 2 ^ 10 + m.state % 4 * 2 ^ 8

/-! ## Sending frames (R159, R317, R319, R332, R344) -/

/-- DATA cells that the stream bytes not yet sent and `n` more take at most. -/
def PortSt.newCells (x : PortSt) (n : Nat) : Nat := (x.tail.length + n + 639) / 640

/-- A waiting frame may be sent: its pool holds its credits, its VC is not granted to another record, and the replay buffer has room. -/
def State.eligible (s : State) (p : Nat) (x : QFrame) : Bool :=
  let vci := 2 * classOf x.f.typ + x.f.vc
  let pt := s.port p
  let free := match Tab.find pt.grant vci with | some r => r = x.rid | none => true
  frameCredits x.f.payload.length ≤ s.poolFree p vci x.f.pool && free
    && pt.replay.length + pt.newCells (32 + x.f.payload.length) ≤ 256

/-- Frames of one flow keep their order (R322): the same class, source and destination. -/
def sameFlow (a b : Frame) : Bool :=
  classOf a.typ = classOf b.typ && a.src = b.src && a.swing = b.swing && a.dst = b.dst && a.dwing = b.dwing

/-- The waiting frames that stand first of their flow: one behind another of its flow waits (R322). -/
def firstOfFlow : List QFrame → List Frame → List QFrame
  | [], _ => []
  | x :: xs, seen => if seen.any (sameFlow x.f) then firstOfFlow xs seen else x :: firstOfFlow xs (x.f :: seen)

/-- The queue that R159 serves among those with an eligible frame, and the new acc values. -/
def serveQueue (wgt : Nat → Nat) (act : List Nat) (acc : Tab Int) : Option Nat × Tab Int :=
  let acc := acc.filter fun x => act.contains x.1
  let pos := act.filter fun q => wgt q > 0
  if pos.isEmpty then (act.foldl (fun b q => match b with | some x => some (max x q) | none => some q) none, acc)
  else
    let total := pos.foldl (fun a q => a + wgt q) 0
    let acc := pos.foldl (fun t q => Tab.set t q ((Tab.find t q).getD 0 + (wgt q : Int))) acc
    let best := pos.foldl (fun (b : Option Nat) q => match b with
      | some x => if (Tab.find acc q).getD 0 > (Tab.find acc x).getD 0 ∨ ((Tab.find acc q).getD 0 = (Tab.find acc x).getD 0 ∧ q > x) then some q else some x
      | none => some q) none
    match best with
    | some q => (some q, Tab.set acc q ((Tab.find acc q).getD 0 - (total : Int)))
    | none => (none, acc)

/-- A wing’s requesters at an egress point, in order (R344): its cores by rank, its channels, its raw requests and mirroring, and the ports, whose
frames carry its number. -/
def State.requesters (s : State) (w : Nat) : List Nat :=
  upFrom 0 (s.coreSet w).length ++ (s.chanSet w).map (1024 + ·) ++ [2046, 2047] ++ (upFrom 0 9).map (2048 + ·)

/-- The earliest frame of the winning wing and requester (R344): each nearest after its pointer, a wing’s own pointer running over its requesters. -/
def chooseFrame (reqs : Nat → List Nat) (ptr : Nat) (fs : List QFrame) : Option QFrame :=
  let key (x : QFrame) : Nat :=
    let l := reqs x.wing
    ((x.wing + 32 - ptr % 32) % 32) * 4096 + ((idxOf l x.num).getD 0 + l.length - ptr % l.length) % l.length
  fs.foldl (fun (b : Option QFrame) x => match b with | some y => if key x < key y then some x else some y | none => some x) none

/-- Write a frame's bytes into the stream of DATA cells (R300): each cell whose body is full leaves with the next CSEQ and one transmission, and so does,
filled up with 0, the last one when nothing more is to come (`flush`, log entry 80). -/
def PortSt.cells (x : PortSt) (bs : List Byte) (flush : Bool) : PortSt :=
  let all := x.tail ++ bs
  let k := if flush then (all.length + 639) / 640 else all.length / 640
  let seqs := (upFrom 0 k).map fun i => (x.nextSeq + i) % 4096
  let new := b2n (!bs.isEmpty)
  let endCell := (all.length - 1) / 640
  let bodies := ((upFrom 0 k).zip seqs).foldl (fun (t : Tab (List Byte × Nat)) (y : Nat × Nat) =>
    let b := (all.drop (640 * y.1)).take 640
    Tab.set t y.2 (b ++ List.replicate (640 - b.length) 0, (if y.1 = 0 then x.tailEnds else 0) + if y.1 = endCell then new else 0)) x.bodies
  let y := { x with
    bodies := bodies, replay := x.replay ++ seqs.map fun c => (c, 1), nextSeq := (x.nextSeq + k) % 4096, tail := all.drop (640 * k)
    tailEnds := (if k = 0 then x.tailEnds else 0) + if endCell < k then 0 else new }
  { y with cellsOut := y.again x.replay.length }

/-- Count an eligible unit of an injection mode; true when it is acted on (R332). -/
def State.inject (s : State) (p : Nat) (mode : Nat) : Bool × State :=
  let r := s.pf (Reg.halInj + 8 * p)
  if bits r 32 3 ≠ mode then (false, s)
  else
    let n := (s.port p).injSeen + 1
    let hit := n % (bits r 16 16 + 1) = 0 && (s.port p).injLeft > 0
    (hit, s.modPort p fun x => { x with injSeen := n, injLeft := if hit then x.injLeft - 1 else x.injLeft })

/-- Stream bytes leave in DATA cells. On its first transmission a cell may by injection not be sent, or leave in an uncorrectable codeword
(Table 14.10); the replay buffer holds it all the same. -/
def State.sendCells (s : State) (p : Nat) (bs : List Byte) (flush : Bool) : State :=
  let s := s.modPort p fun x => x.cells bs flush
  let r := (s.port p).cellsOut.foldl (fun (a : List CellOut × State) (c : CellOut) =>
    let (drop, t) := a.2.inject p 4
    let (bad, t) := t.inject p 5
    (if drop then a.1 else a.1 ++ [{ c with bad := bad }], t)) ([], s)
  r.2.modPort p fun x => { x with cellsOut := r.1 }

/-- The waiting frames that may be sent, each first of its flow (R322). -/
def State.sendable (s : State) (p : Nat) : List QFrame := (firstOfFlow (s.port p).txq []).filter fun y => s.eligible p y

/-- A chosen frame’s bytes enter the stream; the cell it ends in waits for more only while another frame may be sent. -/
def State.sendFrame (s : State) (p : Nat) (f : Frame) : State :=
  let s := s.modPort p fun x => { x with out := [f] }
  s.sendCells p (frameStream f) ((s.sendable p).isEmpty && (s.port p).late.isEmpty)

/-- FRAME_TRANSMIT: one eligible frame leaves the port; of one flow only the earliest may (R322). The credits and the queue's turn are taken as
the frame is chosen. A frame that REORDER holds back goes with the row behind the one that sends the next such frame of its VC. -/
def State.opTransmit (s : State) (p : Nat) : State :=
  let x := s.port p
  if x.st ≠ 2 then s else
  match x.late with
  | y :: rest =>
    if x.replay.length + x.newCells (32 + y.f.payload.length) ≤ 256 then (s.modPort p fun x => { x with late := rest }).sendFrame p y.f else s
  | [] =>
  let cand := s.sendable p
  let act := (cand.map (·.q)).eraseDups
  let (q, acc) := serveQueue (fun q => bits (s.pf Reg.dmaQwgt) (4 * q) 4) act x.acc
  match q.bind fun q => chooseFrame s.requesters s.fab.ptr (cand.filter fun y => y.q = q) with
  | none => s
  | some y =>
    let f := y.f
    let vci := 2 * classOf f.typ + f.vc
    let n := frameCredits f.payload.length
    let rest := x.txq.erase y
    let s := s.modPort p fun x => { x with
      acc := acc.filter fun z => rest.any fun t => t.q = z.1
      txq := rest, out := [f]
      grant := if f.last then Tab.erase x.grant vci else Tab.set x.grant vci y.rid
      used := Tab.bump x.used (vci * 64 + f.pool) n }
    let s := s.release y
    let s := s.charge (if f.pool < 32 then some f.swing else none) Acf.fabTx (32 + f.payload.length)
    let (drop, s) := s.inject p 1
    if drop then
      s.modPort p fun x => { x with out := [], used := Tab.set x.used (vci * 64 + f.pool) (Tab.cnt x.used (vci * 64 + f.pool) - n) }
    else
      let (bad, s) := if f.payload.isEmpty then (false, s) else s.inject p 2
      let (fv, s) := s.free
      let f := if bad then
          let i := fv % (8 * f.payload.length)
          { f with payload := setIdx f.payload (i / 8) ((f.payload.getD (i / 8) 0) ^^^ BitVec.ofNat 8 (2 ^ (i % 8))) }
        else f
      let (swap, s) := if f.first && f.last then s.inject p 3 else (false, s)
      if swap then s.modPort p fun x => { x with out := [], held := { y with f := f } :: x.held }
      else
        let back (h : QFrame) : Bool := f.first && f.last && h.f.vc = f.vc && classOf h.f.typ = classOf f.typ
        (s.modPort p fun x => { x with late := x.held.filter back, held := x.held.filter fun h => !back h }).sendFrame p f

/-- The marker cells and NEIGH items of a tread (R36, R307, R310): a marker cell carries the pending items behind the marker; NEIGH is sent in
TRAIN, UP and MISWIRED. A cell part full leaves (log entry 80). Pointers advance (R344). -/
def State.fabBoundary (s : State) : State :=
  let s := (upFrom 0 9).foldl (fun s p =>
    let x := s.port p
    if x.st = 0 || x.st = 3 then s
    else
      let neigh := 5 * 2 ^ 124 + b2n x.kept * 2 ^ 21 + p * 2 ^ 17 + s.me
      let items := (x.item neigh).items
      match Tab.find s.time.sent p with
      | some m =>
        let now := if x.st = 4 then items.filter fun y => y / 2 ^ 124 = 5 else items
        s.modPort p fun y => { y with ctrlOut := markerItem m :: now.take 39, items := if x.st = 4 then [] else now.drop 39 }
      | none => s.modPort p fun y => { y with ctrlOut := [neigh], items := x.items }) s
  let s := s.ports.foldl (fun (s : State) (x : Nat × PortSt) => if x.2.st = 2 && !x.2.tail.isEmpty then s.sendCells x.1 [] true else s) s
  { s with fab := { s.fab with ptr := s.fab.ptr + 1 } }

/-! ## Receiving frames (R313, R316, R317, R324, R325) -/

/-- The delta-record header of a frame's payload has CODING 3 (Table 13.4). -/
def frameCoding3 (f : Frame) : Bool := f.first && bits (fieldN f.payload 16 4) 22 2 = 3

/-- A frame is malformed (R316). A MIRROR frame carries ADDR and EPOCH unless its record has CODING 3. -/
def State.malformed (s : State) (f : Frame) : Bool :=
  let mir := f.typ = 7 && !frameCoding3 f
  f.typ ≥ 9 || f.lenw > 512 || f.rsv || (classOf f.typ ≠ 1 && f.status ≠ 0)
    || (f.addr ≠ 0 && !(f.typ = 0 || f.typ = 2 || f.typ = 8 || mir)) || (f.epoch ≠ 0 && !(f.typ = 8 || mir))
    || (f.rlen ≠ 0 && !(f.typ = 0 || f.typ = 8)) || f.dst ≥ s.hallCount

/-- A frame's bytes on the wire. -/
def frameBytes (f : Frame) : Nat := 32 + f.payload.length

/-- VC index of a frame on the hop on which it came. -/
def frameVci (f : Frame) : Nat := 2 * classOf f.typ + f.vc % 2

/-- A frame leaves the receive buffer of the port on which it came. -/
def State.freeFrame (s : State) (p : Nat) (f : Frame) : State := s.freeCredits p (frameVci f) (f.pool % 64) (frameCredits f.payload.length)

/-- A malformed frame: dropped, counted, and a request answered BADREQ when its SRC is within the hall. -/
def State.dropMalformed (s : State) (p : Nat) (f : Frame) : State :=
  let s := (s.perr p Perr.malformed 1).freeFrame p f
  if classOf f.typ = 0 && f.src < s.hallCount then (s.enqueue f.src f.swing f.swing f.prio (2048 + p) 1 [respFrame s.me f 3 false []]).1 else s

/-- A row takes a frame out of those that the port received in cells, if it is among them. -/
def State.takeFrame (s : State) (p : Nat) (f : Frame) : State :=
  if (s.port p).rxFrames.contains f then s.modPort p fun x => { x with rxFrames := x.rxFrames.erase f } else s

/-- The source of a frame's record, by which frames of two records on one VC are told apart. -/
def frameOrigin (f : Frame) : List Nat := [f.typ, f.src, f.swing, f.dwing]

/-- A transit frame waits at its egress (R313, R317): frames of one record share its number. -/
def State.transit (s : State) (p : Nat) (f : Frame) : State :=
  match (if s.inHall then s.route f.dst (some (p, f.vc)) else none) with
  | none => (s.unreachable p f).freeFrame p f
  | some (q, vc) =>
    if !s.portOpen q then (s.unreachable q f).freeFrame p f
    else
      let rid := if f.first then s.fab.nextRid else (Tab.find (s.port p).inRec (frameVci f)).getD s.fab.nextRid
      let s := { s with fab := { s.fab with nextRid := s.fab.nextRid + 1 } }
      let s := s.modPort p fun x => { x with inRec := if f.last then Tab.erase x.inRec (frameVci f) else Tab.set x.inRec (frameVci f) rid }
      s.modPort q fun x => { x with txq := x.txq ++ [⟨{ f with vc := vc, pool := 32 }, f.prio, f.swing, 2048 + p, rid, some (p, (frameVci f), f.pool % 64)⟩] }

/-- A frame of a message record for this module (R317): the receiver joins the frames of a record, and `deliver` handles the record with its
last frame. A first frame that comes while another record is joined on its port and VC is dropped and counted, and so is the rest of its
record; so is a frame that continues no record. -/
def State.joinFrame (s : State) (deliver : State → Nat → RecIn → State) (p : Nat) (f : Frame) : State :=
  let x := s.port p
  let k := (frameVci f)
  let drop (s : State) : State := (s.perr p Perr.malformed 1).freeFrame p f
  let mark (s : State) (o : List Nat) : State := s.modPort p fun x => { x with dropping := if f.last then Tab.erase x.dropping k else Tab.set x.dropping k o }
  if !f.first && Tab.find x.dropping k = some (frameOrigin f) then mark (drop s) (frameOrigin f)
  else match Tab.find x.joining k with
    | none =>
      if !f.first then drop s
      else
        let r : RecIn := ⟨p, f.src, f.swing, f.dwing, f.pzn, f.addr, f.epoch, f.payload, f.vc % 2, f.pool % 64, [f.payload.length], none⟩
        if f.last then deliver s f.typ r else s.modPort p fun x => { x with joining := Tab.set x.joining k (f.typ, r) }
    | some (typ, r) =>
      if f.first then mark (drop s) (frameOrigin f)
      else if (frameOrigin f) ≠ [typ, r.src, r.swing, r.dwing] then drop s
      else
        let r := { r with pzn := r.pzn || f.pzn, bytes := r.bytes ++ f.payload, lens := r.lens ++ [f.payload.length] }
        if f.last then deliver (s.modPort p fun x => { x with joining := Tab.erase x.joining k }) typ r
        else s.modPort p fun x => { x with joining := Tab.set x.joining k (typ, r) }

/-- The kind under which a frame on its way to another module stands behind a record at the head of its input VC, whole in `bytes`. -/
abbrev transitKind : Nat := 16

/-- FRAME_FORWARD: a frame comes in on an UP port. Dropped if its header reads uncorrectable or it is malformed (R316); poisoned if its payload reads
uncorrectable; sent on in dimension order if it is not for this module (R313), else delivered: a request or response by `serve`, a message
record by `deliver` when it is whole. A message that goes on waits behind a record that stands at the head of its input VC (R321). T carries MIRROR only, with no routing (R327). -/
def State.opForward (s : State) (serve : State → Nat → Frame → State) (deliver : State → Nat → RecIn → State) (p : Nat) (f : Frame)
    (headerBad payloadBad : Bool) : State :=
  if (s.port p).st ≠ 2 then s
  else
    let s := s.takeFrame p f
    let f := if payloadBad then { f with pzn := true } else f
    if headerBad then (s.perr p Perr.malformed 1).freeFrame p f
    else if s.malformed f || (p = 8 && f.typ ≠ 7) then s.dropMalformed p f
    else if p ≠ 8 && f.dst ≠ s.me then
      if classOf f.typ = 2 && s.fab.heads.any (fun (x : Nat × RecIn) => x.2.port = p && x.2.vc = f.vc % 2) then
        { s with fab := { s.fab with heads := s.fab.heads ++ [(transitKind,
            ⟨p, f.src, f.swing, f.dwing, f.pzn, 0, 0, frameHead f ++ f.payload, f.vc % 2, f.pool % 64, [f.payload.length], none⟩)] } }
      else s.transit p f
    else if classOf f.typ = 2 then s.joinFrame deliver p f
    else serve s p f

/-- A whole record leaves the receive buffer: the credits of its frames are freed (R317, R320). -/
def State.recordGone (s : State) (r : RecIn) : State :=
  s.freeCredits r.port (4 + r.vc) r.pool (r.lens.foldl (fun a n => a + frameCredits n) 0)

/-- Charge the arrival of a record to its destination wing. -/
def State.chargeRecord (s : State) (r : RecIn) : State :=
  s.charge (some r.dwing) Acf.fabRx (r.bytes.length + 32 * r.lens.length)

/-- The response to a request leaves through the requesting wing's pool, or UNREACH when it cannot hold it (R348). -/
def State.respond (s : State) (p : Nat) (f : Frame) (status : Nat) (data : List PByte) : State :=
  let r := respFrame s.me f status (data.any (·.2)) (data.map (·.1))
  let fits : Bool := match s.route f.src none with
    | some (q, vc) => decide (frameCredits data.length ≤ s.wingPool q (2 + vc) f.swing)
    | none => true
  let r := if fits then r else respFrame s.me f 2 false []
  (s.enqueue f.src f.dwing f.swing f.prio (2048 + p) 1 [r]).1

/-- A frame delivered here leaves the receive buffer and is charged. -/
def State.delivered (s : State) (p : Nat) (f : Frame) : State :=
  (s.freeFrame p f).charge (some f.dwing) Acf.fabRx (frameBytes f)

/-- A request or response frame for this module, of a type, at an UP hall port: malformed ones are dropped (R316). T brings none (R27, R327). -/
def State.reqRow (s : State) (p : Nat) (f : Frame) (clk typ : Nat) (serve : State → State) : State :=
  if p = 8 || (s.port p).st ≠ 2 || f.typ ≠ typ || f.dst ≠ s.me then s
  else
    let s := (s.takeFrame p f).at_ clk
    if s.malformed f then s.dropMalformed p f else serve (s.delivered p f)

/-- RDREQ (R324). -/
def State.opRdreq (s : State) (p : Nat) (f : Frame) (clk : Nat) : State :=
  s.reqRow p f clk 0 fun s =>
    let w := f.dwing
    if s.mappedIn w (s.bankNow w) [1, 2] f.addr f.rlen then
      let (d, s) := s.read (s.reqOf w) f.addr f.rlen
      s.respond p f 0 d
    else (s.refuse w f.addr false).respond p f 1 []

/-- WRREQ (R324); a write into bytes that are read-only to the wing is refused as well (R49). -/
def State.opWrreq (s : State) (bar : State → Nat → Nat → Nat → Bool) (p : Nat) (f : Frame) (clk : Nat) : State :=
  s.reqRow p f clk 2 fun s =>
    let w := f.dwing
    let n := f.payload.length
    if s.mappedIn w (s.bankNow w) [1, 2] f.addr n && !bar s w f.addr n then
      (s.write (s.reqOf w) f.addr (f.payload.map fun b => (b, f.pzn))).respond p f 0 []
    else (s.refuse w f.addr false).respond p f 1 []

/-- The window of a request is over (R326, R34): RTO whole treads from the tread boundary at or next after its issue (R11, log entry 81); RTO 0 acts
as 1. -/
def State.reqLate (s : State) (r : RemReq) : Bool :=
  treadReached (treadAdd r.tread (max 1 (bits (s.pf Reg.halRto) 0 16) + if r.clk = 0 then 0 else 1)) s.tread

/-- A request's time is over: poisoned data, counted in TIMEOUTS of its first-hop port. `raw` settles raw results. -/
def State.reqTimeout (s : State) (r : RemReq) (raw : State → RemReq → State) : State := raw ((s.answerPoison r.tag).perr r.port Perr.timeouts 1) r

/-- RDRSP and WRRSP: the answer of an outstanding request (R324); one that comes after its time finds the request timed out, is discarded and
counted in LATERSP (R326). -/
def State.opResponse (s : State) (p : Nat) (f : Frame) (clk typ : Nat) (raw : State → RemReq → State) : State :=
  s.reqRow p f clk typ fun s =>
    match s.fab.reqs.find? fun x => x.tag = f.tag && !x.done && x.write = (typ = 3) with
    | none => s.perr p Perr.latersp 1
    | some r =>
      if s.reqLate r then (s.reqTimeout r raw).perr p Perr.latersp 1
      else
        let s := if f.status = 0 then
            s.answer f.tag false (if r.write then [] else (f.payload.take r.len).map (fun b => (b, f.pzn)) ++ List.replicate (r.len - f.payload.length) (0, true))
          else if f.status = 1 then s.answer f.tag true []
          else s.answerPoison f.tag
        raw s r

/-- REQUEST_TIMEOUT (R326), at a clk of the present tread. -/
def State.opReqTimeout (s : State) (tag clk : Nat) (raw : State → RemReq → State) : State :=
  let t := s.at_ clk
  match t.fab.reqs.find? fun x => x.tag = tag && !x.done with
  | none => s
  | some r => if t.reqLate r then t.reqTimeout r raw else s

/-! ## Wings (R349, R357) -/

/-- Frames of a wing that are queued and not sent are discarded; a VC granted to one of their records is free again, and the credits of a frame
held back by REORDER return. -/
def State.fabDropWing (s : State) (w : Nat) : State :=
  { s with ports := s.ports.map fun (x : Nat × PortSt) =>
      let mine (y : QFrame) : Bool := y.inn.isNone && y.wing = w
      let gone := (x.2.txq.filter mine).map (·.rid)
      let vci (y : QFrame) : Nat := (2 * classOf y.f.typ + y.f.vc) * 64 + y.f.pool
      (x.1, { x.2 with
        txq := x.2.txq.filter fun y => !mine y
        grant := x.2.grant.filter fun (g : Nat × Nat) => !gone.contains g.2
        used := ((x.2.held ++ x.2.late).filter mine).foldl (fun (u : Tab Nat) y =>
          Tab.set u (vci y) (Tab.cnt u (vci y) - frameCredits y.f.payload.length)) x.2.used
        held := x.2.held.filter fun y => !mine y
        late := x.2.late.filter fun y => !mine y }.keepAcc) }

/-- No remote request of the wing is outstanding. -/
def State.fabIdle (s : State) (w : Nat) : Bool := s.fab.reqs.all fun x => x.wing ≠ w || x.done

/-- The wing's requests are abandoned: later responses find none and count in LATERSP. -/
def State.fabAbandon (s : State) (w : Nat) : State := { s with fab := { s.fab with reqs := s.fab.reqs.filter fun x => x.wing ≠ w } }

end Sys2Proof.Machine
end

