-- ==== Sys2Proof/Machine/Keccak.lean ====
section
/-!
DEFINITION. SHAKE256, the hash of spec/17_trust.md (R386, R403). PRESUMED: the function is that of FIPS 202, which the spec names
and does not restate (log entry 11).
-/
namespace Sys2Proof.Machine

/-- Left rotation of a 64-bit lane. -/
def rotl64 (x n : Nat) : Nat := if n = 0 then x else (x * 2 ^ n + x / 2 ^ (64 - n)) % 2 ^ 64

/-- Rotation offsets of step ρ by lane x + 5y. -/
def keccakRot : List Nat :=
  [0, 1, 62, 28, 27, 36, 44, 6, 55, 20, 3, 10, 43, 25, 39, 41, 45, 15, 21, 8, 18, 2, 61, 56, 14]

/-- One bit of the round-constant LFSR x^8 + x^6 + x^5 + x^4 + 1 and its next state. -/
def keccakLfsr (r : Nat) : Nat := let y := 2 * r; if y ≥ 256 then Nat.xor (y % 256) 0x71 else y

/-- The round constant and the LFSR state after it: bit 2^j - 1 takes the j-th output bit, j = 0 to 6. -/
def keccakRC (r : Nat) : Nat × Nat :=
  (upFrom 0 7).foldl (fun (acc : Nat × Nat) j => (if acc.2 % 2 = 1 then acc.1 + 2 ^ (2 ^ j - 1) else acc.1, keccakLfsr acc.2)) (0, r)

/-- One round on 25 lanes. -/
def keccakRound (a : List Nat) (rc : Nat) : List Nat :=
  let g (l : List Nat) (i : Nat) : Nat := l.getD i 0
  let c := (upFrom 0 5).map fun x => (upFrom 0 5).foldl (fun acc y => Nat.xor acc (g a (x + 5 * y))) 0
  let d := (upFrom 0 5).map fun x => Nat.xor (g c ((x + 4) % 5)) (rotl64 (g c ((x + 1) % 5)) 1)
  let t := (upFrom 0 25).map fun i => Nat.xor (g a i) (g d (i % 5))
  -- lane (x, y) moves to (y, 2x + 3y), rotated; read here from the destination (X, Y): x = X + 3Y, y = X
  let b := (upFrom 0 25).map fun i =>
    let y := i % 5
    let x := (i % 5 + 3 * (i / 5)) % 5
    rotl64 (g t (x + 5 * y)) (g keccakRot (x + 5 * y))
  (upFrom 0 25).map fun i =>
    let x := i % 5
    let y := i / 5
    let v := Nat.xor (g b i) (Nat.xor (g b ((x + 1) % 5 + 5 * y)) (2 ^ 64 - 1) &&& g b ((x + 2) % 5 + 5 * y))
    if i = 0 then Nat.xor v rc else v

/-- The rounds of Keccak-f[1600]. -/
def keccakF : Nat → Nat → List Nat → List Nat
  | 0, _, a => a
  | n + 1, r, a => let (rc, r') := keccakRC r; keccakF n r' (keccakRound a rc)

/-- The 8-byte lanes of a run of bytes. -/
def lanesOf (bs : List Byte) (n : Nat) : List Nat := (upFrom 0 n).map fun i => fieldN bs (8 * i) 8

/-- Absorb blocks of 136 bytes. -/
def absorb : Nat → List Nat → List Byte → List Nat
  | 0, a, _ => a
  | n + 1, a, bs =>
    let l := lanesOf bs 17
    absorb n (keccakF 24 1 ((upFrom 0 25).map fun i => if i < 17 then Nat.xor (a.getD i 0) (l.getD i 0) else a.getD i 0)) (bs.drop 136)

/-- SHAKE256 with an output of `out` bytes, at most 136. -/
def shake256 (out : Nat) (msg : List Byte) : List Byte :=
  let pad := 136 - msg.length % 136
  let tail : List Byte := if pad = 1 then [0x9F] else 0x1F :: List.replicate (pad - 2) 0 ++ [0x80]
  let m := msg ++ tail
  ((absorb (m.length / 136) (List.replicate 25 0) m).flatMap (leBytes 8)).take out

end Sys2Proof.Machine
end

