-- ==== Sys2Proof/Machine/Log.lean ====
section
/-!
DEFINITION. The event log of spec/17_trust.md (R403, R404): entries, CHAIN and the log queue.
-/
namespace Sys2Proof.Machine

/-- CHAIN as 64 bytes. -/
def Trust.chainBytes (t : Trust) : List Byte := if t.chain.isEmpty then List.replicate 64 0 else t.chain

/-- Bytes of a log entry (Table 17.5). -/
def logBytes (seq kind : Nat) (wing : Option Nat) (items stamp : Nat) (body : List Byte) : List Byte :=
  leBytes 4 seq ++ leBytes 4 (kind * 2 ^ 28 + wing.getD 0 * 2 ^ 23 + b2n wing.isSome * 2 ^ 22 + items) ++ leBytes 8 stamp ++ sliceB body 0 48

/-- Form a log entry: it takes the next SEQ, extends CHAIN and enters the queue (R403, R404). A full queue moves its oldest entry on to
the log. -/
def State.logEntry (s : State) (kind : Nat) (wing : Option Nat) (items : Nat) (body : List Byte) : State :=
  let t := s.trust
  let e := logBytes t.seq kind wing items s.stamp body
  let store (t : Trust) : Trust := match t.logq with
    | [] => t
    | x :: rest => if t.log.length < 4194304 then { t with logq := rest, log := t.log ++ [x] } else { t with logq := rest, full := true }
  let t := if t.logq.length ≥ 4096 then store t else t
  { s with trust := { t with seq := (t.seq + 1) % 2 ^ 32, chain := shake256 64 (t.chainBytes ++ e), logq := t.logq ++ [e]
                             full := t.full || t.seq ≥ 4194304 } }

/-- LOGOUT: `n` entries move from the queue to flash, while the newel runs (R404, R381). -/
def State.opLogout (s : State) (n : Nat) : State :=
  if !s.newel.running then s else
  let k := min n s.trust.logq.length
  let room := 4194304 - s.trust.log.length
  { s with trust := { s.trust with logq := s.trust.logq.drop k, log := s.trust.log ++ (s.trust.logq.take k).take room
                                   full := s.trust.full || k > room } }

/-- One changed word of a protection landing (R403): block, wing, per-wing flag, register offset, word and new value. -/
structure ProtItem where
  block : Nat
  wing : Option Nat
  off : Nat
  word : Nat
  value : Nat
deriving DecidableEq, Repr

def ProtItem.bytes (p : ProtItem) : List Byte :=
  leBytes 4 (p.block * 2 ^ 28 + p.wing.getD 0 * 2 ^ 23 + b2n p.wing.isSome * 2 ^ 22 + p.off % 65536) ++ leBytes 4 p.word ++ leBytes 8 p.value

/-- The entries of a protection landing: one PROT entry and CONT entries of three items each (Table 17.6). -/
def State.logProt : Nat → Nat → State → List ProtItem → State
  | 0, _, s, _ => s
  | n + 1, kind, s, items =>
    match items with
    | [] => s
    | _ => State.logProt n 2 (s.logEntry kind none (min 3 items.length) ((items.take 3).flatMap (·.bytes))) (items.drop 3)

/-- Entries that a landing of `n` items takes. -/
def protEntries (n : Nat) : Nat := (n + 2) / 3

end Sys2Proof.Machine
end

