-- ==== Sys2Proof/Machine/Wings.lean ====
section
/-!
DEFINITION. Wings: the protection landing of action 2, unit intents, wing and device resets of action 3, quiesce, contexts and
semaphores (spec/15_wings.md, spec/16 R374, R375, R380, R384, spec/21 R466 to R468).
-/
namespace Sys2Proof.Machine

/-! ## DMA channels taken away or drained (R169) -/

/-- Owner unit of a channel's remote requests. -/
def chanUnit (c : Nat) : Nat := 2 ^ 20 + c

/-- Cancel channels: registers return to reset values, reads in flight are discarded, nothing more is written (R169). -/
def State.cancelChans (s : State) (cs : List Nat) : State :=
  cs.foldl (fun s c => s.orphanReqs (chanUnit c)) { s with chans := cs.foldl (fun t c => Tab.erase t c) s.chans }

/-- Drain channels as for EN = 0 (R169): no further descriptor is read. -/
def State.drainChans (s : State) (cs : List Nat) : State :=
  { s with chans := cs.foldl (fun t c => match Tab.find t c with
      | some x => Tab.set t c { x with ctrl := x.ctrl - x.ctrl % 2, drain := !x.idle }
      | none => t) s.chans }

def State.chan (s : State) (c : Nat) : Chan := (Tab.find s.chans c).getD {}

/-- Every channel of the wing is idle (R349). -/
def State.chansIdle (s : State) (w : Nat) : Bool := (s.chanSet w).all fun c => (s.chan c).idle

/-! ## Wing reset (R357, R86, R384) -/

/-- The effects of a wing reset at action 3. `pre`: what it does to the wing's memory before its windows' owner is gone: issued writes land (R86)
and the adapter and prefix tables are emptied (R229). `flr`: it came from FLR, so the VF's configuration is reset too. -/
def State.wingReset (s : State) (pre : State → Nat → State) (w : Nat) (flr : Bool) : State :=
  let s := pre s w
  -- commands end before the reset's boundary (R384); the requests of this reset complete with OK
  let own (c : Cmd) : Bool := c.op = 0x601 && c.wing = w && s.isDue c
  let s := s.asEnded fun s => s.abortWing w own (fun c => opScoped c.op)
  let cs := s.coreSet w
  let s := s.cancelChans (s.chanSet w)
  let s := ((s.fabDropWing w).fabAbandon w).dropRuns w
  let s := { s with ended := s.ended.filter fun e => e.wing ≠ w }
  let s := cs.foldl (fun s c => s.modCore c fun x => { x with half := 0, gHalf := 0, quarter := false, gUser := none, zeroAll := true }) s
  let s := { s with cores := s.cores.map fun (x : Nat × Core) =>
    if x.2.gUser = some w then (x.1, { x.2 with gUser := none, gHalf := 0, zeroQuarter := true }) else x }
  -- a record not written yet has no place left: WNG_CREC_BASE is reset (R86, log entry 77)
  let s := { s with crecs := s.crecs.filter fun c => c.wing ≠ w }
  let s := s.modWing w fun x => { x with
    job := {}, guests := [], guestNext := [], ctxReg := 0, ctxSave := 0, active := 0, ctxs := [], sems := [], waits := [], ctxEvent := false,
    quiet := false, load := {} }
  let s := s.modFn (w + 1) fun (f : FnSt) =>
    if flr then {} else { tbl := f.tbl.map fun (x : Nat × Nat) => if x.1 % 4 = 3 then (x.1, x.2 ||| 1) else x, msixEn := f.msixEn, fnMask := f.fnMask }
  -- with the MBX registers reset, no completion of the VF waits for a restart of the newel any longer (R384, log entry 77)
  let s := { s with newel := { s.newel with due := s.newel.due.filter fun c => c.cmd.fn ≠ w + 1 } }
  ((s.outOf 0x601 w).filter s.isDue).foldl (fun s c => s.finish c St.ok []) s

/-! ## The protection landing (R335, R336, R337, R404) -/

/-- A wing's candidate registers enable it. -/
def enOf (r : Tab Nat) : Bool := bit (Tab.cnt r Reg.wngProt) 15

/-- The byte range of a window register, if it is a window. -/
def winRange (v : Nat) : Option (Nat × Nat) :=
  let k := bits v 62 2
  if (k = 1 ∨ k = 2) ∧ bits v 0 27 ≠ 0 then some (bits v 32 27, bits v 0 27) else none

/-- What two wings may claim at once: a core or channel by its register and bit, or a MiB of a window. -/
inductive ClaimItem
  | bitAt (off b : Nat)
  | mib (m : Nat)
deriving DecidableEq, Repr

/-- A claim of two enabled wings on one item: the register of each, and the item. -/
def firstClash (a b : Tab Nat) : Option (Nat × Nat × ClaimItem) :=
  if !enOf a || !enOf b then none else
  let word (base n : Nat) : Option (Nat × Nat × ClaimItem) :=
    ((upFrom 0 n).findSome? fun i => (upFrom 0 32).find? (fun j => bit (Tab.cnt a (base + 4 * i) &&& Tab.cnt b (base + 4 * i)) j) |>.map fun j =>
      (base + 4 * i, base + 4 * i, .bitAt (base + 4 * i) j))
  match word Reg.wngCores 25 with
  | some x => some x
  | none => match word Reg.wngDmaset 8 with
    | some x => some x
    | none =>
      let pairs := (upFrom 0 8).flatMap fun i => (upFrom 0 8).map fun j => (i, j)
      pairs.findSome? fun p =>
        match winRange (Tab.cnt a (Reg.wngWin + 8 * p.1)), winRange (Tab.cnt b (Reg.wngWin + 8 * p.2)) with
        | some (x, n), some (y, m) =>
          if x < y + m && y < x + n then some (Reg.wngWin + 8 * p.1, Reg.wngWin + 8 * p.2, .mib (max x y)) else none
        | _, _ => none

/-- The claim stood before this landing: the wing was enabled and held the item. -/
def oldClaim (old : Tab Nat) (x : ClaimItem) : Bool :=
  enOf old && match x with
    | .bitAt off b => bit (Tab.cnt old off) b
    | .mib m => (upFrom 0 8).any fun i => match winRange (Tab.cnt old (Reg.wngWin + 8 * i)) with
      | some (b, n) => b ≤ m && m < b + n
      | none => false

/-- Revert the change that loses: EN where the wing was not enabled, else the register. -/
def revert (old new : Tab Nat) (off : Nat) : Tab Nat :=
  if !enOf old then Tab.set new Reg.wngProt (Tab.cnt old Reg.wngProt) else Tab.set new off (Tab.cnt old off)

/-- The first pair of wings whose candidate registers clash. -/
def clashPair (cand : List (Nat × Tab Nat)) : Option (Nat × Nat × Nat × Nat × ClaimItem) :=
  match cand with
  | [] => none
  | (i, a) :: rest =>
    match (rest.filterMap fun x => (firstClash a x.2).map fun p => (i, x.1, p.1, p.2.1, p.2.2)).head? with
    | some c => some c
    | none => clashPair rest

/-- Drop losing changes until no item has two enabled wings (R336): a claim that stood keeps its item, and of two new claims the
lower wing's wins. -/
def settleClaims (old : Nat → Tab Nat) : Nat → List (Nat × Tab Nat) → List (Nat × Tab Nat)
  | 0, cand => cand
  | f + 1, cand =>
    match clashPair cand with
    | none => cand
    | some (i, j, ri, rj, x) =>
      let lose := if oldClaim (old j) x && !oldClaim (old i) x then i else j
      let r := if lose = i then ri else rj
      settleClaims old f (cand.map fun x => if x.1 = lose then (x.1, revert (old lose) x.2 r) else x)

/-- Changed 64-bit words of a wing's protection registers (R403). -/
def wingItems (w : Nat) (old new : Tab Nat) : List ProtItem :=
  (wingRegRows.filter fun r => r.cls = .prot).flatMap fun r => (upFrom 0 r.n).filterMap fun i =>
    let o := r.key + r.stride * i
    if Tab.cnt old o = Tab.cnt new o then none else some ⟨0, some w, o - 0x8000, 0, Tab.cnt new o⟩

/-- The block code and base of a PF register (R403). -/
def pfBlock (off : Nat) : Nat × Nat :=
  if off < 0x600000 then (1, 0x400000) else if off < 0xA00000 then (2, 0x800000) else if off < 0xC00000 then (3, 0xA00000)
  else if off < 0xE00000 then (4, 0xC00000) else if off < 0x1000000 then (Config.logBlock 0xE00000 % 16, 0xE00000)
  else (Config.logBlock 0x1000000 % 16, 0x1000000)

/-- Changed words of the PF's protection registers. -/
def pfItems (old new : Nat → Nat) : List ProtItem :=
  (pfRegRows.filter fun r => r.cls = .prot).flatMap fun r => (upFrom 0 r.n).flatMap fun i =>
    let o := r.key + r.stride * i
    let (b, base) := pfBlock o
    (upFrom 0 ((r.bytes + 7) / 8)).filterMap fun k =>
      let v := bits (new o) (64 * k) 64
      if bits (old o) (64 * k) 64 = v then none else some ⟨b, none, o - base, k, v⟩

/-- What a landing does to one wing whose registers in effect changed from `old` to `new`, both already in State (R53, R76, R160,
R343). -/
def State.wingLanded (s : State) (w : Nat) (old new : Tab Nat) : State :=
  let oc := if enOf old then coresOf old else []
  let nc := if enOf new then coresOf new else []
  let och := if enOf old then chansOf old else []
  let nch := if enOf new then chansOf new else []
  let s := s.cancelChans (och.filter fun c => !nch.contains c)
  let s := if oc = nc then s else
    let s := (oc.filter fun c => !nc.contains c).foldl (fun s c =>
      s.modCore c fun x => { x with quarter := false, gUser := none, zeroAll := true }) s
    if !(enOf old && enOf new) then s
    else
      let s := match s.flightCmd w with
        | some c => s.finish c St.aborted []
        | none => s
      s.setFl w ((s.job w).fl.unloadAll 5)
  -- lending withdrawn (R343)
  (upFrom 0 32).foldl (fun s g =>
    if bit (Tab.cnt old Reg.wngProt) (32 + g) && !(enOf new && bit (Tab.cnt new Reg.wngProt) (32 + g)) then
      nc.foldl (fun s c => if (s.core c).gUser = some g then
        s.modCore c fun x => { x with gUser := none, gHalf := 0, zeroQuarter := true } else s) s
    else s) s

/-- The wing's CXL park area lies behind a port. -/
def State.parksOn (s : State) (w p : Nat) : Bool :=
  match s.region (bits (s.wr w Reg.wngKvCxl) 0 40 * 128) with
  | .cxl q _ => q = p
  | _ => false

/-- The copies to or from a CXL park area that have not landed fail. -/
def Gen.copiesLost (g : Gen) : Gen :=
  { g with copies := g.copies.map fun (c : KvCopy) => if (c.kind = 1 || c.kind = 2) && c.loc = 1 && !c.landed then { c with failed := true } else c }

/-- The link of a CXL port is lost (R212): copies to or from a park area behind it that have not landed fail. -/
def State.copiesLost (s : State) (p : Nat) : State :=
  { s with wings := s.wings.map fun (x : Nat × Wing) =>
      if s.parksOn x.1 p then (x.1, { x.2 with job := { x.2.job with gen := x.2.job.gen.copiesLost } }) else x }

/-- A CXL link is lost (R137): one LINK_DOWN record; the state is TRAIN while the port is enabled. The record's ADDR, and so its WING, is that of
the start of the port's window (DESIGN CHOICE, log entry 76). -/
def State.cxlLost (s : State) (p st : Nat) : State :=
  let x := s.cxlPort p
  let s := { s with cxl := Tab.set s.cxl p { x with st := st, speed := 0, width := 0, timed := [], gone := [] } }
  if x.st = 2 then (s.copiesLost p).memRecord 3 3 0 0 (unitKey 4 p) (0x40000000000 + p * 0x20000000000) else s

/-- A CXL port is enabled or disabled (R448, R471): EN 0 acts as a loss of link. -/
def State.cxlEnable (s : State) (p : Nat) (en : Bool) : State :=
  if en then (if (s.cxlPort p).st = 0 then { s with cxl := Tab.set s.cxl p { s.cxlPort p with st := 1 } } else s) else s.cxlLost p 0

/-- Ports and CXL links whose EN changed or was written again, injection, and the windows that the landing cuts, in wing order (R308, R448, R415,
R416). `fell`: the wings whose EN falls. -/
def State.pfLanded (s : State) (old : Nat → Nat) (fell : List Nat) : State :=
  let s := (upFrom 0 9).foldl (fun s p =>
    let o := Reg.halPort + 8 * p
    if bit (old o) 63 = bit (s.pf o) 63 then s
    else s.modUnit (unitKey 3 p) fun u => { u with want := if bit (s.pf o) 63 then 0 else 4, ackd := true }) s
  let s := (upFrom 0 2).foldl (fun s p =>
    let o := Reg.cxlPort + 0x100 * p
    if bit (old o) 63 = bit (s.pf o) 63 then s
    else s.modUnit (unitKey 4 p) fun u => { u with want := if bit (s.pf o) 63 then 0 else 4, ackd := true }) s
  let s := (upFrom 0 9).foldl (fun s p =>
    if (s.port p).injW then s.modPort p fun x => { x with injW := false, injSeen := 0, injLeft := bits (s.pf (Reg.halInj + 8 * p)) 0 16 } else s) s
  let s := (upFrom 0 9).foldl (fun s p =>
    if !(s.port p).enW then s
    else
      let s := s.modPort p fun x => { x with enW := false }
      if bit (s.pf (Reg.halPort + 8 * p)) 63 && (s.port p).st = 4 then s.portTo p 1 else s) s
  let wlen : Bool := bits (old Reg.accCtrl) 0 24 ≠ bits (s.pf Reg.accCtrl) 0 24
  let s := (upFrom 0 32).foldl (fun s w => if wlen || fell.contains w then s.accClose (some w) s.tread 8 else s) s
  let s := if wlen then s.accClose none s.tread 8 else s
  let s := fell.foldl (fun s w => s.modWing w fun y => { y with acc := y.acc.clear }) s
  if old Reg.accRing = s.pf Reg.accRing then s else State.accDrain s.acct.held.length s

/-- The PF's registers as they land: HAL_CFG takes effect only while every hall port is DOWN; until then a value written waits. -/
def State.landedPf (s : State) : Tab Nat :=
  if (upFrom 0 8).all fun p => (s.port p).st = 0 then s.pfw
  else match Tab.find s.pfe Reg.halCfg with
    | some v => Tab.set s.pfw Reg.halCfg v
    | none => Tab.erase s.pfw Reg.halCfg

/-- The protection set-up lands at action 2 (R335, R336), only in READY (R468), as a whole if its log entries fit (R404). -/
def State.landProtection (s : State) (pre : State → Nat → State) : State :=
  if s.boot.st ≠ 5 then s else
  let was := s
  let old (w : Nat) : Tab Nat := (s.wing w).pwe
  let changed := (upFrom 0 32).any fun w => (s.wing w).pwr ≠ (s.wing w).pwe
  let cand0 := (upFrom 0 32).map fun w => (w, (s.wing w).pwr)
  let cand := if changed then settleClaims old 2000 cand0 else cand0
  let oldPf := s.pf
  let land := s.landedPf
  let newPf (o : Nat) : Nat := (Tab.find land o).getD (RegRow.resetOf pfRegRows o)
  let items := (if changed then cand.flatMap fun x => wingItems x.1 (old x.1) x.2 else []) ++ (if land = s.pfe then [] else pfItems oldPf newPf)
  let need := protEntries items.length
  if s.trust.logq.length + need > 4096 then { s with trust := { s.trust with held := true } }
  else
    let s := { s with trust := { s.trust with held := false } }
    let s := State.logProt need 1 s items
    -- EN from 1 to 0 acts first as a wing reset (R337, R415)
    let fell := (cand.filter fun x => enOf (old x.1) && !enOf x.2).map (·.1)
    let s := fell.foldl (fun s w => s.wingReset pre w false) s
    let s := if !changed then s else cand.foldl (fun s x =>
      if (s.wing x.1).pwe = x.2 && (s.wing x.1).pwr = x.2 && !(s.wing x.1).conflict then s
      else s.modWing x.1 fun y => { y with pwe := x.2, conflict := y.pwr ≠ x.2 }) s
    let s := if !changed then s else cand.foldl (fun s x => if old x.1 = x.2 then s else s.wingLanded x.1 (old x.1) x.2) s
    let s := { s with pfw := was.pfw, pfe := land }
    { s.pfLanded oldPf fell with pfw := was.pfw, pfe := land }

/-! ## Unit intents (R380) -/

/-- Action 2 for units: acknowledged intents take effect, the newel adopts words that the hardware changed, divergences are reported. -/
def State.unitAction (s : State) : State :=
  let s := s.units.foldl (fun s x =>
    let k := x.1
    let u := s.unit k
    let waits := (s.outOp 0x701).any fun c => unitKey (bits (c.arg 0) 0 4) (bits (c.arg 0) 4 10) = k && !s.isDue c
    if u.ackd && u.want ≠ u.hw && !waits then
      let s := (s.modUnit k fun u => { u with ackd := false }).setHw k u.want false
      -- a port's or CXL port's word taking LIVE or OFFLINE acts as its EN does (Table 16.7)
      if k / 1024 = 3 then s.portEnable (k % 1024) (u.want = 0) else if k / 1024 = 4 then s.cxlEnable (k % 1024) (u.want = 0) else s
    else if u.ackd && waits then s
    else if u.ackd then s.modUnit k fun u => { u with ackd := false }
    else if u.own && s.newel.running then s.modUnit k fun u => { u with own := false, want := u.hw, since := none, told := false }
    else s) s
  let s := s.units.foldl (fun s x =>
    let u := s.unit x.1
    match u.since with
    | some t => if u.want ≠ u.hw && !u.told && treadReached (treadAdd t 3) s.tread then
        (s.modUnit x.1 fun u => { u with told := true }).unitEvt 0 x.1 else s
    | none => s) s
  -- UNIT_SET completes when the hardware word takes the state
  (s.outOp 0x701).foldl (fun s c =>
    let k := unitKey (bits (c.arg 0) 0 4) (bits (c.arg 0) 4 10)
    if (s.unit k).hw = bits (c.arg 1) 0 8 && s.isDue c then s.finish c St.ok [] else s) s

/-! ## Quiesce (R349) -/

/-- The quiesce of a wing begins at its boundary: flights unloaded (kept by a context switch), channels drain, no new remote traffic. -/
def State.quiesceStart (s : State) (w : Nat) (keepFlights : Bool) : State :=
  let s := if keepFlights then s else
    let s := match s.flightCmd w with | some c => s.finish c St.aborted [] | none => s
    s.setFl w ((s.job w).fl.unloadAll 5)
  (s.drainChans (s.chanSet w)).modWing w fun x => { x with quiet := true }

/-- Every channel is idle and no remote request of the wing is outstanding. -/
def State.quiesced (s : State) (w : Nat) : Bool := s.chansIdle w && s.fabIdle w

/-- The end of a quiesce at completion: unsent frames are discarded; late ends cancel the channels that are not idle and abandon the requests. -/
def State.quiesceEnd (s : State) (w : Nat) (late : Bool) : State :=
  let s := if late then (s.cancelChans ((s.chanSet w).filter fun c => !(s.chan c).idle)).fabAbandon w else s
  (s.fabDropWing w).modWing w fun x => { x with quiet := false }

/-- One WING_QUIESCE at a boundary: it starts, or ends when the wing is quiet or its window [t, t + Q) is over. `prog` 1: started. -/
def State.quiesceStep (s : State) (c : Cmd) : State :=
  if !s.isDue c then s else
  let s := if c.prog = 0 then (s.quiesceStart c.wing false).modCmd c.cid fun x => { x with prog := 1 } else s
  let w := c.wing
  if treadReached (treadAdd c.eff (c.arg 0)) s.tread then (s.quiesceEnd w true).finish c St.quiesceLate []
  else if s.quiesced w then (s.quiesceEnd w false).finish c St.ok []
  else s

/-! ## Contexts and semaphores (R351 to R354, R374, R375) -/

def State.ctx (s : State) (w c : Nat) : Ctx := (Tab.find (s.wing w).ctxs c).getD {}

def State.modCtx (s : State) (w c : Nat) (f : Ctx → Ctx) : State :=
  s.modWing w fun x => { x with ctxs := Tab.set x.ctxs c (f ((Tab.find x.ctxs c).getD {})), ctxEvent := true }

/-- The resident slot not used by any context, if there is one. -/
def State.freeSlot (s : State) (w : Nat) : Option Nat :=
  let (_, _, n) := s.ctxGeom w
  (upFrom 0 n).find? fun k => !((s.wing w).ctxs.any fun x => x.2.slot = some k)

/-- A model load with what ATTEST reports of another: that is the wing's, not a context's (Table 17.7). -/
def ModelLoad.withGood (l g : ModelLoad) : ModelLoad :=
  { l with succeeded := g.succeeded, okId := g.okId, okDigest := g.okDigest, okBase := g.okBase, okLab0 := g.okLab0, okLab1 := g.okLab1 }

/-- Contexts on: the first use of an enabled WNG_CTX makes context 0 the active one in slot 0 (R352; DEDUCED, log entry 12). -/
def State.ctxInit (s : State) (w : Nat) : State :=
  let (_, _, n) := s.ctxGeom w
  if n = 0 || !(s.wing w).ctxs.isEmpty then s
  else s.modWing w fun x => { x with ctxs := Tab.set x.ctxs 0 { st := 1, slot := some 0 }, active := 0, ctxEvent := true }

/-- A context waits for a semaphore. -/
def Wing.waiting (x : Wing) (c : Nat) : Bool := x.waits.any fun y => y.1 / 32 = c

/-- The state of a context whose last wait has ended: ACTIVE or READY in its slot, else what it was before its wait. -/
def Wing.unblocked (x : Wing) (c : Nat) (y : Ctx) : Nat := if y.slot.isNone then y.back else if x.active = c then 1 else 2

/-- Give a semaphore to its earliest waiter, or free it (R375). -/
def State.passSem (s : State) (w sem : Nat) : State :=
  let ws := (s.wing w).waits.filter fun x => x.1 % 32 = sem
  let best := ws.foldl (fun (b : Option (Nat × Nat)) x => match b with
    | none => some x
    | some y => if s.treadKey x.2 < s.treadKey y.2 ∨ (x.2 = y.2 ∧ x.1 < y.1) then some x else b) none
  match best with
  | none => s.modWing w fun x => { x with sems := Tab.erase x.sems sem, ctxEvent := true }
  | some (k, _) =>
    let c := k / 32
    let s := s.modWing w fun x => { x with sems := Tab.set x.sems sem c, waits := Tab.erase x.waits k, ctxEvent := true }
    let s := if (s.wing w).waiting c then s
      else if (s.ctx w c).st = 3 ∧ !(s.ctx w c).bySet then s.modCtx w c fun x => { x with st := (s.wing w).unblocked c x } else s
    ((s.outOf 0x502 w).filter fun d => d.prog = 1 ∧ bits (d.arg 0) 0 3 = c ∧ bits (d.arg 0) 8 5 = sem).foldl (fun s d => s.finish d St.ok []) s

/-- A context becomes EMPTY: its slot or image is freed, its semaphores pass on, its waits end ABORTED (R374, R375). -/
def State.emptyCtx (s : State) (w c : Nat) : State :=
  let s := ((s.outOf 0x502 w).filter fun d => bits (d.arg 0) 0 3 = c ∧ d.prog = 1).foldl (fun s d => s.finish d St.aborted []) s
  let s := s.modWing w fun x => { x with waits := x.waits.filter fun y => y.1 / 32 ≠ c, ctxs := Tab.erase x.ctxs c, ctxEvent := true }
  (upFrom 0 32).foldl (fun s k => if Tab.find (s.wing w).sems k = some c then s.passSem w k else s) s

/-- The transitions that CTX_SET permits (R374). -/
def State.ctxAllows (s : State) (w c target : Nat) : Bool :=
  let x := s.ctx w c
  match target with
  | 2 => (x.st = 0 && (s.freeSlot w).isSome) || (x.st = 3 && x.bySet)
  | 3 => x.st = 2
  | 5 => x.st = 4
  | 4 => x.st = 5
  | 0 => x.st ≠ 1 && x.st ≠ 6
  | _ => false

/-- One CTX_SET at its boundary (R374). -/
def State.ctxSetStep (s : State) (d : Cmd) : State :=
  let w := d.wing
  let c := bits (d.arg 0) 0 3
  if !s.ctxAllows w c (bits (d.arg 0) 8 3) then s.finish d St.badArg [] else
  (match bits (d.arg 0) 8 3 with
  | 2 => s.modCtx w c fun y => if y.st = 0 then { st := 2, slot := s.freeSlot w } else { y with st := 2, bySet := false }
  | 3 => s.modCtx w c fun y => { y with st := 3, bySet := true, stamp := s.tread }
  | 5 => s.modCtx w c fun y => { y with st := 5, need := d.arg 1, stamp := s.tread }
  | 4 => s.modCtx w c fun y => { y with st := 4 }
  | _ => s.emptyCtx w c).finish d St.ok []

/-- One SEM_ACQUIRE at its boundary (R375). `prog` 1: it waits. A context that is OUT or WANT is BLOCKED too, and returns to that state with the
grant; one whose image is moving out stays MOVING, and an EMPTY one is none (log entry 56). -/
def State.semAcquireStep (s : State) (d : Cmd) : State :=
  let w := d.wing
  let c := bits (d.arg 0) 0 3
  let k := bits (d.arg 0) 8 5
  match Tab.find (s.wing w).sems k with
  | none => (s.modWing w fun x => { x with sems := Tab.set x.sems k c, ctxEvent := true }).finish d St.ok []
  | some h =>
    if h = c then s.finish d St.badArg []
    else
      let st := (s.ctx w c).st
      -- a waiter stands by its BLOCKED stamp, which a context that is BLOCKED already took at its entry
      let stamp := if st = 3 then (s.ctx w c).stamp else s.tread
      let s := s.modCmd d.cid fun x => { x with prog := 1 }
      let s := s.modWing w fun x => { x with waits := Tab.set x.waits (c * 32 + k) stamp }
      if st = 0 ∨ st = 3 ∨ st = 6 then s else s.modCtx w c fun y => { y with st := 3, bySet := false, back := st, stamp := s.tread }

/-- One SEM_RELEASE at its boundary (R375). -/
def State.semReleaseStep (s : State) (d : Cmd) : State :=
  let k := bits (d.arg 0) 8 5
  if Tab.find (s.wing d.wing).sems k = some (bits (d.arg 0) 0 3) then (s.passSem d.wing k).finish d St.ok []
  else s.finish d St.badArg []

/-- Copy `n` bytes between a resident slot and the save area, in host memory or a CXL window (R351). -/
def State.ctxCopy (s : State) (w slot c : Nat) (out : Bool) : State :=
  let (cb, sz, _) := s.ctxGeom w
  let sv := (s.wing w).ctxSave
  let la := cb + slot * sz
  let sa := sv / 4096 * 4096 + c * sz
  let rq : Req := { mask := s.ways w, src := 0 }
  if sv % 2 = 1 then
    -- the save area lies in a CXL window of the wing, or the access is refused (R339)
    if !s.inWindowK w [2] sa sz then s.refuse w sa false
    else if out then let (b, s) := s.read rq la sz; s.write rq sa b else let (b, s) := s.read rq sa sz; s.write rq la b
  else if out then let (b, s) := s.read rq la sz; s.hostWrite (w + 1) sa b
  else match s.hostRead (w + 1) sa sz with
    | some b => (s.charge (some w) Acf.hostIn sz).write rq la b
    | none => s

/-- The newel's work at a boundary on the earliest WANT context (R353). -/
def State.ctxSwapStep (s : State) (w : Nat) : State :=
  let x := s.wing w
  let wants := x.ctxs.filter fun y => y.2.st = 5
  let first := wants.foldl (fun (b : Option (Nat × Ctx)) y => match b with
    | none => some y
    | some z => if s.treadKey y.2.stamp < s.treadKey z.2.stamp then some y else b) none
  match first with
  | none => s
  | some (c, cx) =>
    match s.freeSlot w with
    | some k => (s.ctxCopy w k c false).modCtx w c fun y => -- one that still waits for a semaphore is BLOCKED
        if x.waiting c then { y with st := 3, bySet := false, slot := some k, stamp := s.tread } else { y with st := 2, bySet := false, slot := some k }
    | none =>
      let res := x.ctxs.filter fun y => y.2.slot.isSome && y.1 ≠ x.active
      if res.isEmpty || res.any fun y => y.2.st ≠ 3 then s
      else
        let ok := res.filter fun y => !(x.sems.any fun z => z.2 = y.1 && bit cx.need z.1)
        let v := ok.foldl (fun (b : Option (Nat × Ctx)) y => match b with
          | none => some y
          | some z => if s.treadKey y.2.stamp < s.treadKey z.2.stamp then some y else b) none
        match v with
        | none => s
        | some (e, _) => s.modCtx w e fun y => { y with st := 6 }

/-- CONTEXT_SAVE_LANDS: the image of the context in MOVING reaches the save area; it becomes OUT at the next boundary (R353). The copy is the
newel's and waits while it restarts (R381). -/
def State.opContextSave (s : State) (w : Nat) : State :=
  if !s.newel.running then s else
  match ((s.wing w).ctxs.find? fun y => y.2.st = 6 && y.2.stamp ≠ 0xFFFFFFFFFFFFFFFF) with
  | some (c, cx) =>
    match cx.slot with
    | some k => (s.ctxCopy w k c true).modWing w fun x => { x with ctxs := Tab.set x.ctxs c { cx with stamp := 0xFFFFFFFFFFFFFFFF } }
    | none => s
  | none => s

/-- MOVING contexts whose copy has landed become OUT (R353). -/
def State.ctxOutStep (s : State) (w : Nat) : State :=
  (s.wing w).ctxs.foldl (fun s y => if y.2.st = 6 && y.2.stamp = 0xFFFFFFFFFFFFFFFF then
    s.modCtx w y.1 fun z => { z with st := 4, slot := none, stamp := s.tread } else s) s

/-- CTX_SWITCH at a boundary (R352). `prog` 0: the quiesce starts; 1: it runs. The named context must be resident (READY). `close`: what the tread
that ended still brings the context that leaves (R179, R245). -/
def State.ctxSwitchStep (s : State) (close : State → Nat → State) (d : Cmd) : State :=
  if !s.isDue d then s else
  let w := d.wing
  let c := bits (d.arg 0) 0 3
  let there := (s.ctx w c).slot.isSome && ((s.ctx w c).st = 2 || (s.ctx w c).st = 3)
  if d.prog = 0 && !there then s.finish d St.badArg [] else
  let s := if d.prog = 0 then (s.quiesceStart w true).modCmd d.cid fun x => { x with prog := 1 } else s
  let late := treadReached (treadAdd d.eff (d.arg 1)) s.tread
  if late then (s.quiesceEnd w true).finish d St.quiesceLate []
  else if !s.quiesced w then s
  else
    let s := s.quiesceEnd w false
    if !there then s.finish d St.aborted []
    else
      let s := close s w
      let a := (s.wing w).active
      let keep := s.chanSet w
      let saved : Job := { (s.job w) with chans := s.chans.filter fun (x : Nat × Chan) => keep.contains x.1 }
      let next := (s.ctx w c).saved
      let s := s.cancelChans keep
      let s := { s with chans := next.chans.foldl (fun (t : Tab Chan) (x : Nat × Chan) => if keep.contains x.1 then Tab.set t x.1 x.2 else t) s.chans }
      let load := (s.wing w).load
      let its := (s.ctx w c).load
      -- the active context may be EMPTY by now (R374)
      let s := if (s.ctx w a).st = 0 then s else s.modCtx w a fun y => { y with st := if y.st = 1 then 2 else y.st, saved := saved, load := load }
      let s := s.modCtx w c fun y => { y with st := if (s.wing w).waiting c then 3 else 1, saved := {}, load := {} }
      (s.modWing w fun x => { x with job := { next with chans := [] }, active := c, load := its.withGood load }).finish d St.ok []

/-- Contexts and semaphores of a wing at action 2, and the interrupt of R354. -/
def State.ctxAction (s : State) (close : State → Nat → State) (w : Nat) : State :=
  let s := (s.modWing w fun x => { x with ctxEvent := false }).ctxInit w
  let s := s.ctxOutStep w
  let s := (s.newel.out.filter fun c => c.wing = w && s.isDue c).foldl (fun s c0 =>
    -- as the commands before it leave it: it may have ended
    match s.newel.out.find? fun c => c.cid = c0.cid with
    | none => s
    | some c =>
      if c.op = 0x500 then s.ctxSwitchStep close c
      else if c.op = 0x501 then s.ctxSetStep c
      else if c.op = 0x502 then (if c.prog = 0 then s.semAcquireStep c else s)
      else if c.op = 0x503 then s.semReleaseStep c
      else s) s
  let s := if s.newel.running then s.ctxSwapStep w else s
  if (s.wing w).ctxEvent && bit (s.we w Reg.wngIrq) 9 then s.fire (w + 1) (bits (s.we w Reg.wngIrq) 10 4) else s

end Sys2Proof.Machine
end

