-- ==== Sys2Proof/Machine/Stash.lean ====
section
/-!
DEFINITION. What a wing may not write (R49, R171, R194, R195, R221, R226, R233, R240, R243, R246, R255, R395), and the stash of a
training step: tags, the arena and spill rings, recompute (spec/11_training.md R233 to R238).
-/
namespace Sys2Proof.Machine

/-- A flight slot of the wing is loaded. -/
def State.loaded (s : State) (w : Nat) : Bool := (s.job w).fl.active.isSome || (s.job w).fl.pend.isSome

/-- Rows of the wing's sequence table (WNG_GEN_SEQ.COUNT). -/
def State.seqCount (s : State) (w : Nat) : Nat := min (bits (s.wr w Reg.wngGenSeq) 49 15) 16384

/-- Bits [46:lo] of a register as an address. -/
def addrOf (v lo : Nat) : Nat := bits v lo (47 - lo) * 2 ^ lo

/-- Entries per KV list, LP. -/
def State.kvLp (s : State) (w : Nat) : Nat := 2 ^ max 4 (min 16 (bits (s.wr w Reg.wngKvPt) 59 5))

/-- Frames of the wing's page pool. -/
def State.kvFrames (s : State) (w : Nat) : Nat := min (bits (s.wr w Reg.wngKvGeom) 39 25) 16777216

/-- A range [a, a + n) touches bytes [lo, hi) of some entry of a table of `cnt` entries of `size` bytes at `base`. -/
def hitsTable (a n base cnt size lo hi : Nat) : Bool :=
  cnt ≠ 0 && n ≠ 0 && overlaps a n base (cnt * size) &&
    (let x := max a base
     let m := min (a + n) (base + cnt * size) - x
     -- the first entry that the range reaches, and whether a later one begins inside it
     let r := (x - base) % size
     (r < hi && lo < r + m) || (r + m > size && lo < r + m - size))

/-- The table areas and other ranges that the manual makes read-only to a wing, apart from the destination of its load. -/
def State.fixedTo (s : State) (w a n : Nat) : Bool :=
  let ld := s.loaded w
  let seq := s.wr w Reg.wngGenSeq
  let rows := s.seqCount w
  let trn := s.wr w Reg.wngTrnArea
  let tags := s.wr w Reg.wngTrnTags
  let tb := addrOf tags 4
  let tn := bits tags 47 17
  let xch := s.wr w Reg.wngXch
  let xn := min (bits xch 51 13) 4096
  s.readOnly w a n
    || hitsTable a n (addrOf seq 8) rows 256 0 128
    || (s.wr w Reg.wngKvPt ≠ 0 && overlaps a n (addrOf (s.wr w Reg.wngKvPt) 20) (0x100000 + rows * 8 * s.kvLp w))
    || overlaps a n (addrOf (s.wr w Reg.wngKvPst) 6) (4 * s.kvFrames w)
    || overlaps a n (addrOf (s.wr w Reg.wngAdp) 6) (64 * min (bits (s.wr w Reg.wngAdp) 51 13) 4096)
    || overlaps a n (addrOf (s.wr w Reg.wngPfx) 11) (2048 * min (bits (s.wr w Reg.wngPfx) 47 17) 65536)
    || hitsTable a n tb tn 16 4 16 || (ld && overlaps a n tb (16 * tn))
    || (trn ≠ 0 && ((ld && overlaps a n (addrOf trn 20) 0x20000) || overlaps a n (addrOf trn 20 + 0x20000) 0x40080))
    || hitsTable a n (addrOf xch 8) xn 256 64 256 || (ld && hitsTable a n (addrOf xch 8) xn 256 0 64)

/-- A wing's own write is refused as read-only to it: also into the destination of its load, from acceptance until completion (R395). -/
def State.barred (s : State) (w a n : Nat) : Bool :=
  let l := (s.wing w).load
  s.fixedTo w a n || ((s.outOf 0x800 w).any (fun c => c.arg 1 = l.base) && overlaps a n l.base l.span)

/-- Write the staged records (R81, R82): a place outside the wing's HBM window, or read-only to it, is refused. -/
def State.flushRecs (s : State) : State :=
  s.crecs.foldl (fun s c =>
    let a := if c.guest then s.wr c.wing Reg.wngGrecBase + (c.tread % 64 * 800 + c.core) * 32
      else s.wr c.wing Reg.wngCrecBase + (c.tread % 64 * c.n + c.rank) * 32
    if s.mappedIn c.wing (s.bankNow c.wing) [1] a 32 && !s.barred c.wing a 32 then s.write (s.reqOf c.wing) a (clean c.bytes)
    else s.refuse c.wing a false) { s with crecs := [] }

/-! ## Tags (R233 to R238) -/

/-- The tag that a local address names, if it is an entry of the tag table. -/
def State.tagOf (s : State) (w a : Nat) : Option Nat :=
  let r := s.wr w Reg.wngTrnTags
  let b := addrOf r 4
  if b ≤ a ∧ a < b + 16 * bits r 47 17 ∧ (a - b) % 16 = 0 then some ((a - b) / 16) else none

/-- Address of a tag's entry. -/
def State.tagAddr (s : State) (w t : Nat) : Nat := addrOf (s.wr w Reg.wngTrnTags) 4 + 16 * t

/-- A tag's entry: DIRECT, REL, RBOFF, STATE, LENGTH, ADDR. -/
structure TagEnt where
  direct : Bool
  rel : Bool
  rboff : Nat
  state : Nat
  len : Nat
  addr : Nat
deriving DecidableEq, Repr

def State.tagRead (s : State) (w t : Nat) : TagEnt :=
  let x := s.peekN w (s.tagAddr w t) 4
  let y := s.peekN w (s.tagAddr w t + 4) 4
  ⟨bit x 31, bit x 30, bits x 0 28, bits y 28 4, bits y 0 21, s.peekN w (s.tagAddr w t + 8) 8⟩

/-- The module's part of a tag's entry is written. -/
def State.tagWrite (s : State) (w t state len addr : Nat) : State :=
  if s.mappedIn w (s.bankNow w) [1] (s.tagAddr w t) 16 then
    s.write (s.reqOf w) (s.tagAddr w t + 4) (clean (leBytes 4 (state * 2 ^ 28 + len % 2 ^ 21) ++ leBytes 8 addr))
  else s

def State.modTrn (s : State) (w : Nat) (f : Training → Training) : State := s.modJob w fun j => { j with trn := f j.trn }

/-- The training interrupt of R251. -/
def State.trnIrq (s : State) (w : Nat) : State :=
  let v := s.we w Reg.wngTrnCtrl
  if bit v 3 then s.fire (w + 1) (bits v 8 4) else s

/-- LATE is set; a setting raises the training interrupt (R234, R245, R251). -/
def State.trnLate (s : State) (w : Nat) : State :=
  if (s.job w).trn.late then s else (s.modTrn w fun x => { x with late := true }).trnIrq w

/-- A flag of a step arises on this module (Table 11.8); after the step's vote is written it sets LATE (R251). -/
def State.trnFlag (s : State) (w step f : Nat) : State :=
  if bit (Tab.cnt (s.job w).trn.flags step) f then s else
  let s := s.modTrn w fun x => { x with flags := Tab.set x.flags step (Tab.cnt x.flags step ||| 2 ^ f) }
  if (s.job w).trn.voted.contains step then s.trnLate w else s

/-- The arena's start, its size without the recompute area, and the start of the recompute area (R235, R237). -/
def State.arenaGeom (s : State) (w : Nat) : Nat × Nat × Nat :=
  let r := s.wr w Reg.wngTrnStash
  let b := bits r 32 27 * 1048576
  let sz := bits r 13 19
  let rs := min (bits r 0 13) sz
  (b, (sz - rs) * 1048576, b + (sz - rs) * 1048576)

/-- The spill ring's start and size; 0 when the range is not wholly in one CXL window of the wing. -/
def State.spillGeom (s : State) (w : Nat) : Nat × Nat :=
  let r := s.wr w Reg.wngTrnSpill
  let b := bits r 32 27 * 1048576
  let n := bits r 0 23 * 1048576
  if s.inWindowK w [2] b n then (b, n) else (b, 0)

/-- Allocation of `n` bytes in a ring of `size` bytes: the offset of the bytes, the ring and its head (R235). No bytes take no room. An
allocation that wraps in an empty ring and reaches past the old head owns the whole ring, its gap and its bytes together. -/
def ringAlloc (held : List Alloc) (head size n tag : Nat) : Option (Nat × List Alloc × Nat) :=
  let place (at_ : Nat) : Option (Nat × List Alloc × Nat) :=
    if n = 0 then some (at_, held, head)
    else some (at_, held ++ [⟨tag, if at_ < head ∧ head < n then n else head, n, false⟩], at_ + n)
  match held with
  | [] => if head + n ≤ size then place head else if n ≤ size then place 0 else none
  | o :: _ =>
    if o.start < head then
      if head + n ≤ size then place head else if n ≤ o.start then place 0 else none
    else if head + n ≤ o.start then place head else none

/-- Release a tag's allocation and advance the oldest-held point. -/
def ringRelease (held : List Alloc) (tag : Nat) : List Alloc :=
  (held.map fun (a : Alloc) => if a.tag = tag then { a with released := true } else a).dropWhile (·.released)

/-- A tag becomes BAD, which the step's vote reports (Table 11.8). -/
def State.tagBad (s : State) (w t : Nat) (e : TagEnt) : State :=
  (s.tagWrite w t 4 e.len e.addr).trnFlag w (s.we w Reg.wngStep) 2

/-- A tag becomes RECOMPUTE. -/
def State.tagRecompute (s : State) (w t : Nat) : State :=
  (s.tagWrite w t 3 0 0).modTrn w fun x => { x with recomp := sat 16 (x.recomp + 1) }

/-- Where a STORE to a tag goes (R234): nowhere, or an address. `step`: the entry's latched step; `n`: bytes the block moves; `again`:
the entry runs a recompute word (R238). -/
def State.tagStore (s : State) (w t step n : Nat) (again : Bool) : Option Nat × State :=
  let e := s.tagRead w t
  if step ≠ s.we w Reg.wngStep then (none, s.trnLate w)
  else if again && e.state = 3 then (some ((s.arenaGeom w).2.2 + e.rboff * 256), s)
  else if e.state ≠ 0 then (none, if e.state = 3 then s else s.tagBad w t e)
  else
    let x := (s.job w).trn
    if x.rmode then (none, s.tagRecompute w t)
    else
      let a := (n + 255) / 256 * 256
      let (ab, asz, _) := s.arenaGeom w
      let (sb, ssz) := s.spillGeom w
      let up : Bool := match s.region sb with | .cxl p _ => (s.cxlPort p).st = 2 | _ => false
      let arena := ringAlloc x.arena x.arenaHead asz a t
      let spill := if up then ringAlloc x.spill x.spillHead ssz a t else none
      let useArena (p : Nat × List Alloc × Nat) : Option Nat × State :=
        (some (ab + p.1), (s.modTrn w fun x => { x with arena := p.2.1, arenaHead := p.2.2 }).tagWrite w t 1 n (ab + p.1))
      let useSpill (p : Nat × List Alloc × Nat) : Option Nat × State :=
        (some (sb + p.1), (s.modTrn w fun x => { x with spill := p.2.1, spillHead := p.2.2 }).tagWrite w t 2 n (sb + p.1))
      match e.direct, arena, spill with
      | true, _, some p => useSpill p
      | _, some p, _ => useArena p
      | _, none, some p => useSpill p
      | _, none, none => (none, (s.modTrn w fun x => { x with rmode := true }).tagRecompute w t)

/-- What a LOAD of a tag reads (R237): the address and how many bytes of it stand there; none: poisoned data. -/
def State.tagSource (s : State) (w t len : Nat) : Option (Nat × Nat) :=
  let e := s.tagRead w t
  if e.state = 1 ∨ e.state = 2 then some (e.addr, min e.len len)
  else if e.state = 3 then some ((s.arenaGeom w).2.2 + e.rboff * 256, len)
  else none

/-- A LOAD of a tag retires: with REL it releases the tag, whatever its state was, and the bytes that it held (R235). -/
def State.tagLoaded (s : State) (w t : Nat) : State :=
  let e := s.tagRead w t
  if e.rel && e.state ≠ 5 then
    (s.tagWrite w t 5 e.len e.addr).modTrn w fun x => { x with arena := ringRelease x.arena t, spill := ringRelease x.spill t }
  else s

/-- Every tag becomes EMPTY and both rings become empty: a write to the stash registers has landed (R253). RMODE stays until the step changes (R236). -/
def State.stashEmpty (s : State) (w : Nat) : State :=
  let n := bits (s.wr w Reg.wngTrnTags) 47 17
  let s := (upFrom 0 n).foldl (fun s t => if (s.tagRead w t).state = 0 then s else s.tagWrite w t 0 0 0) s
  s.modTrn w fun x => { x with arena := [], arenaHead := 0, spill := [], spillHead := 0 }

/-- The stash at a change of step (4l): as `stashEmpty`, and RMODE and RECOMP are cleared. -/
def State.stashStep (s : State) (w : Nat) : State := (s.stashEmpty w).modTrn w fun x => { x with rmode := false, recomp := 0 }

end Sys2Proof.Machine
end

