-- ==== Sys2Proof/Machine/Stream.lean ====
section
/-!
DEFINITION. The stream unit: the first issue of an entry, issue and retirement of blocks, gallery warming, and the end of an entry's
work (spec/07_streams_dma.md R152 to R158, R486, spec/03 R70 to R75, R81, R84, spec/08 R177, spec/11 R233 to R238).
-/
namespace Sys2Proof.Machine

/-- The run in a slot of a core. -/
def State.runAt (s : State) (core : Nat) (g : Bool) : Option Run := (s.core core).run g

/-- Change the run in a slot. -/
def State.modRun (s : State) (core : Nat) (g : Bool) (f : Run → Run) : State :=
  s.modCore core fun x => x.setRun g ((x.run g).map f)

/-- Owner number of a slot's remote requests. -/
def slotUnit (core : Nat) (g : Bool) : Nat := core * 2 + b2n g

/-- The wing's own request as an entry makes it (R129, R217). -/
def State.entryReq (s : State) (r : Run) (noalloc : Bool) : Req := { wing := some r.wing, bank := r.bank, mask := s.ways r.wing, noalloc := noalloc }

/-- The request of an issued block: under the set-up in force at its issue (R335). -/
def State.blockReq (s : State) (r : Run) (k : Nat) : Req :=
  match Tab.find r.via k with
  | some x => { s.entryReq r (blkNoalloc (r.blks.getD k 0)) with mask := x.1, swap := some x.2 }
  | none => s.entryReq r (blkNoalloc (r.blks.getD k 0))

/-- The local address at which a role's half of a slot begins (R70, R75). -/
def State.halfBase (s : State) (core : Nat) (g : Bool) (half : Nat) : Nat :=
  let x := s.core core
  if g then core * 0x200000 + 0x180000 + (if half = 1 then x.gHalf else 1 - x.gHalf) * 0x40000
  else core * 0x200000 + (if half = 1 then x.half else 1 - x.half) * 0x100000

/-- The size of the work half, H of R485. -/
def halfSize (g : Bool) : Nat := if g then 0x40000 else 0x100000

/-- A slot's access to its core's SRAM is refused (R75): the guest quarter belongs to the other slot. -/
def State.sramRefused (s : State) (core : Nat) (g : Bool) (a n : Nat) : Bool :=
  if g then !(s.core core).quarter else (s.core core).quarter && overlaps a n (core * 0x200000 + 0x180000) 0x80000

/-! ## Ragged entries (R177) -/

/-- A word ragged on a length table, and the table (R177). -/
def cwRagged (c : Nat) : Bool := (cwFunc c = 1 || cwFunc c = 2 || cwFunc c = 3 || cwFunc c = 4) && bit (cwArg c 3) 31
def cwTable (c : Nat) : Nat := bits (cwArg c 3) 0 4

/-- Start of length table `n`. -/
def State.ltab (s : State) (w n : Nat) : Nat := addrOf (s.wr w Reg.wngGenLtab) 24 + n * 0x100000

/-- Rows of a run: P of its table when ragged, else M. P is kept in `work` under 0 at the first issue. A SAMPLE word has no M. -/
def Run.rows (r : Run) : Nat :=
  if cwFunc r.cfg = 4 then Tab.cnt r.work 0 else if cwRagged r.cfg then min (Tab.cnt r.work 0) (cwM r.cfg) else cwM r.cfg

/-- A block is of a role that a ragged entry cuts to its first rows: OPA, OUTY or OUTZ. -/
def raggedUse (u : Nat) : Bool := u = 0 || u = 2 || u = 3

/-- Elements in a row of a role: the streamed operand has K columns and the outputs N; in SHARED_DY dY has N and dX K (R67). A row of
logits has the vocabulary, kept in `work` under 2 (R180), and an attention row has its heads, with PDIM kept under 3. -/
def Run.rowWidth (r : Run) (use : Nat) : Nat :=
  let c := r.cfg
  if cwFunc c = 4 then Tab.cnt r.work 2
  else if cwFunc c = 2 && cwWalk c then
    -- heads × (DK + PDIM) queries; heads × DV values, with a maximum and a sum when W > 1 (R199, R202)
    let h := bits (cwArg c 2) 0 8
    if use = 0 then h * (bits (cwArg c 2) 8 8 * 16 + Tab.cnt r.work 3)
    else h * (bits (cwArg c 2) 16 8 * 16 + (if bits (cwArg c 1) 8 12 > 1 then 2 else 0))
  else if cwAmode c = 3 then (if use = 2 then cwK c else cwN c) else if use = 0 then cwK c else cwN c

/-- Bytes that the first `p` rows of `width` elements take in a format (R91, R92). -/
def FmtInfo.rowsBytes (f : FmtInfo) (p width : Nat) : Nat :=
  if f.kind ≥ 2 then (p * ((width + 31) / 32) + 7) / 8 * f.group else f.bytesFor (p * width)

/-- Position of a block in the half of its list: under AMODE INDEP the list has two halves (R152). -/
def Run.side (r : Run) (k : Nat) : Nat := if cwAmode r.cfg = 4 ∧ k ≥ r.blks.length / 2 then 1 else 0

/-- The blocks of one role, direction and half before block `k`, in list order. -/
def Run.before (r : Run) (k : Nat) : List Nat :=
  let b := r.blks.getD k 0
  (upFrom 0 k).filter fun i =>
    let x := r.blks.getD i 0
    blkUse x = blkUse b && blkDir x = blkDir b && blkHalf x = blkHalf b && r.side i = r.side k

/-- Bytes of one code stream of a block: half its bytes when it is split (R113). -/
def blkSpan (b : Nat) : Nat := if blkSplit b then blkLen b / 2 else blkLen b

/-- An UPDATE without the verdict APPLY, which writes nothing (R249). -/
def Run.unapplied (r : Run) : Bool := cwFunc r.cfg = 6 && bits (cwArg r.cfg 0) 0 4 = 0 && Tab.cnt r.work 1 ≠ 1

/-- The byte ranges of a block that move: offset within the block and length (R177, R249). -/
def Run.moved (r : Run) (k : Nat) : List (Nat × Nat) :=
  let b := r.blks.getD k 0
  if r.unapplied && blkDir b = 1 then [] else
  if !(cwRagged r.cfg && raggedUse (blkUse b)) then [(0, blkLen b)] else
  let start := (r.before k).foldl (fun a i => a + blkSpan (r.blks.getD i 0)) 0
  let total := match fmtInfo (blkFmt b) with
    | some f => f.rowsBytes (r.rows) (r.rowWidth (blkUse b))
    | none => 0
  let m := min (total - start) (blkSpan b)
  if m = 0 then [] else if blkSplit b then [(0, m), (blkLen b / 2, m)] else [(0, m)]

def Run.movedBytes (r : Run) (k : Nat) : Nat := (r.moved k).foldl (fun a x => a + x.2) 0

/-- WNG_GEN_VOCAB as it acts. -/
def State.genVocab (s : State) (w : Nat) : Nat := min (s.wr w Reg.wngGenVocab) 262144

/-! ## The end of an entry's work -/

/-- The non-finite interrupt of an entry whose work has ended (R84): `send` is how the vector is raised. -/
def State.nfFire (s : State) (r : Run) (send : State → Nat → Nat → State) : State :=
  if r.nfCount ≠ 0 && bit (s.we r.wing Reg.wngIrq) 22 then send s (r.wing + 1) (bits (s.we r.wing Reg.wngIrq) 23 4) else s

/-- The work of the run in a slot ends with a status: AMAX_CUR is raised, the record is staged, the non-finite interrupt fires
(R81, R84, R103). -/
def State.endRun (s : State) (core : Nat) (g : Bool) (status : Nat) : State :=
  match s.runAt core g with
  | none => s
  | some r =>
    let w := r.wing
    let s := (((s.sclRaise r).chargeEnd r).nfFire r State.fire).stage w g r.tread r.fid core r.rank r.ent (entCfg r.ent) status (some r)
    (s.orphanReqs (slotUnit core g)).modCore core fun x => x.setRun g none

/-! ## The first issue (R103, R177, R238, R249) -/

/-- The address of a tag block: this module is named and the local part is a tag's entry (R233). -/
def State.blkTag (s : State) (w b : Nat) : Option Nat :=
  let m := blkAddr b / 2 ^ 47
  if (m = s.me || m = 0x1FFFF) && blkDir b ≠ 2 then s.tagOf w (blkAddr b % 2 ^ 47) else none

/-- A recompute word (R238). -/
def cwAgain (c : Nat) : Bool := (cwFunc c = 0 || cwFunc c = 1) && bit (cwArg c 1) 31

/-- The first tag STORE block of a list names a tag in state RECOMPUTE, or there is none. -/
def State.againDue (s : State) (r : Run) : Bool :=
  match (r.blks.filter fun b => blkDir b = 1).filterMap (s.blkTag r.wing) with
  | [] => true
  | t :: _ => (s.tagRead r.wing t).state = 3

/-- Start of a wing's page-table row (R194) and of its sequence row (R170). -/
def State.ptAddr (s : State) (w slot : Nat) : Nat := addrOf (s.wr w Reg.wngKvPt) 20 + 64 * slot
def State.rowAddr (s : State) (w i : Nat) : Nat := addrOf (s.wr w Reg.wngGenSeq) 8 + 256 * i

/-- The slots of the entries of length table `n`, in order (Table 8.3). -/
def State.ltabSlots (s : State) (w n : Nat) : List Nat :=
  (upFrom 0 (s.peekN w (s.ltab w n) 4)).map fun e => bits (s.peekN w (s.ltab w n + 0x40 + 16 * e) 4) 18 14

/-- The table rows that the first issue of an entry reads, by slot: address and length. A PLAN reads the rows it may plan and a VERIFY those of its
table's entries (R171); the page walker reads the page-table row of each sequence it handles (R199). -/
def State.snapRows (s : State) (r : Run) : List (Nat × Nat × Nat) :=
  let c := r.cfg
  let w := r.wing
  let n := cwTable c
  if cwFunc c = 4 && bits (cwArg c 0) 0 4 = 0 then
    ((upFrom (bits (cwArg c 1) 0 14) (bits (cwArg c 2) 0 15)).filter fun i => i < s.seqCount w).map fun i => (i, s.rowAddr w i, 256)
  else if cwFunc c = 4 && bits (cwArg c 0) 0 4 = 2 then (s.ltabSlots w n).eraseDups.map fun i => (i, s.rowAddr w i, 256)
  else if cwFunc c = 2 && cwWalk c then
    (((s.ltabSlots w n).drop (bits (cwArg c 0) 0 16)).take (bits (cwArg c 0) 16 16)).eraseDups.map fun i => (i, s.ptAddr w i, 64)
  else []

/-- The rows of the first issue are read and kept; the walker holds the lists that its snapshots select (R206). -/
def State.takeSnaps (s : State) (core : Nat) (g : Bool) (r : Run) : State :=
  let rows := s.snapRows r
  let snaps := rows.map fun x => (x.1, s.peek r.wing r.bank x.2.1 x.2.2)
  let lt := s.ltab r.wing (cwTable r.cfg)
  let named : Bool := (cwFunc r.cfg = 4 && bits (cwArg r.cfg 0) 0 4 ≠ 0) || (cwFunc r.cfg = 2 && cwWalk r.cfg)
  let s := if named then s.fetchIn r.wing lt (0x40 + 16 * s.peekN r.wing lt 4) else s
  let s := rows.foldl (fun s x => s.fetchIn r.wing x.2.1 x.2.2) s
  s.modRun core g fun r => { r with
    snaps := snaps.foldl (fun t x => Tab.set t x.1 x.2) r.snaps
    held := if cwFunc r.cfg = 2 then r.held ++ snaps.map (fun x => (x.1, bits (fieldN x.2 0 4) 15 1)) else r.held }

/-- The first issue of an entry, before it reads or writes any block. The rows of a ragged entry are kept under 0, the step's verdict
(R249: 0 none, 1 APPLY, 2 SKIP) under 1, the vocabulary under 2, PDIM under 3. -/
def State.beginRun (s : State) (core : Nat) (g : Bool) : State :=
  match s.runAt core g with
  | none => s
  | some r =>
    if r.started then s
    -- a recompute that is not due ends at once and writes nothing (R238)
    else if cwAgain r.cfg && !s.againDue r then (s.modRun core g fun r => { r with started := true }).endRun core g 0
    else
    let s := s.sclAdvanceAll r.wing r.bank r.step r.blks
    let (p, _, s) := if cwRagged r.cfg then s.readN (s.entryReq r false) (s.ltab r.wing (cwTable r.cfg) + 4) 4 else (0, false, s)
    let v := match Tab.find (s.job r.wing).trn.verdicts r.step with
      | some 1 => 1
      | some _ => 2
      | none => 0
    let pdim := bits (s.wr r.wing Reg.wngKvGeom) 17 4 * 16
    let s := s.modRun core g fun r => { r with
      started := true, work := Tab.set (Tab.set (Tab.set (Tab.set r.work 0 p) 1 v) 2 (s.genVocab r.wing)) 3 pdim }
    match s.runAt core g with
    | some r => s.takeSnaps core g r
    | none => s

/-! ## Blocks -/

/-- The bytes of a slot's SRAM, as a read of Table 6.2 delivers them. -/
def State.sramRead (s : State) (a n : Nat) : List PByte × State := s.read { wing := none } a n

/-- Write into a slot's SRAM (R134). -/
def State.sramWrite (s : State) (a : Nat) (bs : List PByte) : State := s.write { wing := none } a bs

/-- Where a STORE to a tag was placed is kept in `work` under this number. -/
def storeKey (k : Nat) : Nat := 2 ^ 32 + k

/-- The block's scale record is one that R101 rejects, so that the block is poisoned (R154). -/
def State.sclBad (s : State) (r : Run) (b : Nat) : Bool × State :=
  if fmtTensor (blkFmt b) then (match s.sclRead r.wing r.bank (blkScl b) (blkFmt b) with | (x, s) => (x.isNone, s)) else (false, s)

/-- A STORE that stays in the module is made: its bytes go to memory, to its tag's place, or nowhere; poisoned where the block's scale record is
rejected (R154). The second code stream of a ragged split STORE to a tag follows the first in the bytes allocated (R234). -/
def State.storeNow (s : State) (core : Nat) (g : Bool) (r : Run) (k : Nat) : State :=
  let b := r.blks.getD k 0
  let base := s.halfBase core g (blkHalf b) + blkLoff b
  let dst : Option Nat := match s.blkTag r.wing b with
    | some _ => match Tab.find r.work (storeKey k) with | some a => some a | none => none
    | none => some (blkAddr b % 2 ^ 47)
  match dst with
  | none => s
  | some a =>
    let (bad, s) := s.sclBad r b
    let mark (bs : List PByte) : List PByte := if bad then bs.map fun y => (y.1, true) else bs
    let parts := r.moved k
    let tag := (s.blkTag r.wing b).isSome
    ((upFrom 0 parts.length).zip parts).foldl (fun s (y : Nat × Nat × Nat) =>
      let x := y.2
      let off := if tag then (parts.take y.1).foldl (fun a z => a + z.2) 0 else x.1
      let (bs, s) := s.sramRead (base + x.1) x.2
      s.write (s.blockReq r k) (a + off) (mark bs)) s

/-- The STOREs of a slot's entry that are issued and not retired, and stay in the module, are made. -/
def State.storesOpen (s : State) (core : Nat) (g : Bool) : State :=
  match s.runAt core g with
  | none => s
  | some r =>
    (r.issued.filter fun k => !r.retired.contains k && blkDir (r.blks.getD k 0) = 1).foldl (fun s k =>
      let m := blkAddr (r.blks.getD k 0) / 2 ^ 47
      if m = s.me || m = 0x1FFFF then s.storeNow core g r k else s) s

/-- The entry stops with STATUS FAULT (R339): writes already issued stand. -/
def State.faultRun (s : State) (core : Nat) (g : Bool) : State := (s.storesOpen core g).endRun core g 6

/-- Abandon the work of a slot (R55): writes issued and not retired are made, and its record has STATUS ABANDON and LATE_BY 16. Its non-finite
interrupt is one of the tread that this boundary ends (R84). -/
def State.abandon (s : State) (core : Nat) (guest : Bool) : State :=
  let s := s.storesOpen core guest
  match s.runAt core guest with
  | some r =>
    let s := (((s.sclRaise r).chargeEnd r).nfFire r State.fireNow).stage r.wing guest r.tread r.fid core r.rank r.ent (entCfg r.ent) 2
      (some { r with late := 16 })
    (s.orphanReqs (slotUnit core guest)).modCore core fun x => x.setRun guest none
  | none => s

/-- At a boundary the work of a slot passes one more boundary, and is abandoned at the 16th after the one at which it should have
ended (R55). -/
def State.ageRun (s : State) (core : Nat) (guest : Bool) : State :=
  match s.runAt core guest with
  | some r => if r.late ≥ 16 then s.abandon core guest else s.modRun core guest fun r => { r with late := r.late + 1 }
  | none => s

/-- Late work of every core passes one more boundary; the record of work abandoned here is written in the tread that begins (R55). -/
def State.ageAll (s : State) : State := s.cores.foldl (fun s x => (s.ageRun x.1 false).ageRun x.1 true) s

/-- The writes that a wing's entries have issued are made before the entries are abandoned by a wing reset (R86). -/
def State.landStores (s : State) (w : Nat) : State :=
  s.cores.foldl (fun (s : State) (x : Nat × Core) =>
    let mine (g : Bool) : Bool := match s.runAt x.1 g with | some r => r.wing = w | none => false
    let s := if mine false then s.storesOpen x.1 false else s
    if mine true then s.storesOpen x.1 true else s) s

/-- The core's next entry of the same slot, due in the tread after the present one, if it is a RUN entry (R157): of the flight that action 5 of the
next boundary leaves running, as the commands held now have it. The entry, and a bubble's guest entry, is read through the gallery (R124). -/
def State.nextEntry (s : State) (core : Nat) (g : Bool) : Option (Nat × Nat) × State :=
  match s.coreWing core with
  | none => (none, s)
  | some w =>
    let next := ({ s with time := { s.time with tread := treadAdd s.tread 1 } }.flightAction w).flightIndex w
    let fl := (next.job w).fl
    match fl.active, idxOf (s.coreSet w) core with
    | some a, some rank =>
      if !fl.live then (none, s)
      else
        let i := fl.index
        let s := s.fetchIn w (a.base + (i * a.n + rank) * 16) 16
        let e := leNat (s.peek w (s.bankNow w) (a.base + (i * a.n + rank) * 16) 16)
        if !g then (if entKind e = 1 then some (w, e) else none, s)
        else if entKind e = 2 && s.lends w (entGuest e) then
          let s := match s.guestFlight (entGuest e) w with
            | some f => s.fetchIn (entGuest e) (f.base + (i * f.n + rank) * 16) 16
            | none => s
          match s.guestEntry (entGuest e) w a i rank with
          | some y => (if entKind y = 1 then some (entGuest e, y) else none, s)
          | none => (none, s)
        else (none, s)
    | _, _ => (none, s)

/-- Gallery warming after the last LOAD has issued (R157): the lines of the next entry's LOAD blocks, in list order. How far it gets before
the boundary is open. -/
def State.warmNext (s : State) (core : Nat) (g : Bool) : State :=
  match s.nextEntry core g with
  | (none, s) => s
  | (some (w, e), s) =>
    let loads := ((upFrom 0 (entCount e)).map fun i => leNat (s.peek w (s.bankNow w) (entList e + 32 * i) 32)).filter fun b =>
      let m := blkAddr b / 2 ^ 47
      blkDir b = 0 && (m = s.me || m = 0x1FFFF) && s.mappedIn w (s.bankNow w) [1, 2] (blkAddr b % 2 ^ 47) (blkLen b)
    let (fv, s) := (s.fetchIn w (entList e) (32 * entCount e)).free
    (loads.take (fv % (loads.length + 1))).foldl (fun s b => (s.read (s.reqOf w) (blkAddr b % 2 ^ 47) (blkLen b)).2) s

/-- END_CLK of a write issued now: 37,599 in the gap of a step (R54). -/
def State.endClkAt (s : State) (clk : Nat) : Nat := if s.time.inGap.isSome then 37599 else clk

/-- The next block that a queue of the stream unit may issue: loads and warms, or stores, in list order (R155). -/
def Run.nextOf (r : Run) (stores : Bool) : Option Nat :=
  (upFrom 0 r.blks.length).find? fun k => (blkDir (r.blks.getD k 0) = 1) = stores && !r.issued.contains k

/-- Blocks of a queue issued and not retired. -/
def Run.inFlight (r : Run) (stores : Bool) : Nat :=
  (r.issued.filter fun k => !r.retired.contains k && ((blkDir (r.blks.getD k 0) = 1) = stores)).length

/-- No LOAD of the list is left to issue. -/
def Run.loadsIssued (r : Run) : Bool := (upFrom 0 r.blks.length).all fun k => blkDir (r.blks.getD k 0) ≠ 0 || r.issued.contains k

/-- The stream unit may issue block `k` at `clk` (R155, Table 2.1). Work goes on through the gap of a step (R43). -/
def State.mayIssue (s : State) (r : Run) (k clk : Nat) : Bool :=
  let b := r.blks.getD k 0
  let st : Bool := blkDir b = 1
  let away := let m := blkAddr b / 2 ^ 47; m ≠ s.me && m ≠ 0x1FFFF
  k < r.blks.length && !r.done && r.nextOf st = some k && r.inFlight st < 64 && (s.time.inGap.isSome || ((r.late > 0 || 32 ≤ clk) && clk < 37472)) &&
    (!st || blkHalf b = 0 || r.fnDone) && !(away && (s.wing r.wing).quiet)

/-- The memory side of a block is refused (R26, R49, R154, R339). -/
def State.blkRefused (s : State) (r : Run) (b : Nat) : Bool :=
  let m := blkAddr b / 2 ^ 47
  let a := blkAddr b % 2 ^ 47
  if m = s.me || m = 0x1FFFF then
    (s.blkTag r.wing b).isNone &&
      (!s.mappedIn r.wing r.bank [1, 2] a (blkLen b) || (blkDir b = 1 && s.barred r.wing a (blkLen b)))
  else s.hallCount ≤ m || blkDir b = 2

/-- STREAM_BLOCK_ISSUE (R155). -/
def State.opIssue (s : State) (core : Nat) (g : Bool) (k clk : Nat) : State :=
  match s.runAt core g with
  | none => s
  | some r0 =>
    if !s.mayIssue r0 k clk then s else
    let s := (s.at_ clk).beginRun core g
    match s.runAt core g with
    | none => s
    | some r =>
      let b := r.blks.getD k 0
      let dir := blkDir b
      let m := blkAddr b / 2 ^ 47
      let a := blkAddr b % 2 ^ 47
      let base := s.halfBase core g (blkHalf b) + blkLoff b
      if s.blkRefused r b then (s.refuse r.wing a (s.hallCount ≤ m && m ≠ 0x1FFFF)).faultRun core g
      else if dir ≠ 2 && s.sramRefused core g base (blkLen b) then (s.refuse r.wing base false).faultRun core g
      else
        let s := s.modRun core g fun r => { r with
          issued := r.issued ++ [k], endClk := if dir = 1 then s.endClkAt clk else r.endClk
          via := Tab.set r.via k (s.ways r.wing, s.ctxSwap r.wing) }
        let s := match s.blkTag r.wing b with
          | some t =>
            if dir = 1 && !r.unapplied then
              let n := r.movedBytes k
              let (p, s) := (s.fetchIn r.wing (s.tagAddr r.wing t) 16).tagStore r.wing t r.step n (cwAgain r.cfg)
              match p with
              | some x =>
                -- the place of a tag's bytes may be read-only to the wing, as any other (R49)
                if s.barred r.wing x n then (s.refuse r.wing x false).faultRun core g
                else s.modRun core g fun r => { r with work := Tab.set r.work (storeKey k) x }
              | none => s
            else s
          | none =>
            if m = s.me || m = 0x1FFFF then s
            else
              let own := blockOwn (slotUnit core g) k
              -- the bytes of a block whose scale record is rejected leave the module poisoned (R101, R154)
              let (bad, s) := if dir = 1 then s.sclBad r b else (false, s)
              (r.moved k).foldl (fun (s : State) (x : Nat × Nat) =>
                if dir = 1 then
                  let (bs, s) := s.sramRead (base + x.1) x.2
                  s.remote r.wing r.wing r.rank own x.1 m (a + x.1) x.2 (blkPrio b) 2 0 (some (if bad then bs.map fun (y : PByte) => (y.1, true) else bs))
                else s.remote r.wing r.wing r.rank own x.1 m (a + x.1) x.2 (blkPrio b) 0 0 none) s
        match s.runAt core g with
        | some r => if dir = 0 && r.loadsIssued then s.warmNext core g else s
        | none => s

/-- The bytes that a LOAD delivers (R154, R237): from its tag's place, from the module, or from the answers of another module. The second code
stream of a ragged split tag block lies behind the first, where its STORE put it (R234). -/
def State.loadBytes (s : State) (core : Nat) (g : Bool) (r : Run) (k : Nat) : List (Nat × List PByte) × Bool × State :=
  let b := r.blks.getD k 0
  let m := blkAddr b / 2 ^ 47
  let a := blkAddr b % 2 ^ 47
  let q := s.blockReq r k
  match s.blkTag r.wing b with
  | some t =>
    let ranges := r.moved k
    let s := s.fetchIn r.wing (s.tagAddr r.wing t) 16
    match s.tagSource r.wing t (blkLen b) with
    | none => (ranges.map fun x => (x.1, List.replicate x.2 (0, true)), false, s)
    | some (p, have_) =>
      let (out, s) := ranges.foldl (fun (acc : (List (Nat × List PByte) × Nat) × State) x =>
        let off := acc.1.2
        let n := min x.2 (have_ - off)
        let (bs, s) := acc.2.read q (p + off) n
        ((acc.1.1 ++ [(x.1, bs ++ List.replicate (x.2 - n) (0, true))], off + x.2), s)) (([], 0), s)
      (out.1, false, s)
  | none =>
    if m = s.me || m = 0x1FFFF then
      let (out, s) := (r.moved k).foldl (fun (acc : List (Nat × List PByte) × State) x =>
        let (bs, s) := acc.2.read q (a + x.1) x.2
        (acc.1 ++ [(x.1, bs)], s)) ([], s)
      (out, false, s)
    else
      let (rs, s) := s.takeReqs (blockOwn (slotUnit core g) k)
      -- requests of one range follow one another; the answers come back in issue order
      let data := rs.flatMap (·.data)
      let out := (r.moved k).foldl (fun (acc : List (Nat × List PByte) × Nat) x =>
        (acc.1 ++ [(x.1, (data.drop acc.2).take x.2)], acc.2 + x.2)) ([], 0)
      (out.1, rs.any (·.fault), s)

/-- The bytes of this module's memory that a block reaches: its own range, or the place of its tag's bytes (R234, R237). -/
def State.blkRange (s : State) (r : Run) (k : Nat) : Option (Nat × Nat) :=
  let b := r.blks.getD k 0
  match s.blkTag r.wing b with
  | some t => if blkDir b = 1 then (Tab.find r.work (storeKey k)).map fun a => (a, r.movedBytes k) else s.tagSource r.wing t (blkLen b)
  | none => if blkAddr b / 2 ^ 47 = s.me ∨ blkAddr b / 2 ^ 47 = 0x1FFFF then some (blkAddr b % 2 ^ 47, blkLen b) else none

/-- Two blocks of an entry share a line of this module's memory, or a tag. -/
def State.blkMeet (s : State) (r : Run) (j k : Nat) : Bool :=
  let tag (i : Nat) : Option Nat := s.blkTag r.wing (r.blks.getD i 0)
  ((tag j).isSome && tag j = tag k) ||
    (match s.blkRange r j, s.blkRange r k with
    | some (a, n), some (b, m) => n ≠ 0 && m ≠ 0 && a / 256 ≤ (b + m - 1) / 256 && b / 256 ≤ (a + n - 1) / 256
    | _, _ => false)

/-- Accesses of one entry to one line take effect in issue order (R125): no earlier block that shares a line with block `k` is still open. -/
def State.inOrder (s : State) (r : Run) (k : Nat) : Bool :=
  (r.issued.takeWhile (· ≠ k)).all fun j => r.retired.contains j || !s.blkMeet r j k

/-- BLOCK_RETIRE (R155): a LOAD's bytes are in local SRAM, a STORE's are accepted at the point of coherence, a WARM's lines are in the
gallery. -/
def State.opRetire (s : State) (core : Nat) (g : Bool) (k clk : Nat) : State :=
  match s.runAt core g with
  | none => s
  | some r =>
    let b := r.blks.getD k 0
    if !(r.issued.contains k) || r.retired.contains k || !s.inOrder r k || !s.reqsDone (blockOwn (slotUnit core g) k) then s else
    let s := s.at_ clk
    let mark (s : State) : State := s.modRun core g fun r => { r with retired := r.retired ++ [k], blocks := r.blocks + 1 }
    if blkDir b = 2 then mark (s.read (s.blockReq r k) (blkAddr b % 2 ^ 47) (blkLen b)).2
    else if blkDir b = 1 then
      let m := blkAddr b / 2 ^ 47
      if m = s.me || m = 0x1FFFF then mark (s.storeNow core g r k)
      else
        let (rs, s) := s.takeReqs (blockOwn (slotUnit core g) k)
        if rs.any (·.fault) then s.faultRun core g else mark s
    else
      let (parts, bad, s) := s.loadBytes core g r k
      let base := s.halfBase core g (blkHalf b) + blkLoff b
      if bad then s.faultRun core g
      -- the guest quarter may have changed hands since the issue (R75)
      else if s.sramRefused core g base (blkLen b) then (s.refuse r.wing base false).faultRun core g
      else
        let (rej, s) := s.sclBad r b
        let s := parts.foldl (fun s x => s.sramWrite (base + x.1) (if rej then x.2.map fun y => (y.1, true) else x.2)) s
        let s := match s.blkTag r.wing b with | some t => s.tagLoaded r.wing t | none => s
        mark s

/-- ENTRY_WORK_END (R155): the function has ended and every block has retired. -/
def State.opWorkEnd (s : State) (core : Nat) (g : Bool) (clk : Nat) : State :=
  match s.runAt core g with
  | none => s
  | some r =>
    if r.fnDone && r.retired.length = r.blks.length then
      let s := s.at_ clk
      (s.modRun core g fun r => { r with endClk := if r.blks.any (fun b => blkDir b = 1) then r.endClk else s.endClkAt clk }).endRun core g 0
    else s

end Sys2Proof.Machine
end

