-- ==== Sys2Proof/Machine/Func.lean ====
section
/-!
DEFINITION. Functions of a core: operands and outputs through blocks, the epilogue, and VECTOR, CONVERT, MATMUL and XFORM
(spec/03_core.md R64 to R69, R79, R80, R84, R85, R484, R485, spec/05, spec/07 R156, R486, spec/10 R225).
-/
namespace Sys2Proof.Machine

/-- A vector element with its poison. -/
abbrev El := Fp × Bool
/-- An array element: hi and lo values with their poison. -/
abbrev PEl := Pair × Bool

/-- Elements that `n` bytes hold in a format. -/
def FmtInfo.elems (f : FmtInfo) (n : Nat) : Nat := if f.kind ≥ 2 then n / f.group * 256 else n * 8 / f.ebits

/-- Elements from the start of one stored row to the next (R92). -/
def FmtInfo.pitch (f : FmtInfo) (width : Nat) : Nat := if f.kind ≥ 2 then (width + 31) / 32 * 32 else width

/-- The HALF = 1 blocks of one use and direction on one side of the list, in list order (R486). -/
def Run.role (r : Run) (use dir side : Nat) : List Nat :=
  (upFrom 0 r.blks.length).filter fun k =>
    let b := r.blks.getD k 0
    blkUse b = use && blkDir b = dir && blkHalf b = 1 && r.side k = side

/-- The blocks that place an output: STOREs of the use, else LOADs of it (R486). -/
def Run.outRole (r : Run) (use side : Nat) : List Nat := if (r.role use 1 side).isEmpty then r.role use 0 side else r.role use 1 side

/-- Format of a role: its first block's. -/
def Run.roleFmt (r : Run) (ks : List Nat) : Option FmtInfo := match ks with | k :: _ => fmtInfo (blkFmt (r.blks.getD k 0)) | [] => none

/-- The scale exponent of a block, and whether R101 accepts its record; a rejected record leaves the exponent open. -/
def State.blkScale (s : State) (r : Run) (b : Nat) (f : FmtInfo) : Int × Bool × State :=
  if f.kind ≠ 1 then (0, true, s) else
  match s.sclRead r.wing r.bank (blkScl b) (blkFmt b) with
  | (some rec, s) => (sclExp f rec (blkAge b), true, s)
  | (none, s) => let (v, s) := s.free; (toSigned 8 v, false, s)

/-- How a role's split blocks are read (R113): as pairs, their hi codes alone, or by the vector engine as hi + lo rounded once. -/
inductive Take | pair | hi | vec
deriving DecidableEq, Repr

/-- How an array takes an operand that Table 5.3 splits from PASS `n` on. -/
def takeFor (pass n : Nat) : Take := if n ≤ pass then .pair else .hi

/-- A function's own access to its core's SRAM is refused (R75, R339): the entry stops. -/
def State.fnRefuse (s : State) (core : Nat) (g : Bool) (a : Nat) : State :=
  match s.runAt core g with
  | some r => if r.fault then s else (s.refuse r.wing a false).modRun core g fun r => { r with fault := true }
  | none => s

/-- A function reads its slot's SRAM. -/
def State.fnRead (s : State) (core : Nat) (g : Bool) (a n : Nat) : List PByte × State :=
  if s.sramRefused core g a n then (List.replicate n (0, true), s.fnRefuse core g a) else s.sramRead a n

/-- A function writes its slot's SRAM; an entry that was refused writes no more. -/
def State.fnPut (s : State) (core : Nat) (g : Bool) (a : Nat) (bs : List PByte) : State :=
  match s.runAt core g with
  | some r => if r.fault then s else if s.sramRefused core g a bs.length then s.fnRefuse core g a else s.sramWrite a bs
  | none => s

/-- The elements of one block in the work half, as `t` takes them, and their poison. -/
def State.blkElems (s : State) (core : Nat) (g : Bool) (r : Run) (t : Take) (k : Nat) : List PEl × State :=
  let b := r.blks.getD k 0
  match fmtInfo (blkFmt b) with
  | none => ([], s)
  | some f =>
    let base := s.halfBase core g 1 + blkLoff b
    let n := match r.moved k with | x :: _ => min x.2 (blkSpan b) | [] => 0
    let (e, ok, s) := s.blkScale r b f
    let (hb, s) := s.fnRead core g base n
    let hi := decodeBytes f e hb
    if blkSplit b && t ≠ .hi then
      let (lb, s) := s.fnRead core g (base + blkLen b / 2) n
      let lo := decodeBytes f e lb
      ((hi.zip lo).map fun x => ((if t = .vec then (rne32 (x.1.1.add x.2.1), Fp.zero) else (x.1.1, x.2.1)), x.1.2 || x.2.2 || !ok), s)
    else (hi.map fun x => ((x.1, Fp.zero), x.2 || !ok), s)

/-- The element stream of a role, and how many of its blocks are poisoned (R85, R486). -/
def State.operand (s : State) (core : Nat) (g : Bool) (r : Run) (t : Take) (ks : List Nat) : List PEl × Nat × State :=
  ks.foldl (fun (acc : List PEl × Nat × State) k =>
    let (es, s) := acc.2.2.blkElems core g r t k
    (acc.1 ++ es, acc.2.1 + b2n (es.any (·.2)), s)) ([], 0, s)

/-- The value of an element that the vector engine reads: a split block's hi + lo is formed as it is read (`Take.vec`). -/
def PEl.vec (x : PEl) : El := (x.1.1, x.2)

/-- Element `i` of a stream; one beyond the end reads as +0 (R486). -/
def elAt (xs : List PEl) (i : Nat) : PEl := xs.getD i ((Fp.zero, Fp.zero), false)

/-! ## Draws (R79, R80) -/

/-- The next draw of a lane of a run. -/
def Run.draw (r : Run) (core lane : Nat) : Nat × Run :=
  let key := lane * 256 + cwStream r.cfg
  let j := Tab.cnt r.draws key
  (draw64 (fun i => bits r.key (32 * i) 32) r.tread core lane (cwStream r.cfg) j, { r with draws := Tab.set r.draws key (j + 1) })

/-- Values made ready for a conversion: element i at position `pos` of its output is converted stochastically where `sr` says so, and takes a
draw of lane i mod 64 (R80). -/
def Run.ready (r : Run) (core : Nat) (sr : Nat → Bool) (i pos : Nat) : List El → List OutEl × Run
  | [] => ([], r)
  | x :: xs =>
    if sr pos then
      let (d, r) := r.draw core (i % 64)
      let (ys, r) := r.ready core sr (i + 1) (pos + 1) xs
      (⟨x.1, x.2, .sr d⟩ :: ys, r)
    else
      let (ys, r) := r.ready core sr (i + 1) (pos + 1) xs
      (⟨x.1, x.2, .rne⟩ :: ys, r)

/-- Rows made ready in order, each at its stored place (R92). -/
def Run.readyRows (r : Run) (core : Nat) (sr : Nat → Bool) (f : FmtInfo) (i pos : Nat) : List (List El) → List (List OutEl) × Run
  | [] => ([], r)
  | x :: xs =>
    let (y, r) := r.ready core sr i pos x
    let (ys, r) := r.readyRows core sr f (i + x.length) (pos + f.pitch x.length) xs
    (y :: ys, r)

/-! ## Outputs -/

/-- Write units of outputs into the output blocks of a role, in list order (R486), with the statistics of the entry. -/
def State.putUnits (s : State) (core : Nat) (g : Bool) (f : FmtInfo) : List Nat → List (List OutEl) → State
  | [], _ => s
  | k :: ks, us =>
    match us, s.runAt core g with
    | [], _ => s
    | _, none => s
    | _, some r =>
      let b := r.blks.getD k 0
      let span := blkSpan b
      let n := if f.kind ≥ 2 then f.elems span / 32 else f.elems span
      let mine := us.take n
      let (e, ok, s) := s.blkScale r b f
      let base := s.halfBase core g 1 + blkLoff b
      let mark (bs : List PByte) : List PByte := (if ok then bs else bs.map fun y => (y.1, true)).take span
      let (st, s) :=
        if blkSplit b then
          let (hi, lo, st) := encodeSplit f e mine
          (st, (s.fnPut core g base (mark hi)).fnPut core g (base + blkLen b / 2) (mark lo))
        else
          let (bs, st) := encodeUnits f e mine
          (st, s.fnPut core g base (mark bs))
      let s := if f.kind = 1 && ok then s.sclCount r.wing r.bank (blkScl b) st.saturated else s
      let s := s.modRun core g fun r => { r with
        vanished := r.vanished + st.vanished, saturated := r.saturated + (if f.kind = 1 then st.saturated else 0)
        nfCount := r.nfCount + st.nonFinite, nf := r.nf || st.nonFinite ≠ 0
        pzn := r.pzn || !ok
        amax := if f.kind = 1 && ok then Tab.set r.amax (blkScl b) (max (Tab.cnt r.amax (blkScl b)) st.amax) else r.amax }
      s.putUnits core g f ks (us.drop n)

/-- Which stored positions of a role a stochastic conversion covers: those in its blocks that are not split (R114, R115). An element beyond the
blocks is not converted. -/
def drawsAt : List (Nat × Bool) → Nat → Bool
  | [], _ => false
  | (n, d) :: rest, i => if i < n then d else drawsAt rest (i - n)

/-- Write rows of results in the format of an output role. -/
def State.putRows (s : State) (core : Nat) (g : Bool) (use side : Nat) (rows : List (List El)) : State :=
  match s.runAt core g with
  | none => s
  | some r =>
    let ks := r.outRole use side
    match r.roleFmt ks with
    | none => s
    | some f =>
      let sr := (cwRnd r.cfg || cwGrad r.cfg) && f.code ≠ 1
      let spans := ks.map fun k => let b := r.blks.getD k 0; (f.elems (blkSpan b), sr && !blkSplit b)
      let (els, r') := r.readyRows core (drawsAt spans) f 0 0 rows
      (s.modRun core g fun _ => r').putUnits core g f ks (f.units els)

/-- The values held at the output location before the entry writes it (R106, R486). -/
def State.initial (s : State) (core : Nat) (g : Bool) (r : Run) (use side : Nat) : List PEl × Nat × State :=
  if cwAcc r.cfg then s.operand core g r .vec (r.outRole use side) else ([], 0, s)

/-! ## The epilogue (Table 3.5) -/

/-- What the stages keep along a row and along the entry: the SQACC partial, the row's maximum and sum with their poison. -/
structure Epi where
  sq : Fp
  mx : El
  sm : El
deriving DecidableEq, Repr

/-- The stages of a word: the chain ends at PASS. -/
def cwStages (c : Nat) : List Nat := ((upFrom 0 4).map (cwEpi c)).takeWhile (· ≠ 0)

/-- One element through the chain. -/
def epiEl (c : Nat) (bias mulb : El) (top : Fp) : List Nat → El → Epi → El × Epi
  | [], x, st => (x, st)
  | k :: ks, x, st =>
    let go (v : Fp) (p : Bool) (st : Epi) : El × Epi := epiEl c bias mulb top ks (v, p) st
    match k with
    | 1 => go (fmul x.1 (Fp.of32 (cwS0 c))) x.2 st
    | 2 => go (fadd x.1 (Fp.of32 (cwS1 c))) x.2 st
    | 3 => go (fadd x.1 bias.1) (x.2 || bias.2) st
    | 4 => go (stageRelu x.1) x.2 st
    | 5 => go (stageGelu x.1) x.2 st
    | 6 => go (stageSilu x.1) x.2 st
    | 7 => go (stageExp x.1) x.2 st
    | 8 => go (stageRecip x.1) x.2 st
    | 9 => go (stageRsqrt x.1) x.2 st
    | 10 => go x.1 x.2 { st with sq := ffma x.1 x.1 st.sq }
    | 11 => go x.1 x.2 { st with mx := (rowMax st.mx.1 x.1, st.mx.2 || x.2) }
    | 12 => go x.1 x.2 { st with sm := (fadd st.sm.1 x.1, st.sm.2 || x.2) }
    | 13 => go (fmul x.1 mulb.1) (x.2 || mulb.2) st
    | 14 => go (stageClamp top x.1) x.2 st
    | _ => go x.1 x.2 st

/-- One row through the chain: elements from column `col` with index `i`. -/
def epiRow (c : Nat) (bias mulb : Nat → El) (top : Nat → Fp) : Nat → Nat → List El → Epi → List El × Epi
  | _, _, [], st => ([], st)
  | col, i, x :: xs, st =>
    let (y, st) := epiEl c (bias col) (mulb i) (top i) (cwStages c) x st
    let (ys, st) := epiRow c bias mulb top (col + 1) (i + 1) xs st
    (y :: ys, st)

/-- A number of one FP32 element in the work half with its poison. -/
def State.slotRead (s : State) (core : Nat) (g : Bool) (a : Nat) : El × State :=
  let (b, s) := s.fnRead core g a 4
  ((Fp.of32 (leNat (b.map (·.1))), b.any (·.2)), s)

def fpBytes (x : El) : List PByte := (leBytes 4 x.1.bits32).map fun b => (b, x.2)

/-- Number in `work` of the partial of an accumulator of Table 11.6 (R245). -/
def partKey (acc : Nat) : Nat := 16 + acc

/-- A run's FP32 partial. -/
def Run.part (r : Run) (acc : Nat) : Fp := Fp.of32 (Tab.cnt r.work (partKey acc))

def Run.setPart (r : Run) (acc : Nat) (x : Fp) : Run := { r with work := Tab.set r.work (partKey acc) x.bits32 }

/-- Rows through the epilogue, with the side slots of R485 and the partial of SQACC. `keep`: the row's slots hold what an earlier element of the
entry left (the second half of an INDEP entry), or ACC = 1 keeps them. -/
def State.epilogue (s : State) (core : Nat) (g keep : Bool) (bias mulb : Nat → El) (top : Nat → Fp) (width : Nat) :
    Nat → List (List El) → List (List El) × State
  | _, [] => ([], s)
  | row, x :: xs =>
    match s.runAt core g with
    | none => ([], s)
    | some r =>
      let st := cwStages r.cfg
      let slot := s.halfBase core g 1 + halfSize g - 8 * (row + 1)
      let (m0, s) := if st.contains 11 && keep then s.slotRead core g slot else ((Fp.inf true, false), s)
      let (t0, s) := if st.contains 12 && keep then s.slotRead core g (slot + 4) else ((Fp.zero, false), s)
      let acc := bits (cwArg r.cfg 0) 0 3
      let (ys, e) := epiRow r.cfg bias mulb top 0 (row * width) x ⟨r.part acc, m0, t0⟩
      let s := if st.contains 11 && !x.isEmpty then s.fnPut core g slot (fpBytes e.mx) else s
      let s := if st.contains 12 && !x.isEmpty then s.fnPut core g (slot + 4) (fpBytes e.sm) else s
      let s := if st.contains 10 then s.modRun core g fun r => r.setPart acc e.sq else s
      let s := s.charge (some r.wing) Acf.vecOps (x.length * (st.length + 1))
      let (rest, s) := s.epilogue core g keep bias mulb top width (row + 1) xs
      (ys :: rest, s)

/-- The CLAMP bound of each output element: the finite range of FMT_Y with the scale of the block that takes it (log entry 9). -/
def State.tops (s : State) (r : Run) (use side : Nat) : List (Nat × Fp) × State :=
  (r.outRole use side).foldl (fun (acc : List (Nat × Fp) × State) k =>
    let b := r.blks.getD k 0
    match fmtInfo (blkFmt b) with
    | none => acc
    | some f =>
      let (e, _, s) := acc.2.blkScale r b f
      (acc.1 ++ [(f.elems (blkSpan b), clampTop f e)], s)) ([], s)

/-- The bound for element `i`. -/
def topAt : List (Nat × Fp) → Nat → Fp
  | [], _ => Fp.inf false
  | (n, t) :: rest, i => if i < n then t else topAt rest (i - n)

/-- The stored position of element `i` of rows of `width` elements (R92). -/
def FmtInfo.placeOf (f : FmtInfo) (width i : Nat) : Nat := i / width * f.pitch width + i % width

/-- Mark inputs as poisoned (R83, R85). -/
def State.inputs (s : State) (core : Nat) (g : Bool) (blocks : Nat) : State :=
  if blocks = 0 then s else s.modRun core g fun r => { r with pzn := true, pznBlocks := r.pznBlocks + blocks }

/-- The operand of the epilogue's stages: bias by column, second stream by element. -/
def State.sideStreams (s : State) (core : Nat) (g : Bool) (r : Run) (side : Nat) : List El × List PEl × State :=
  let st := cwStages r.cfg
  let (b, nb, s) := if st.contains 3 then s.operand core g r .vec (r.role 4 0 side) else ([], 0, s)
  let (m, nm, s) := if st.contains 13 then s.operand core g r .vec (r.role 5 0 side) else ([], 0, s)
  (b.map PEl.vec, m, s.inputs core g (nb + nm))

/-- The function of an entry has ended: what it writes in its work half is written. An access of its own that was refused stops the entry
with STATUS FAULT (R339). -/
def State.fnEnd (s : State) (core : Nat) (g : Bool) : State :=
  match s.runAt core g with
  | some r => if r.fault then s.faultRun core g else s.modRun core g fun r => { r with fnDone := true }
  | none => s

/-- A write that the function makes by itself to a wing address (a table or an output record); a refused one stops the entry. -/
def State.fnWrite (s : State) (core : Nat) (g : Bool) (r : Run) (a : Nat) (bs : List Byte) : State :=
  match s.runAt core g with
  | none => s
  | some r' =>
    if r'.fault then s
    else if s.mappedIn r.wing r.bank [1, 2] a bs.length && !s.barred r.wing a bs.length then s.write (s.entryReq r false) a (clean bs)
    else (s.refuse r.wing a false).modRun core g fun r => { r with fault := true }

/-- A function row: the entry has this function, every LOAD it takes as an operand has retired, and the function has not run yet
(R156). -/
def State.fnRow (s : State) (core : Nat) (g : Bool) (is : Nat → Bool) (body : State → Run → State) : State :=
  match s.runAt core g with
  | none => s
  | some r =>
    let ready := (upFrom 0 r.blks.length).all fun k =>
      let b := r.blks.getD k 0
      !(blkDir b = 0 && blkHalf b = 1) || r.retired.contains k
    if r.fnDone || !ready || !is r.cfg then s else
    let s := s.beginRun core g
    match s.runAt core g with
    | none => s
    | some r => if cwRagged r.cfg && cwFunc r.cfg ≠ 4 && r.rows = 0 then s.fnEnd core g else (body s r).fnEnd core g

/-- VECTOR and CONVERT (R484, R286): decode, add, epilogue, encode, element by element in one row. -/
def State.vectorFn (s : State) (core : Nat) (g : Bool) (r : Run) : State :=
  let (xs, nx, s) := s.operand core g r .vec (r.role 0 0 0)
  let (c0, nc, s) := s.initial core g r 2 0
  let s := s.inputs core g (nx + nc)
  let (bias, mulb, s) := s.sideStreams core g r 0
  let (tp, s) := s.tops r 2 0
  let vals := ((upFrom 0 xs.length).zip xs).map fun (i, x) =>
    let v := PEl.vec x
    if cwAcc r.cfg then let c := PEl.vec (elAt c0 i); (fadd v.1 c.1, v.2 || c.2) else v
  let (rows, s) := s.epilogue core g (cwAcc r.cfg) (fun col => bias.getD col (Fp.zero, false)) (fun i => PEl.vec (elAt mulb i)) (topAt tp) vals.length 0 [vals]
  s.putRows core g 2 0 rows

/-! ## Array products -/

/-- Element (r, c) of a matrix stored by rows of `width` elements in a format. -/
def matAt (f : FmtInfo) (xs : List PEl) (width r c : Nat) : PEl := elAt xs (r * f.pitch width + c)

/-- The stationary operand: contraction k, column n. A block-scaled one is stored with its contraction dimension innermost (R93). -/
def statAt (f : FmtInfo) (xs : List PEl) (kLen nLen k n : Nat) : PEl := if f.kind ≥ 2 then matAt f xs kLen n k else matAt f xs nLen k n

/-- One output element with its poison. -/
def prodEl (pass kLen : Nat) (c : El) (a b : Nat → PEl) : El :=
  let ts := (upFrom 0 kLen).map fun k => (a k, b k)
  (dotProduct pass c.1 (ts.map fun t => (t.1.1, t.2.1)), c.2 || ts.any fun t => t.1.2 || t.2.2)

/-- The rows of a product. -/
def product (pass rows kLen nLen : Nat) (c : Nat → Nat → El) (a : Nat → Nat → PEl) (b : Nat → Nat → PEl) : List (List El) :=
  (upFrom 0 rows).map fun m => (upFrom 0 nLen).map fun n => prodEl pass kLen (c m n) (a m) fun k => b k n

/-! ## Adapters (R225) -/

/-- The generation an adapter handle holds for a row: FMT, rank, ALPHA, site directory, sites; none when AGEN is neither. -/
structure AdpGen where
  fmt : Nat
  rank : Nat
  alpha : Nat
  dir : Nat
  sites : Nat
deriving DecidableEq, Repr

def adpGen (e : List Byte) (agen : Nat) : Option AdpGen :=
  let w0 := fieldN e 0 4
  let w4 := fieldN e 4 4
  if bits w0 30 2 = 1 && bits w0 0 16 = agen then some ⟨bits w0 24 5, bits w0 16 8 + 1, fieldN e 32 4, fieldN e 16 8, bits (fieldN e 40 4) 0 13⟩
  else if bit w0 29 && bits w4 16 16 = agen then some ⟨bits w4 8 5, bits w4 0 8 + 1, fieldN e 36 4, fieldN e 24 8, bits (fieldN e 44 4) 0 13⟩
  else none

/-- Table 5.1: class of a format code: 0 I, 1 F8, 2 F4, 3 H, 4 none. -/
def fmtClass (c : Nat) : Nat :=
  if c = 9 ∨ c = 15 then 0
  else if c = 4 ∨ c = 5 ∨ c = 6 ∨ c = 7 ∨ (10 ≤ c ∧ c ≤ 13) ∨ c = 16 ∨ c = 17 then 1
  else if c = 8 ∨ c = 14 ∨ c = 18 then 2
  else if c = 2 ∨ c = 3 then 3 else 4

/-- Table 5.2: an array accepts the pair (streamed, stationary). -/
def pairOk (x w : Nat) : Bool :=
  match fmtClass x, fmtClass w with
  | 0, 0 => true
  | 1, 1 => true
  | 1, 2 => true
  | 2, 1 => true
  | 2, 2 => true
  | 3, 1 => true
  | 3, 2 => true
  | 3, 3 => x = w
  | _, _ => false

/-- Read `rows` stored rows of `width` elements at a wing's address. -/
def State.matRead (s : State) (q : Req) (f : FmtInfo) (a rows width : Nat) : List PEl × State :=
  let (b, s) := s.read q a (f.rowsBytes rows width)
  ((decodeBytes f 0 b).map fun x => ((x.1, Fp.zero), x.2), s)

/-- The length-table entry that holds row `m` of a step: its slot (Table 8.3). -/
def State.rowSlot (s : State) (w n m : Nat) : Option Nat :=
  let lt := s.ltab w n
  (((upFrom 0 (s.peekN w lt 4)).map fun e => (s.peekN w (lt + 0x40 + 16 * e) 4, s.peekN w (lt + 0x48 + 16 * e) 4)).find? fun x =>
    bits x.2 0 16 ≤ m && m < bits x.2 0 16 + bits x.2 16 16).map fun x => bits x.1 18 14

/-- Adapter terms of one row of a ragged product (R225). `x`: the streamed row; `ys`: the row's FP32 results. -/
def State.adaptRow (s : State) (core : Nat) (g : Bool) (r : Run) (m : Nat) (x : List PEl) (ys : List El) : List El × Bool × State :=
  let w := r.wing
  match s.rowSlot w (cwTable r.cfg) m with
  | none => (ys, false, s)
  | some slot =>
    let row := addrOf (s.wr w Reg.wngGenSeq) 8 + 256 * slot
    let h0 := s.peekN w row 4
    if bit h0 16 then (ys, false, s)
    else
      let poison := ys.map fun y => (y.1, true)
      let e := s.peek w (s.bankNow w) (addrOf (s.wr w Reg.wngAdp) 6 + 64 * bits h0 0 12) 64
      let s := (s.fetchIn w row 32).fetchIn w (addrOf (s.wr w Reg.wngAdp) 6 + 64 * bits h0 0 12) 64
      -- the generation that PLAN fixed (R179)
      match adpGen e ((Tab.find (s.job w).gen.agens (cwTable r.cfg * 16384 + slot)).getD (bits (s.peekN w (row + 28) 4) 16 16)) with
      | none => (poison, true, s)
      | some a =>
        let site := bits (cwArg r.cfg 2) 0 12
        let s := s.fetchIn w (a.dir + 32 * site) 32
        let d := s.peek w (s.bankNow w) (a.dir + 32 * site) 32
        let k := cwK r.cfg
        let n := cwN r.cfg
        match fmtInfo a.fmt with
        | none => (poison, true, s)
        | some f =>
          if site ≥ a.sites || bits (fieldN d 16 4) 16 16 ≠ k || bits (fieldN d 16 4) 0 16 ≠ n || !pairOk (cwFmtX r.cfg) a.fmt || !pairOk a.fmt a.fmt then
            (poison, true, s)
          else
            let q := s.entryReq r false
            let (am, s) := s.matRead q f (fieldN d 0 8) a.rank k
            let (bm, s) := s.matRead q f (fieldN d 8 8) n a.rank
            let ts := (upFrom 0 a.rank).map fun i => prodEl (cwPass r.cfg) k (Fp.zero, false) (elAt x) fun j => matAt f am k i j
            let (tb, st) := encodeUnits f 0 (f.units [ts.map fun t => ⟨t.1, t.2, .rne⟩])
            let tq := (decodeBytes f 0 tb).map fun t => ((t.1, Fp.zero), t.2)
            let out := ((upFrom 0 ys.length).zip ys).map fun (j, y) =>
              let z := prodEl 1 a.rank (Fp.zero, false) (elAt tq) fun i => matAt f bm a.rank j i
              (fadd y.1 (fmul (Fp.of32 a.alpha) z.1), y.2 || z.2)
            let s := s.charge (some w) Acf.products (a.rank * k * cwPass r.cfg + a.rank * n)
            let s := s.charge (some w) Acf.vecOps (2 * ys.length)
            (out, out.any (·.2), s.modRun core g fun r => { r with vanished := r.vanished + (if f.kind ≥ 2 then st.vanished else 0) })

/-- Adapter terms of every row. -/
def State.adaptRows (s : State) (core : Nat) (g : Bool) (r : Run) (x : Nat → List PEl) : Nat → List (List El) → List (List El) × Bool × State
  | _, [] => ([], false, s)
  | m, y :: ys =>
    let (a, p, s) := s.adaptRow core g r m (x m) y
    let (rest, q, s) := s.adaptRows core g r x (m + 1) ys
    (a :: rest, p || q, s)

/-- One product of a MATMUL entry on one side of its list, with its epilogue, into OUTY (R106 to R110, R67, R225). -/
def State.matSide (s : State) (core : Nat) (g : Bool) (r : Run) (side : Nat) : State :=
  let shared := cwAmode r.cfg = 3
  let rows := r.rows
  let kLen := if shared then cwN r.cfg else cwK r.cfg
  let nLen := if shared then cwK r.cfg else cwN r.cfg
  let ka := r.role 0 0 side
  let kb := r.role 1 0 side
  let (as_, na, s) := s.operand core g r (takeFor (cwPass r.cfg) 2) ka
  let (bs, nb, s) := s.operand core g r (takeFor (cwPass r.cfg) 3) kb
  let (c0, nc, s) := s.initial core g r 2 side
  let s := s.inputs core g (na + nb + nc)
  let (bias, mulb, s) := s.sideStreams core g r side
  let (tp, s) := s.tops r 2 side
  let fa := (r.roleFmt ka).getD ⟨0, none, 0, 8, 0, 0⟩
  let fb := (r.roleFmt kb).getD ⟨0, none, 0, 8, 0, 0⟩
  let fy := (r.roleFmt (r.outRole 2 side)).getD ⟨0, none, 0, 8, 0, 0⟩
  let a (m k : Nat) : PEl := matAt fa as_ kLen m k
  let c (m n : Nat) : El := if cwAcc r.cfg then PEl.vec (matAt fy c0 nLen m n) else (Fp.zero, false)
  let ys := product (cwPass r.cfg) rows kLen nLen c a fun k n => statAt fb bs kLen nLen k n
  let s := s.charge (some r.wing) Acf.products (rows * kLen * nLen * cwPass r.cfg)
  let (ys, p, s) := if cwFunc r.cfg = 1 && cwRagged r.cfg && bit (cwArg r.cfg 2) 31 then
      s.adaptRows core g r (fun m => (upFrom 0 kLen).map (a m)) 0 ys else (ys, false, s)
  let s := if p then s.modRun core g fun r => { r with pzn := true } else s
  let fm := (r.roleFmt (r.role 5 0 side)).getD ⟨0, none, 0, 8, 0, 0⟩
  let (out, s) := s.epilogue core g (cwAcc r.cfg || side = 1) (fun col => bias.getD col (Fp.zero, false))
    (fun i => PEl.vec (matAt fm mulb nLen (i / nLen) (i % nLen))) (fun i => topAt tp (fy.placeOf nLen i)) nLen 0 ys
  s.putRows core g 2 side out

/-- dW = Xᵀ·dY of SHARED_DY, into OUTZ, without an epilogue (R67). -/
def State.sharedDw (s : State) (core : Nat) (g : Bool) (r : Run) : State :=
  let rows := r.rows
  let kx := r.role 5 0 0
  let ky := r.role 0 0 0
  let (xs, nx, s) := s.operand core g r (takeFor (cwPass r.cfg) 2) kx
  let (ys, _, s) := s.operand core g r (takeFor (cwPass r.cfg) 3) ky
  let (c0, nc, s) := s.initial core g r 3 0
  let s := s.inputs core g (nx + nc)
  let fx := (r.roleFmt kx).getD ⟨0, none, 0, 8, 0, 0⟩
  let fy := (r.roleFmt ky).getD ⟨0, none, 0, 8, 0, 0⟩
  let fz := (r.roleFmt (r.outRole 3 0)).getD ⟨0, none, 0, 8, 0, 0⟩
  let kLen := cwK r.cfg
  let nLen := cwN r.cfg
  let x (k m : Nat) : PEl := if fx.kind ≥ 2 then matAt fx xs rows k m else matAt fx xs kLen m k
  let c (k n : Nat) : El := if cwAcc r.cfg then PEl.vec (matAt fz c0 nLen k n) else (Fp.zero, false)
  let out := product (cwPass r.cfg) kLen rows nLen c x fun m n => matAt fy ys nLen m n
  let s := s.charge (some r.wing) Acf.products (rows * kLen * nLen * cwPass r.cfg)
  s.putRows core g 3 0 out

/-- MATMUL (R106). -/
def State.matmulFn (s : State) (core : Nat) (g : Bool) (r : Run) : State :=
  let s := s.matSide core g r 0
  if cwAmode r.cfg = 4 then s.matSide core g r 1
  else if cwAmode r.cfg = 3 then s.sharedDw core g r
  else s

/-! ## XFORM (R69) -/

/-- 2π in units of 2^-200. -/
def twoPi : Nat := 6283185307179586476925286766559005768394338798750211641949889184615632812572417997256069650684234135964296173026564613294187689219101164463450718816256962 * 2 ^ 200 / 10 ^ 153

/-- Terms of the series of cos (`i` = 0) and sin (`i` = 1) of X × 2^-200. -/
def trigTerms (X : Nat) : Nat → Nat → Nat → Bool → Int
  | 0, _, _, _ => 0
  | f + 1, i, t, neg =>
    (if neg then -(t : Int) else (t : Int)) + trigTerms X f (i + 2) (t * X / 2 ^ refBits * X / 2 ^ refBits / ((i + 1) * (i + 2))) (!neg)

/-- cos and sin of 2π × p ÷ q, rounded to nearest-even FP32. -/
def twiddle (p q : Nat) : Fp × Fp :=
  let X := twoPi * (p % q) / q
  (rne32 ((Fp.ofInt (trigTerms X 60 0 (2 ^ refBits) false)).shift (-(refBits : Int))),
   rne32 ((Fp.ofInt (trigTerms X 60 1 X false)).shift (-(refBits : Int))))

/-- The generated tile's column k in FMT_W: for each contraction index j the real and imaginary parts (R69, R114). With K or N above 64, j and k
count across the whole operand (log entry 73). Twiddles that vanish in a block-scaled FMT_W count as R98 says. -/
def xformCol (c k : Nat) (f : FmtInfo) (kLen : Nat) : List PEl × EncStat :=
  let a := bits (cwArg c 0) 0 6
  let vals := (upFrom 0 kLen).flatMap fun j =>
    let (x, y) := twiddle (j * k) (64 * 2 ^ a)
    [x, if bit (cwArg c 0) 8 then y else y.negate]
  let us := f.units [vals.map fun v => ⟨v, false, .rne⟩]
  if cwPass c = 3 then
    let (hi, lo, st) := encodeSplit f 0 us
    (((decodeBytes f 0 hi).zip (decodeBytes f 0 lo)).map fun x => ((x.1.1, x.2.1), false), st)
  else
    let (bs, st) := encodeUnits f 0 us
    ((decodeBytes f 0 bs).map fun x => ((x.1, Fp.zero), false), st)

/-- The other sign of a pair. -/
def PEl.neg (x : PEl) : PEl := ((x.1.1.negate, x.1.2.negate), x.2)

/-- A twiddle of signed zero magnitude stays as it is; the contraction over 2K real terms of one complex output: (re, im) of x times (re,
im) of the tile (log entry 17). -/
def xformEl (pass kLen : Nat) (c : El) (x t : List PEl) (im : Bool) : El :=
  prodEl pass (2 * kLen) c (elAt x) fun i =>
    if im then (if i % 2 = 0 then elAt t (i + 1) else elAt t (i - 1))
    else (if i % 2 = 0 then elAt t i else (elAt t i).neg)

/-- One array's transform: M rows of K complex elements to M rows of N. -/
def State.xformSide (s : State) (core : Nat) (g : Bool) (r : Run) (side : Nat) : State :=
  let ka := r.role 0 0 side
  let (as_, na, s) := s.operand core g r (takeFor (cwPass r.cfg) 2) ka
  let (c0, nc, s) := s.initial core g r 2 side
  let s := s.inputs core g (na + nc)
  let (bias, mulb, s) := s.sideStreams core g r side
  let (tp, s) := s.tops r 2 side
  let fa := (r.roleFmt ka).getD ⟨0, none, 0, 8, 0, 0⟩
  let fy := (r.roleFmt (r.outRole 2 side)).getD ⟨0, none, 0, 8, 0, 0⟩
  let fw := (fmtInfo (cwFmtW r.cfg)).getD ⟨0, none, 0, 8, 0, 0⟩
  let kLen := cwK r.cfg
  let nLen := cwN r.cfg
  let made := (upFrom 0 nLen).map fun k => xformCol r.cfg k fw kLen
  let cols := made.map (·.1)
  let s := s.modRun core g fun r => { r with vanished := r.vanished + if fw.kind ≥ 2 then made.foldl (fun a x => a + x.2.vanished) 0 else 0 }
  let c (m i : Nat) : El := if cwAcc r.cfg then PEl.vec (matAt fy c0 (2 * nLen) m i) else (Fp.zero, false)
  let ys := (upFrom 0 (cwM r.cfg)).map fun m =>
    let x := (upFrom 0 (2 * kLen)).map fun i => matAt fa as_ (2 * kLen) m i
    (upFrom 0 (2 * nLen)).map fun i => xformEl (cwPass r.cfg) kLen (c m i) x (cols.getD (i / 2) []) (i % 2 = 1)
  let s := s.charge (some r.wing) Acf.products (cwM r.cfg * 4 * kLen * nLen * cwPass r.cfg)
  let fm := (r.roleFmt (r.role 5 0 side)).getD ⟨0, none, 0, 8, 0, 0⟩
  let (out, s) := s.epilogue core g (cwAcc r.cfg || side = 1) (fun col => bias.getD col (Fp.zero, false))
    (fun i => PEl.vec (matAt fm mulb (2 * nLen) (i / (2 * nLen)) (i % (2 * nLen)))) (fun i => topAt tp (fy.placeOf (2 * nLen) i)) (2 * nLen) 0 ys
  s.putRows core g 2 side out

/-- XFORM (R69). -/
def State.xformFn (s : State) (core : Nat) (g : Bool) (r : Run) : State := (s.xformSide core g r 0).xformSide core g r 1

end Sys2Proof.Machine
end

