-- ==== Sys2Proof/Machine/Sample.lean ====
section
/-!
DEFINITION. Generation and sampling: rows, length tables, PLAN, DRAFT and VERIFY (spec/08_generation.md R170 to R186).
-/
namespace Sys2Proof.Machine

/-- The bytes of a row, control part and candidate slot. -/
def State.rowBytes (s : State) (w i : Nat) : List Byte := s.peek w (s.bankNow w) (s.rowAddr w i) 256

/-- A row as the first issue of an entry read it (R171). -/
def State.rowOf (s : State) (r : Run) (i : Nat) : List Byte := (Tab.find r.snaps i).getD (s.rowBytes r.wing i)

/-! Fields of a row (Table 8.1). -/
def rwState (r : List Byte) : Nat := bits (fieldN r 0 4) 28 4
def rwReason (r : List Byte) : Nat := bits (fieldN r 0 4) 24 4
def rwDraftN (r : List Byte) : Nat := bits (fieldN r 0 4) 20 4
def rwMkind (r : List Byte) : Nat := bits (fieldN r 0 4) 18 2
def rwAsw (r : List Byte) : Bool := bit (fieldN r 0 4) 17
def rwNoadapt (r : List Byte) : Bool := bit (fieldN r 0 4) 16
def rwBadrun (r : List Byte) : Nat := bits (fieldN r 0 4) 12 4
def rwAdapter (r : List Byte) : Nat := bits (fieldN r 0 4) 0 12
def rwStep (r : List Byte) : Nat := fieldN r 4 4
def rwLen (r : List Byte) : Nat := bits (fieldN r 8 4) 0 21
def rwPos (r : List Byte) : Nat := bits (fieldN r 12 4) 0 21
def rwMaxlen (r : List Byte) : Nat := bits (fieldN r 16 4) 0 21
def rwMaskId (r : List Byte) : Nat := fieldN r 22 2
def rwGstate (r : List Byte) : Nat := fieldN r 20 2
def rwTemp (r : List Byte) : Nat := fieldN r 24 4
def rwAgen (r : List Byte) : Nat := fieldN r 30 2
def rwTopk (r : List Byte) : Nat := bits (fieldN r 28 4) 0 11
def rwOut (r : List Byte) : Nat := fieldN r 32 8
def rwGen0 (r : List Byte) : Nat := bits (fieldN r 40 4) 0 21
def rwPrompt (r : List Byte) : Nat := fieldN r 64 8
def rwPfx (r : List Byte) : Nat := bits (fieldN r 72 4) 0 21

/-- A token is one of the row's valid stop tokens. -/
def rwStops (r : List Byte) (t : Nat) : Bool := (upFrom 0 4).any fun i => let x := fieldN r (44 + 4 * i) 4; bit x 31 && bits x 0 18 = t

/-- The token at a position of a row (R170). -/
def State.tokenAt (s : State) (w : Nat) (r : List Byte) (p : Nat) : Nat :=
  if p < rwGen0 r then s.peekN w (rwPrompt r + 4 * (p - rwPfx r)) 4 % 2 ^ 18
  else bits (s.peekN w (rwOut r + 8 * (p - rwGen0 r)) 4) 0 18

/-- The read of that token. -/
def State.tokenFetch (s : State) (w : Nat) (r : List Byte) (p : Nat) : State :=
  if p < rwGen0 r then s.fetchIn w (rwPrompt r + 4 * (p - rwPfx r)) 4 else s.fetchIn w (rwOut r + 8 * (p - rwGen0 r)) 4

/-- The candidates of a row's slot for its next step, when PLAN uses the slot (R174). -/
def rwCands (r : List Byte) : Option (List Nat) :=
  let n := bits (fieldN r 132 4) 0 4
  if fieldN r 128 4 = rwStep r ∧ 1 ≤ n ∧ n ≤ 8 then some ((upFrom 0 n).map fun i => bits (fieldN r (136 + 4 * i) 4) 0 18) else none

/-- C and the host's candidates (R176). -/
def rwPlanC (r : List Byte) : Nat × Option (List Nat) :=
  let cap := rwMaxlen r - rwLen r - 1
  match rwCands r with
  | some cs => (min cs.length cap, some (cs.take cap))
  | none => (min (rwDraftN r) cap, none)

/-- An entry of a length table (Table 8.3). -/
structure LEnt where
  slot : Nat
  cand : Nat
  sample : Bool
  host : Bool
  first : Nat
  rows : Nat
  off : Nat
deriving DecidableEq, Repr

def LEnt.bytes (e : LEnt) : List Byte :=
  leBytes 4 (e.slot * 2 ^ 18 + e.cand * 2 ^ 14 + b2n e.sample * 2 ^ 13 + b2n e.host * 2 ^ 12) ++ leBytes 4 e.first
    ++ leBytes 4 (e.rows * 65536 + e.off) ++ leBytes 4 0

/-- The first row that holds the last known token of a sampling entry, R0 (R176). -/
def LEnt.r0 (e : LEnt) : Nat := e.off + e.rows - 1 - e.cand

/-- The entries of length table `n` as it stands. -/
def State.ltabEnts (s : State) (w n : Nat) : List LEnt :=
  let lt := s.ltab w n
  (upFrom 0 (s.peekN w lt 4)).map fun e =>
    let b := s.peek w (s.bankNow w) (lt + 0x40 + 16 * e) 12
    let x := fieldN b 0 4
    ⟨bits x 18 14, bits x 14 4, bit x 13, bit x 12, bits (fieldN b 4 4) 0 21, fieldN b 10 2, fieldN b 8 2⟩

/-- What PLAN has gathered: the entries, P, deferred rows. -/
structure Plan where
  ents : List (LEnt × List Byte × Option (List Nat))
  p : Nat
  deferred : Nat
deriving DecidableEq, Repr

/-- PLAN's first pass on one row: k = 1 (R175). -/
def Plan.pass1 (cap : Nat) (x : Plan) (slot : Nat) (r : List Byte) : Plan :=
  if rwLen r - rwPos r ≠ 1 then x else
  let (c, h) := rwPlanC r
  if x.p + 1 + c ≤ cap then { x with ents := x.ents ++ [(⟨slot, c, true, h.isSome, rwPos r, 1 + c, x.p⟩, r, h)], p := x.p + 1 + c }
  else { x with deferred := x.deferred + 1 }

/-- PLAN's second pass on one row: k > 1. -/
def Plan.pass2 (cap chunk : Nat) (x : Plan) (slot : Nat) (r : List Byte) : Plan :=
  let k := rwLen r - rwPos r
  if k ≤ 1 then x else
  let n := min k (min chunk (cap - x.p))
  if n = 0 then { x with deferred := x.deferred + 1 }
  else
    let (c, h) := rwPlanC r
    let c := if n = k ∧ x.p + n + c ≤ cap then c else 0
    { x with ents := x.ents ++ [(⟨slot, c, n = k, h.isSome && n = k, rwPos r, n + c, x.p⟩, r, h)], p := x.p + n + c }

/-- PLAN (R175): the length table is written, TREAD last; the commits of prefill chunks are staged (R179). -/
def State.planFn (s : State) (core : Nat) (g : Bool) (r : Run) : State :=
  let w := r.wing
  let f := bits (cwArg r.cfg 1) 0 14
  let chunk := bits (cwArg r.cfg 1) 16 16
  let n := bits (cwArg r.cfg 2) 0 15
  let cap := bits (cwArg r.cfg 0) 16 16
  let lt := s.ltab w (cwTable r.cfg)
  let live := ((upFrom f n).filter fun i => i < s.seqCount w).filterMap fun i =>
    let b := s.rowOf r i
    if rwState b = 1 then some (i, b) else none
  let x := live.foldl (fun (x : Plan) y => x.pass1 cap y.1 y.2) ⟨[], 0, 0⟩
  let x := live.foldl (fun (x : Plan) y => x.pass2 cap chunk y.1 y.2) x
  let s := s.fnWrite core g r lt (leBytes 4 x.ents.length ++ leBytes 4 x.p)
  let s := ((upFrom 0 x.ents.length).zip x.ents).foldl (fun s (y : Nat × LEnt × List Byte × Option (List Nat)) =>
    let e := y.2.1
    let row := y.2.2.1
    let s := s.fnWrite core g r (lt + 0x40 + 16 * y.1) e.bytes
    let s := (upFrom 0 (e.rows - e.cand)).foldl (fun s i => s.tokenFetch w row (rwPos row + i)) s
    let known := (upFrom 0 (e.rows - e.cand)).map fun i => s.tokenAt w row (rwPos row + i)
    let host := match y.2.2.2 with | some cs => if e.host then cs.take e.cand else [] | none => []
    s.fnWrite core g r (lt + 0x80000 + 4 * e.off) ((known ++ host).flatMap (leBytes 4))) s
  let s := s.fnWrite core g r (lt + 8) (leBytes 8 r.tread)
  let prefill := (x.ents.filter fun y => !y.1.sample).map fun y => Commit.mk (cwTable r.cfg) r.tread y.1.slot false y.1.rows 0 0 0 none
  -- the adapter generation of a step is fixed here (R179)
  let agens (t : Tab Nat) : Tab Nat := x.ents.foldl (fun t y => Tab.set t (cwTable r.cfg * 16384 + y.1.slot) (rwAgen y.2.1)) t
  let s := s.modJob w fun j => { j with gen := { j.gen with commits := j.gen.commits ++ prefill, agens := agens j.gen.agens } }
  s.modRun core g fun r => { r with fstat := x.ents.length % 65536 * 65536 + x.deferred % 65536 }

/-! ## Masks (R181) -/

/-- The mask that acts on a row: KIND, COUNT and ADDR of its entry; KIND 0 allows every token. -/
structure Mask where
  kind : Nat
  count : Nat
  addr : Nat
deriving DecidableEq, Repr

def State.maskOf (s : State) (w : Nat) (row : List Byte) : Mask :=
  let cnt := min (bits (s.wr w Reg.wngGenMask) 47 17) 65536
  if rwMkind row = 0 ∨ rwMaskId row ≥ cnt then ⟨0, 0, 0⟩
  else
    let a := addrOf (s.wr w Reg.wngGenMask) 4 + 16 * rwMaskId row
    let x := s.peekN w a 4
    ⟨bits x 30 2, bits x 0 30, s.peekN w (a + 8) 8⟩

/-- The reads that a mask in grammar state `q` takes: its entry, and its bitmap, its list, or the state's record with its bitmap. -/
def State.maskFetch (s : State) (w : Nat) (row : List Byte) (m : Mask) (q vocab : Nat) : State :=
  if m.kind = 0 then s else
  let s := s.fetchIn w (addrOf (s.wr w Reg.wngGenMask) 4 + 16 * rwMaskId row) 16
  let n := (vocab + 7) / 8
  if m.kind = 1 then s.fetchIn w m.addr n
  else if m.kind = 2 then s.fetchIn w m.addr (4 * m.count)
  else (s.fetchIn w (m.addr + 32 * q) 32).fetchIn w (s.peekN w (m.addr + 32 * q) 8) n

/-- Bit `t` of a bitmap at an address. -/
def State.mapBit (s : State) (w a t : Nat) : Bool := bit (s.peekN w (a + t / 8) 1) (t % 8)

/-- The tokens below the vocabulary that a mask allows in grammar state `q`. -/
def State.allowed (s : State) (w : Nat) (m : Mask) (q vocab : Nat) : Nat → Bool :=
  match m.kind with
  | 1 => fun t => s.mapBit w m.addr t
  | 2 => let ids := (upFrom 0 m.count).map fun i => bits (s.peekN w (m.addr + 4 * i) 4) 0 18; fun t => ids.contains t
  | 3 => let a := s.peekN w (m.addr + 32 * q) 8; fun t => q < m.count && s.mapBit w a t
  | _ => fun t => t < vocab

/-- The grammar state after a token (R181). -/
def State.nextState (s : State) (w : Nat) (m : Mask) (q t : Nat) : Nat :=
  if m.kind ≠ 3 then q else
  let rec_ := m.addr + 32 * q
  let tr := s.peekN w (rec_ + 8) 8
  match ((upFrom 0 (s.peekN w (rec_ + 16) 4)).map fun i => (s.peekN w (tr + 8 * i) 4, s.peekN w (tr + 8 * i + 4) 4)).find? fun x => x.1 = t with
  | some x => x.2
  | none => bits (s.peekN w (rec_ + 20) 4) 0 16

/-! ## Distributions (R180) -/

/-- a ÷ b in FP32 (R117). -/
def fdiv (a b : Fp) : Fp :=
  match a, b with
  | .nan _, _ => .nan false
  | _, .nan _ => .nan false
  | .inf s, .inf _ => let _ := s; .nan false
  | .inf s, y => .inf (s != y.neg)
  | x, .inf t => .fin (x.neg != t) 0 0
  | .fin s m e, .fin t n f =>
    if n = 0 then (if m = 0 then .nan false else .inf (s != t)) else if m = 0 then .fin (s != t) 0 0 else rne32 (divDyadic (.fin s m e) (.fin t n f))

/-- The tokens that remain after mask and top-k, with their logits, by ascending token; −∞ does not remain. -/
def remaining (allow : Nat → Bool) (vocab topk : Nat) (ls : List Fp) : List (Nat × Fp) :=
  let xs := ((upFrom 0 ls.length).zip ls).filter fun x => x.1 < vocab && allow x.1 && (Fp.inf true).lt x.2
  if topk = 0 ∨ xs.length ≤ topk then xs
  else xs.filter fun x => (xs.filter fun y => x.2.lt y.2 || (!(y.2.lt x.2) && y.1 < x.1)).length < topk

/-- p of R180 over the remaining tokens: (token, probability), ascending; greedy puts 1 on the lowest token that holds lmax. -/
def distOf (temp : Nat) (xs : List (Nat × Fp)) : List (Nat × Fp) :=
  match xs with
  | [] => []
  | x0 :: rest =>
    let best := rest.foldl (fun (b : Nat × Fp) x => if b.2.lt x.2 then x else b) x0
    if temp % 2 ^ 31 = 0 then [(best.1, Fp.ofInt 1)]
    else
      let es := xs.map fun x => (x.1, stageExp (fdiv (fadd x.2 best.2.negate) (Fp.of32 temp)))
      let sum := es.foldl (fun a x => fadd a x.2) Fp.zero
      es.map fun x => (x.1, fdiv x.2 sum)

/-- The probability of a token. -/
def probOf (d : List (Nat × Fp)) (t : Nat) : Fp := match d.find? fun x => x.1 = t with | some x => x.2 | none => Fp.zero

/-- The first token whose cumulative sum passes a bound; the last with positive weight if none (R182). -/
def pick (bound : Fp) : List (Nat × Fp) → Fp → Option Nat → Option Nat
  | [], _, last => last
  | (t, x) :: rest, acc, last =>
    let acc := fadd acc x
    if bound.lt acc then some t else pick bound rest acc (if Fp.zero.lt x then some t else last)

/-- sample(d, u) of R182, with u a 24-bit fraction. -/
def sampleOf (d : List (Nat × Fp)) (u : Nat) : Option Nat :=
  pick (fmul ((Fp.ofInt (u : Int)).shift (-24)) (d.foldl (fun a x => fadd a x.2) Fp.zero)) d Fp.zero none

/-- max(0, p - q), elementwise over the tokens of p. -/
def residual (p q : List (Nat × Fp)) : List (Nat × Fp) :=
  p.map fun x => let y := fadd x.2 (probOf q x.1).negate; (x.1, if Fp.zero.lt y then y else Fp.zero)

/-- The logits of one row of a role. -/
def logitRow (f : FmtInfo) (xs : List PEl) (vocab row : Nat) : List El := (upFrom 0 vocab).map fun t => PEl.vec (matAt f xs vocab row t)

/-- Why a row of logits is bad (R186): 0 POISON, 1 NONFINITE; none when it is not. -/
def badLogits (row : List El) : Option Nat :=
  if row.any (·.2) then some 0
  else if row.any fun x => match x.1 with | .nan _ => true | .inf s => !s | _ => false then some 1 else none

/-- The sampling entries of a share, with their index e (R183). -/
def shareOf (c : Nat) (es : List LEnt) : List (Nat × LEnt) :=
  let w := bits (cwArg c 1) 0 10
  let sh := bits (cwArg c 1) 16 10
  ((upFrom 0 es.length).zip es).filter fun x => x.2.sample && w ≠ 0 && x.1 % w = sh

/-- The lane of a sampling entry (R183). -/
def laneOf (c e : Nat) : Nat := e / max 1 (bits (cwArg c 1) 0 10) % 64

/-- The next uniform of a lane (R80). -/
def State.uniform (s : State) (core : Nat) (g : Bool) (lane : Nat) : Nat × State :=
  match s.runAt core g with
  | none => (0, s)
  | some r => let (d, r) := r.draw core lane; (uniform24 d, s.modRun core g fun _ => r)

/-! ## DRAFT (R183) -/

/-- Write a run of elements of a role, the first of them element `el` of the role and `i` of the blocks left: each block in its own format (R483), a
split one as pairs, stochastically where R64 says so and the block is not split (R114). Only whole-byte plain formats are logits formats (R180). -/
def State.putAt (s : State) (core : Nat) (g : Bool) : List Nat → Nat → Nat → List El → State
  | [], _, _, _ => s
  | k :: ks, el, i, els =>
    match s.runAt core g with
    | none => s
    | some r =>
      let b := r.blks.getD k 0
      match fmtInfo (blkFmt b) with
      | none => s
      | some f =>
        let n := f.elems (blkSpan b)
        if i ≥ n then s.putAt core g ks el (i - n) els
        else
          let mine := els.take (n - i)
          let (os, r') := r.ready core (fun _ => (cwRnd r.cfg || cwGrad r.cfg) && f.code ≠ 1 && !blkSplit b) el 0 mine
          let s := s.modRun core g fun _ => r'
          let a := s.halfBase core g 1 + blkLoff b + i * f.ebits / 8
          let (st, s) :=
            if blkSplit b then
              let (hi, lo, st) := encodeSplit f 0 (f.units [os])
              (st, (s.fnPut core g a hi).fnPut core g (a + blkLen b / 2) lo)
            else
              let (bs, st) := encodeUnits f 0 (f.units [os])
              (st, s.fnPut core g a bs)
          let s := s.modRun core g fun r => { r with nfCount := r.nfCount + st.nonFinite, nf := r.nf || st.nonFinite ≠ 0 }
          if (els.drop (n - i)).isEmpty then s else s.putAt core g ks (el + mine.length) 0 (els.drop (n - i))

/-- The candidate tokens of an entry as TOKEN holds them. -/
def State.candTokens (s : State) (w n : Nat) (e : LEnt) : List Nat :=
  (upFrom 0 e.cand).map fun j => bits (s.peekN w (s.ltab w n + 0x80000 + 4 * (e.r0 + 1 + j)) 4) 0 18

/-- DRAFT pass i: a token and a row of draft logits for each entry of the share with more than i candidates of the draft model. -/
def State.draftFn (s : State) (core : Nat) (g : Bool) (r : Run) : State :=
  let w := r.wing
  let n := cwTable r.cfg
  let pass := bits (cwArg r.cfg 0) 4 4
  let vocab := s.genVocab w
  let ks := r.role 0 0 0
  let (xs, nx, s) := s.operand core g r .vec ks
  let s := s.inputs core g nx
  let f := (r.roleFmt ks).getD ⟨0, none, 0, 8, 0, 0⟩
  let ka := r.outRole 5 0
  (shareOf r.cfg (s.ltabEnts w n)).foldl (fun s (x : Nat × LEnt) =>
    let e := x.2
    if e.host || e.cand ≤ pass then s
    else
      let row := s.rowBytes w e.slot
      let m := s.maskOf w row
      let q := ((s.candTokens w n e).take pass).foldl (fun q t => s.nextState w m q t) (rwGstate row)
      let s := s.maskFetch w row m q vocab
      let ls := logitRow f xs vocab (e.r0 + pass)
      let (u, s) := s.uniform core g (laneOf r.cfg x.1)
      let d := distOf (rwTemp row) (remaining (s.allowed w m q vocab) vocab (rwTopk row) (ls.map (·.1)))
      let (t, s) := match badLogits ls, sampleOf d u with
        | none, some t => (t, s)
        | _, _ => let (v, s) := s.free; (v % 2 ^ 18, s)
      let s := s.fnWrite core g r (s.ltab w n + 0x80000 + 4 * (e.r0 + 1 + pass)) (leBytes 4 t)
      s.putAt core g ka ((e.r0 + pass) * vocab) ((e.r0 + pass) * vocab) ls) s

/-! ## VERIFY (R182 to R186) -/

/-- A token put out: the token, SRC, its probability's FP32 pattern and whether the row is greedy. -/
structure OutTok where
  tok : Nat
  src : Nat
  p : Fp
deriving DecidableEq, Repr

/-- What the loop of R182 works with for one entry. -/
structure VerCtx where
  w : Nat
  core : Nat
  g : Bool
  lane : Nat
  vocab : Nat
  row : List Byte
  mask : Mask
  cands : List Nat
  host : Bool
deriving DecidableEq, Repr

/-- The distribution of a row of logits in grammar state q. -/
def State.verDist (s : State) (c : VerCtx) (q : Nat) (ls : List El) : List (Nat × Fp) :=
  distOf (rwTemp c.row) (remaining (s.allowed c.w c.mask q c.vocab) c.vocab (rwTopk c.row) (ls.map (·.1)))

/-- Burn draws. -/
def State.burn (s : State) (core : Nat) (g : Bool) (lane : Nat) : Nat → State
  | 0 => s
  | n + 1 => (s.uniform core g lane).2.burn core g lane n

/-- The loop of R182 from candidate j. `tl`, `dl`: rows of target and draft logits from j on. An empty allowed set answers none; one at a position
that the test never reaches counts for nothing (DESIGN CHOICE, log entry 76). -/
def State.verLoop (s : State) (c : VerCtx) : Nat → Nat → Nat → List (List El) → List (List El) → List OutTok → Option (List OutTok) × State
  | 0, _, _, _, _, out => (some out, s)
  | f + 1, j, q, tl, dl, out =>
    let p := s.verDist c q (tl.headD [])
    -- a state at or above COUNT faults the sequence (R181): the tokens so far stand, and the commit finds the last of them MASK_BAD
    if c.mask.kind = 3 && q ≥ c.mask.count && j ≠ 0 then (some out, s.burn c.core c.g c.lane (c.cands.length + 1 - j))
    else if p.isEmpty then (none, s.burn c.core c.g c.lane (c.cands.length + 1 - j))
    else if j ≥ c.cands.length then
      let (u, s) := s.uniform c.core c.g c.lane
      match sampleOf p u with
      | some t => (some (out ++ [⟨t, 2, probOf p t⟩]), s)
      | none => (none, s)
    else
      let x := c.cands.getD j 0
      let qd := if c.host then [(x, Fp.ofInt 1)] else s.verDist c q (dl.headD [])
      if qd.isEmpty then (none, s.burn c.core c.g c.lane (c.cands.length + 1 - j))
      else
        let (u, s) := s.uniform c.core c.g c.lane
        if x < c.vocab && (fmul ((Fp.ofInt (u : Int)).shift (-24)) (probOf qd x)).lt (probOf p x) then
          s.verLoop c f (j + 1) (s.nextState c.w c.mask q x) (tl.drop 1) (dl.drop 1) (out ++ [⟨x, 0, probOf p x⟩])
        else
          let r0 := residual p qd
          let r := if r0.all fun y => !Fp.zero.lt y.2 then p else r0
          let (u, s) := s.uniform c.core c.g c.lane
          let s := s.burn c.core c.g c.lane (c.cands.length - 1 - j)
          match sampleOf r u with
          | some t => (some (out ++ [⟨t, 1, probOf p t⟩]), s)
          | none => (none, s)

/-- The tokens that R185 keeps: up to the first stop token, at most `room`; and the ending (0 none, 1 STOP_TOKEN, 2 MAXLEN). -/
def keepToks (row : List Byte) : Nat → List OutTok → List OutTok × Nat
  | 0, _ => ([], 2)
  | _, [] => ([], 0)
  | n + 1, t :: ts =>
    if rwStops row t.tok then ([t], 1)
    else let (rest, e) := keepToks row n ts; (t :: rest, if n = 0 then 2 else e)

/-- Apply kept tokens to the grammar state; a next state at or above COUNT is MASK_BAD (R181): the tokens kept, the state, whether it is bad. -/
def State.grammar (s : State) (w : Nat) (m : Mask) : Nat → List OutTok → List OutTok × Nat × Bool
  | q, [] => ([], q, false)
  | q, t :: ts =>
    let q' := s.nextState w m q t.tok
    if m.kind = 3 ∧ q' ≥ m.count then ([t], q, true)
    else let (rest, q2, b) := s.grammar w m q' ts; (t :: rest, q2, b)

/-- Bytes of an output record (Table 8.6a). LOGP is ln p_j(token), rounded to nearest-even (log entry 8). -/
def outRec (greedy : Bool) (t : OutTok) (stop : Bool) : List Byte :=
  leBytes 4 (t.src * 2 ^ 30 + b2n stop * 2 ^ 29 + t.tok) ++ leBytes 4 (if greedy then 0 else (lnFp t.p).bits32)

/-- One sampling entry of VERIFY: its output records and its staged commit. -/
def State.verEntry (s : State) (core : Nat) (g : Bool) (r : Run) (ft fd : FmtInfo) (ts ds : List PEl) (idx : Nat) (e : LEnt) : State :=
  let w := r.wing
  let row := s.rowOf r e.slot
  let vocab := s.genVocab w
  let s := (s.maskFetch w row (s.maskOf w row) (rwGstate row) vocab).fetchIn w (s.ltab w (cwTable r.cfg) + 0x80000 + 4 * (e.r0 + 1)) (4 * e.cand)
  let c : VerCtx := ⟨w, core, g, laneOf r.cfg idx, vocab, row, s.maskOf w row, s.candTokens w (cwTable r.cfg) e, e.host⟩
  let tl := (upFrom 0 (e.cand + 1)).map fun j => logitRow ft ts vocab (e.r0 + j)
  let dl := if e.host then [] else (upFrom 0 e.cand).map fun j => logitRow fd ds vocab (e.r0 + j)
  let stage (s : State) (x : Commit) : State := s.modJob w fun j => { j with gen := { j.gen with commits := j.gen.commits ++ [x] } }
  let base : Commit := ⟨cwTable r.cfg, r.tread, e.slot, true, e.rows, 0, 0, 0, none⟩
  match (tl ++ dl).filterMap badLogits with
  | b :: bs =>
    -- POISON comes before NONFINITE where both apply
    let why := if (b :: bs).contains 0 then 0 else b
    stage (s.burn core g c.lane (e.cand + 1)) { base with bad := some why }
  | [] =>
    match s.verLoop c (e.cand + 1) 0 (rwGstate row) tl dl [] with
    | (none, s) => stage s { base with bad := some 2 }
    | (some out, s) =>
      let (kept, ending) := keepToks row (rwMaxlen row - rwLen row) out
      let (kept', q, bad) := s.grammar w c.mask (rwGstate row) kept
      let ending := if bad && !(ending ≠ 0 && kept'.length = kept.length) then 3 else ending
      let greedy : Bool := rwTemp row % 2 ^ 31 = 0
      let s := ((upFrom 0 kept'.length).zip kept').foldl (fun s (x : Nat × OutTok) =>
        s.fnWrite core g r (rwOut row + 8 * (rwLen row - rwGen0 row + x.1))
          (outRec greedy x.2 (ending ≠ 0 && x.1 + 1 = kept'.length))) s
      stage s { base with newLen := rwLen row + kept'.length, gstate := q, ending := ending }

/-- VERIFY. -/
def State.verifyFn (s : State) (core : Nat) (g : Bool) (r : Run) : State :=
  let kt := r.role 0 0 0
  let kd := r.role 5 0 0
  let (ts, nt, s) := s.operand core g r .vec kt
  let (ds, nd, s) := s.operand core g r .vec kd
  let s := s.inputs core g (nt + nd)
  let ft := (r.roleFmt kt).getD ⟨0, none, 0, 8, 0, 0⟩
  let fd := (r.roleFmt kd).getD ⟨0, none, 0, 8, 0, 0⟩
  (shareOf r.cfg (s.ltabEnts r.wing (cwTable r.cfg))).foldl (fun s (x : Nat × LEnt) => s.verEntry core g r ft fd ts ds x.1 x.2) s

/-- SAMPLE words by operation. -/
def isSample (op : Nat) (c : Nat) : Bool := cwFunc c = 4 && bits (cwArg c 0) 0 4 = op

end Sys2Proof.Machine
end

