-- ==== Sys2Proof/Machine/Kv.lean ====
section
/-!
DEFINITION. The key-value cache (spec/09_kv_cache.md R192 to R215): pages, page-table rows, copies, admission and forks, and the KV part
of action 4 with the commits of spec/08 (R178, R179, R185 to R188).
-/
namespace Sys2Proof.Machine

/-! ## Geometry (R192, R193) -/

structure KvGeom where
  frames : Nat
  layers : Nat
  lfmt : Nat
  lat : Nat
  pdim : Nat
  scl : Nat
deriving DecidableEq, Repr

def State.kvGeom (s : State) (w : Nat) : KvGeom :=
  let v := s.wr w Reg.wngKvGeom
  ⟨s.kvFrames w, bits v 31 8 + 1, bits v 26 5, (bits v 21 5 + 1) * 32, bits v 17 4 * 16, bits v 0 16⟩

/-- The geometry is valid (WNG_KV_GEOM). -/
def KvGeom.valid (k : KvGeom) : Bool :=
  [4, 9, 10, 16].contains k.lfmt && k.pdim ≤ 128 && (k.lfmt < 10 || k.lat % 256 = 0)

/-- Bytes of the latent part (Table 9.1). -/
def KvGeom.latBytes (k : KvGeom) : Nat := if k.lfmt = 10 then k.lat / 256 * 264 else if k.lfmt = 16 then k.lat / 256 * 272 else k.lat

def KvGeom.tokb (k : KvGeom) : Nat := k.latBytes + 2 * k.pdim

/-- Bytes of a frame, FB. -/
def KvGeom.fb (k : KvGeom) : Nat := 16 * k.layers * k.tokb

/-- Start of frame `i` of the pool. -/
def State.kvFrame (s : State) (w i : Nat) : Nat := addrOf (s.wr w Reg.wngKvPool) 7 + i * (s.kvGeom w).fb

/-- The module writes a table of its own in the wing's memory; nothing is written outside the wing's HBM window (log entry 32). -/
def State.tabWrite (s : State) (w a : Nat) (bs : List Byte) : State :=
  if s.mappedIn w (s.bankNow w) [1] a bs.length then s.write (s.reqOf w) a (clean bs) else s

/-! ## Page state (R195) -/

def State.pstAddr (s : State) (w i : Nat) : Nat := addrOf (s.wr w Reg.wngKvPst) 6 + 4 * i
def State.pgState (s : State) (w i : Nat) : Nat := bits (s.peekN w (s.pstAddr w i) 4) 30 2
def State.pgRefs (s : State) (w i : Nat) : Nat := bits (s.peekN w (s.pstAddr w i) 4) 0 16

/-- A page’s state entry is read, through its owning slice (R124, log entry 27). -/
def State.pgFetch (s : State) (w i : Nat) : State := s.fetchIn w (s.pstAddr w i) 4

def State.setPage (s : State) (w i st refs : Nat) : State := s.tabWrite w (s.pstAddr w i) (leBytes 4 (st * 2 ^ 30 + refs))

/-- A page gains a reference. -/
def State.pgRef (s : State) (w i : Nat) : State := (s.pgFetch w i).setPage w i (s.pgState w i) (s.pgRefs w i + 1)

/-- A page loses a reference; at 0 it is RELEASED. -/
def State.pgUnref (s : State) (w i : Nat) : State :=
  let r := s.pgRefs w i - 1
  (s.pgFetch w i).setPage w i (if r = 0 then 2 else s.pgState w i) r

/-- Pages in state FREE, lowest first. -/
def State.freePages (s : State) (w : Nat) : List Nat := (upFrom 0 (s.kvFrames w)).filter fun i => s.pgState w i = 0

/-- The lowest free page is taken: USED, or FILLING for a copy. -/
def State.pgAlloc (s : State) (w st : Nat) : Nat × State :=
  match (upFrom 0 (s.kvFrames w)).find? fun i => s.pgState w i = 0 with
  | some i => (i, (s.pgFetch w i).setPage w i st 1)
  | none => (0, s)

/-- WNG_KV_CTRL.RESERVE in effect. -/
def State.kvReserve (s : State) (w : Nat) : Nat := bits (s.we w Reg.wngKvCtrl) 0 24

/-! ## Page-table rows (R194) -/

structure PtRow where
  ver : Nat
  sel : Nat
  place : Nat
  upark : Bool
  keep : Bool
  staged : Bool
  replay : Bool
  mapped : Nat
  awayN : Nat
  joined : Nat
  parkt : Nat
  pfxv : Bool
  pfxh : Nat
deriving DecidableEq, Repr

def ptDec (b : List Byte) : PtRow :=
  let x := fieldN b 0 4
  ⟨bits x 16 16, bits x 15 1, bits x 13 2, bit x 12, bit x 11, bit x 10, bit x 9, bits (fieldN b 4 4) 0 17, bits (fieldN b 8 4) 0 17,
    fieldN b 16 6, fieldN b 24 6, bit (fieldN b 32 4) 16, fieldN b 32 2⟩

def PtRow.bytes (p : PtRow) : List Byte :=
  leBytes 4 (p.ver % 65536 * 65536 + p.sel * 2 ^ 15 + p.place * 2 ^ 13 + b2n p.upark * 2 ^ 12 + b2n p.keep * 2 ^ 11 + b2n p.staged * 2 ^ 10
      + b2n p.replay * 2 ^ 9) ++ leBytes 4 p.mapped ++ leBytes 8 p.awayN ++ leBytes 8 p.joined ++ leBytes 8 p.parkt
    ++ leBytes 4 (b2n p.pfxv * 65536 + p.pfxh) ++ leBytes 28 0

def State.ptRow (s : State) (w slot : Nat) : PtRow := ptDec (s.peek w (s.bankNow w) (s.ptAddr w slot) 64)
def State.setPt (s : State) (w slot : Nat) (p : PtRow) : State := s.tabWrite w (s.ptAddr w slot) p.bytes

/-- Address of entry `x` of a list. -/
def State.ptEnt (s : State) (w slot list x : Nat) : Nat :=
  addrOf (s.wr w Reg.wngKvPt) 20 + 0x100000 + (2 * slot + list) * 4 * s.kvLp w + 4 * x

/-- Entry `x` of a list: LOC and ID (Table 9.3). -/
def State.entOf (s : State) (w slot list x : Nat) : Nat × Nat :=
  let v := s.peekN w (s.ptEnt w slot list x) 4
  (bits v 30 2, bits v 0 24)

def State.setEnt (s : State) (w slot list x loc id : Nat) : State := s.tabWrite w (s.ptEnt w slot list x) (leBytes 4 (loc * 2 ^ 30 + id))

/-- The live entries of a row with their indices. -/
def State.liveEnts (s : State) (w slot : Nat) : List (Nat × Nat × Nat) :=
  let p := s.ptRow w slot
  (upFrom 0 p.mapped).map fun x => (x, s.entOf w slot p.sel x)

/-- The live list of a row is read up to MAPPED (log entry 27). -/
def State.listFetch (s : State) (w slot : Nat) : State :=
  let p := s.ptRow w slot
  s.fetchIn w (s.ptEnt w slot p.sel 0) (4 * p.mapped)

/-- A list is held by a walker's snapshot (R206). -/
def State.kvHeld (s : State) (w slot list : Nat) : Bool :=
  let has (r : Option Run) : Bool := match r with | some y => y.wing = w && y.held.contains (slot, list) | none => false
  s.cores.any (fun x => has x.2.home || has x.2.guest) || s.ended.any fun e => has e.run

/-- A row may stage an edit (R206). -/
def State.canStage (s : State) (w slot : Nat) : Bool :=
  let p := s.ptRow w slot
  !p.staged && !p.replay && !s.kvHeld w slot (1 - p.sel)

def State.modGen (s : State) (w : Nat) (f : Gen → Gen) : State := s.modJob w fun j => { j with gen := f j.gen }

/-- A copy is started (R205). -/
def State.startCopy (s : State) (w kind slot idx src dst loc : Nat) : State :=
  s.modGen w fun g => { g with nextCopy := g.nextCopy + 1, copies := g.copies ++ [⟨g.nextCopy, kind, slot, idx, src, dst, loc, false, false, false⟩] }

/-! ## Rows of the sequence table -/

/-- Bytes of a row's control part are written. -/
def State.rowPut (s : State) (w slot off : Nat) (bs : List Byte) : State := s.tabWrite w (s.rowAddr w slot + off) bs

/-- STATE, REASON and BADRUN of a row are written. -/
def State.rowState (s : State) (w slot state reason badrun : Nat) : State :=
  let x := s.peekN w (s.rowAddr w slot) 4
  s.rowPut w slot 0 (leBytes 4 (state * 2 ^ 28 + reason * 2 ^ 24 + bits x 16 8 * 65536 + badrun * 4096 + bits x 0 12))

/-- An event record of a row (R188). -/
def State.seqEvent (s : State) (w kind reason slot : Nat) : State :=
  let v := s.we w Reg.wngGenEvt
  let prod := (s.job w).gen.evtProd
  let a := addrOf v 12 + 16 * (prod % 2 ^ (min (bits v 0 4) 12 + 8))
  let body := leBytes 8 (s.tread * 65536) ++ leBytes 4 (kind * 2 ^ 28 + reason * 2 ^ 24 + slot) ++ leBytes 4 (rwLen (s.rowBytes w slot))
  let s := if s.mappedIn w (s.bankNow w) [1] a 16 then s.tabWrite w a body else s.refuse w a false
  s.modGen w fun g => { g with evtProd := (prod + 1) % 2 ^ 32, evtIrq := true }

/-- A row becomes COMPLETE, CANCELLED or FAULTED: it no longer counts (R173) and gives up what it holds at 4b. -/
def State.rowEnd (s : State) (w slot state reason : Nat) : State :=
  let s := s.rowState w slot state reason (rwBadrun (s.rowBytes w slot))
  let s := s.modGen w fun g => { g with seqs := g.seqs.filter (· ≠ slot), ends := g.ends ++ [slot], resumeReq := g.resumeReq.filter (· ≠ slot) }
  s.seqEvent w (state - 3) reason slot

/-! ## Adapter table entries (R221) -/

def State.adpAddr (s : State) (w h : Nat) : Nat := addrOf (s.wr w Reg.wngAdp) 6 + 64 * h
def State.adpCount (s : State) (w : Nat) : Nat := min (bits (s.wr w Reg.wngAdp) 51 13) 4096
def State.adpEnt (s : State) (w h : Nat) : List Byte := s.peek w (s.bankNow w) (s.adpAddr w h) 64

/-- An adapter entry is read. -/
def State.adpFetch (s : State) (w h : Nat) : State := if h < s.adpCount w then s.fetchIn w (s.adpAddr w h) 64 else s

def adpState (e : List Byte) : Nat := bits (fieldN e 0 4) 30 2
def adpOldv (e : List Byte) : Bool := bit (fieldN e 0 4) 29
def adpGenNo (e : List Byte) : Nat := bits (fieldN e 0 4) 0 16
def adpOldGen (e : List Byte) : Nat := bits (fieldN e 4 4) 16 16
def adpPins (e : List Byte) : Nat := fieldN e 8 4
def adpOldPins (e : List Byte) : Nat := fieldN e 12 4

/-- A row pins the current generation of its handle (R224). -/
def State.adpPin (s : State) (w h : Nat) : State := (s.adpFetch w h).tabWrite w (s.adpAddr w h + 8) (leBytes 4 (adpPins (s.adpEnt w h) + 1))

/-- A pin on a generation is given up. -/
def State.adpUnpin (s : State) (w h gen : Nat) : State :=
  let e := s.adpEnt w h
  if h ≥ s.adpCount w then s else
  let s := s.adpFetch w h
  if adpState e = 1 ∧ adpGenNo e = gen then s.tabWrite w (s.adpAddr w h + 8) (leBytes 4 (adpPins e - 1))
  else if adpOldv e ∧ adpOldGen e = gen then s.tabWrite w (s.adpAddr w h + 12) (leBytes 4 (adpOldPins e - 1))
  else s

/-! ## Prefix table entries (R226) -/

def State.pfxAddr (s : State) (w h : Nat) : Nat := addrOf (s.wr w Reg.wngPfx) 11 + 2048 * h
def State.pfxCount (s : State) (w : Nat) : Nat := min (bits (s.wr w Reg.wngPfx) 47 17) 65536
def State.pfxState (s : State) (w h : Nat) : Nat := bits (s.peekN w (s.pfxAddr w h) 4) 30 2
def State.pfxLen (s : State) (w h : Nat) : Nat := bits (s.peekN w (s.pfxAddr w h) 4) 0 13
def State.pfxEpoch (s : State) (w h : Nat) : Nat := s.peekN w (s.pfxAddr w h + 4) 4
def State.pfxPage (s : State) (w h i : Nat) : Nat := bits (s.peekN w (s.pfxAddr w h + 64 + 4 * i) 4) 0 24

/-! ## Action 4a: void steps and commits (R178, R179, R185, R186) -/

/-- A configuration word names length table `n`. -/
def cwNames (c n : Nat) : Bool := (cwFunc c = 4 || cwRagged c) && cwTable c = n

/-- The step of table `n` in tread `t` is void. -/
def State.stepVoid (s : State) (w t n : Nat) : Bool :=
  let late (r : Option Run) : Bool := match r with | some y => y.wing = w && y.tread = t && cwNames y.cfg n | none => false
  s.ended.any (fun e => e.wing = w && e.tread = t && (e.status ≠ 0 || e.late) && cwNames e.cw n)
    || s.cores.any fun x => late x.2.home || late x.2.guest

/-- One commit of a step that is not void. A row that is not LIVE keeps its fields. -/
def State.commitRow (s : State) (w : Nat) (c : Commit) : State :=
  let r := s.rowBytes w c.slot
  if rwState r ≠ 1 then s
  else if !c.sample then s.rowPut w c.slot 12 (leBytes 4 (rwPos r + c.rows))
  else match c.bad with
    | some why =>
      let s := s.rowState w c.slot 1 0 (min 4 (rwBadrun r + 1))
      if rwBadrun r + 1 ≥ 4 then s.rowEnd w c.slot 5 why else s
    | none =>
      let s := s.rowState w c.slot 1 0 0
      let s := s.rowPut w c.slot 4 (leBytes 4 ((rwStep r + 1) % 2 ^ 32) ++ leBytes 4 c.newLen ++ leBytes 4 (c.newLen - 1))
      let s := s.rowPut w c.slot 20 (leBytes 2 c.gstate)
      if c.ending = 1 then s.rowEnd w c.slot 3 0
      else if c.ending = 2 then s.rowEnd w c.slot 3 1
      else if c.ending = 3 then s.rowEnd w c.slot 5 3
      else s

/-- 4a for a wing; `t` is the tread that ended. VOIDS counts from wing reset, whatever the table in memory held. -/
def State.genCommits (s : State) (w t : Nat) : State :=
  let cs := (s.job w).gen.commits
  let void := (upFrom 0 16).filter fun n => s.stepVoid w t n
  let s := void.foldl (fun s n =>
    let v := sat 32 (Tab.cnt (s.job w).gen.voids n + 1)
    (s.modGen w fun g => { g with voids := Tab.set g.voids n v }).tabWrite w (s.ltab w n + 0x10) (leBytes 4 v)) s
  let s := cs.foldl (fun s c => if c.tread = t && !void.contains c.table then s.commitRow w c else s) s
  s.modGen w fun g => { g with commits := g.commits.filter fun c => !(treadReached c.tread t) }

/-! ## 4b to 4d: cancellations, releases, pins, free pages (R187, R207) -/

/-- One SEQ_CANCEL at its boundary; `again`: an earlier one of the boundary named the slot (R367). -/
def State.cancelStep (s : State) (c : Cmd) (again : Bool) : State :=
  let slot := bits (c.arg 0) 0 14
  let s := s.fetchIn c.wing (s.rowAddr c.wing slot) 128
  if again then s.finish c St.noSeq [] else
  match rwState (s.rowBytes c.wing slot) with
  | 1 => (s.rowEnd c.wing slot 4 0).finish c St.ok []
  | 2 => (s.rowEnd c.wing slot 4 0).finish c St.ok []
  | 3 => s.finish c St.cancelLate []
  | 5 => s.finish c St.cancelLate []
  | _ => s.finish c St.noSeq []

/-- The SEQ_CANCELs of a boundary, in acceptance order. -/
def State.cancelAll (s : State) : List Nat → List Cmd → State
  | _, [] => s
  | seen, c :: rest =>
    let slot := bits (c.arg 0) 0 14
    (s.cancelStep c (seen.contains slot)).cancelAll (slot :: seen) rest

/-- A row that ended gives up its pages, park slots and adapter pin; copies for it are discarded when they land. -/
def State.kvRelease (s : State) (w slot : Nat) : State :=
  let row := s.rowBytes w slot
  let s := if rwNoadapt row then s else s.adpUnpin w (rwAdapter row) (rwAgen row)
  let drop (s : State) (loc id : Nat) : State :=
    if loc = 0 then s.pgUnref w id
    else s.modGen w fun g => if loc = 1 then { g with cxlUsed := g.cxlUsed.filter (· ≠ id) } else { g with hostUsed := g.hostUsed.filter (· ≠ id) }
  let s := ((s.listFetch w slot).liveEnts w slot).foldl (fun s x => drop s x.2.1 x.2.2) (s.listFetch w slot)
  -- a swap that was staged
  let mine (c : KvCopy) : Bool := (c.kind = 1 || c.kind = 2) && c.slot = slot && !c.discard
  let s := (((s.job w).gen.copies).filter mine).foldl (fun s c =>
    if c.kind = 1 then drop s c.loc c.dst else if c.landed then s.pgUnref w c.dst else s) s
  let s := s.modGen w fun g => { g with
    staged := g.staged.filter fun x => !(x.slot = slot && (x.kind = 2 || x.kind = 3))
    copies := (g.copies.filter fun c => !(mine c && c.landed)).map fun c => if mine c then { c with discard := true } else c }
  let p := s.ptRow w slot
  s.setPt w slot { p with mapped := 0, awayN := 0, place := 0, upark := false, keep := false, staged := false, pfxv := false, pfxh := 0 }

/-- 4c: pins of ended entries drop, landed copies release their source; a copied page becomes USED. -/
def State.kvPins (s : State) (w : Nat) : State :=
  let s := { s with ended := s.ended.map fun (e : Ended) =>
    if e.wing = w then { e with run := e.run.map fun (r : Run) => { r with pins := [], held := [] } } else e }
  let done := (s.job w).gen.copies.filter fun c => c.landed && (c.discard || c.kind = 0)
  let s := done.foldl (fun s c => if c.kind = 1 then s else if c.discard then s.setPage w c.dst 0 0 else (s.pgFetch w c.dst).setPage w c.dst 1 (s.pgRefs w c.dst)) s
  s.modGen w fun g => { g with copies := g.copies.filter fun c => !(c.landed && (c.discard || c.kind = 0)) }

/-- A read pin or a copy pin holds a page. -/
def State.pgPinned (s : State) (w i : Nat) : Bool :=
  let has (r : Option Run) : Bool := match r with | some y => y.wing = w && y.pins.contains i | none => false
  s.cores.any (fun x => has x.2.home || has x.2.guest) || s.ended.any (fun e => has e.run)
    || (s.job w).gen.copies.any fun c => c.kind ≠ 2 && !c.landed && c.src = i

/-- 4d. -/
def State.kvFree (s : State) (w : Nat) : State :=
  (upFrom 0 (s.kvFrames w)).foldl (fun s i => if s.pgState w i = 2 && s.pgRefs w i = 0 && !s.pgPinned w i then (s.pgFetch w i).setPage w i 0 0 else s) s

/-! ## 4e: flips (R206, R204, R209, R210, R212) -/

/-- The replay of the changed entries into the former live list, once it is not held. -/
def State.kvReplay (s : State) (w slot : Nat) : State :=
  let p := s.ptRow w slot
  if p.replay && !s.kvHeld w slot (1 - p.sel) then
    let s := (s.liveEnts w slot).foldl (fun s x => s.setEnt w slot (1 - p.sel) x.1 x.2.1 x.2.2) (s.listFetch w slot)
    s.setPt w slot { p with replay := false }
  else s

/-- SEL names the former shadow list. -/
def PtRow.flip (p : PtRow) : PtRow := { p with ver := (p.ver + 1) % 65536, sel := 1 - p.sel, staged := false, replay := true }

/-- The row is LIVE again. -/
def State.rowLive (s : State) (w slot : Nat) : State :=
  let s := s.rowState w slot 1 0 (rwBadrun (s.rowBytes w slot))
  let s := s.modGen w fun g => { g with resumeReq := g.resumeReq.filter (· ≠ slot) }
  (s.setPt w slot { (s.ptRow w slot) with place := 0, awayN := 0, upark := false, keep := false }).seqEvent w 4 0 slot

/-- ⌈min(MAXLEN, LEN + 8) ÷ 16⌉: pages that back a row (R196). -/
def backing (row : List Byte) : Nat := (min (rwMaxlen row) (rwLen row + 8) + 15) / 16

def State.flipOne (s : State) (w : Nat) (x : Staged) : State :=
  let g := (s.job w).gen
  let mine (c : KvCopy) : Bool := c.slot = x.slot && !c.discard && (match x.kind with | 2 => c.kind = 1 | 3 => c.kind = 2 | _ => c.kind = 0)
  let cs := g.copies.filter mine
  if !treadReached x.eff s.tread || cs.any (!·.landed) then s
  else
    let p := s.ptRow w x.slot
    let ok (s : State) : State :=
      match x.cid.bind fun i => s.newel.out.find? fun c => c.cid = i with
      | some c => s.finish c St.ok []
      | none => s
    let clear (s : State) : State := s.modGen w fun g => { g with
      staged := g.staged.filter fun y => !(y.slot = x.slot && y.kind = x.kind), copies := g.copies.filter fun c => !mine c }
    if x.kind ≤ 1 then
      let row := x.row.take 128
      let s := clear s
      let s := s.rowPut w x.slot 0 row
      let s := s.setPt w x.slot { p.flip with
        place := 0, upark := false, keep := false, mapped := backing row, awayN := 0, joined := s.tread, parkt := 0
        pfxv := fieldN x.row 128 1 = 1, pfxh := fieldN x.row 129 2 }
      ok (s.kvReplay w x.slot)
    else if x.kind = 2 then
      let s := clear s
      -- a failed copy leaves the page in the pool and frees the slot (R212)
      let s := cs.foldl (fun s c =>
        if c.failed then
          (s.setEnt w x.slot (1 - p.sel) c.idx 0 c.src).modGen w fun g =>
            if c.loc = 1 then { g with cxlUsed := g.cxlUsed.filter (· ≠ c.dst) } else { g with hostUsed := g.hostUsed.filter (· ≠ c.dst) }
        else s.pgUnref w c.src) s
      let s := (s.setPt w x.slot p.flip).listFetch w x.slot
      let away := ((s.liveEnts w x.slot).filter fun y => y.2.1 ≠ 0).length
      let s := s.setPt w x.slot { p.flip with place := if away = 0 then 0 else 2, awayN := away }
      (s.modGen w fun g => { g with parks := (g.parks + 1) % 2 ^ 32 }).kvReplay w x.slot
    else if cs.any (·.failed) then
      if rwState (s.rowBytes w x.slot) = 2 then s.rowEnd w x.slot 5 0 else s
    else
      let s := clear s
      let s := cs.foldl (fun s c => ((s.pgFetch w c.dst).setPage w c.dst 1 (s.pgRefs w c.dst)).modGen w fun g =>
        if c.loc = 1 then { g with cxlUsed := g.cxlUsed.filter (· ≠ c.src) } else { g with hostUsed := g.hostUsed.filter (· ≠ c.src) }) s
      ((s.setPt w x.slot p.flip).rowLive w x.slot).kvReplay w x.slot

/-- 4e for a wing: pending replays, then flips in the order in which they were staged. -/
def State.kvFlips (s : State) (w : Nat) : State :=
  let s := (upFrom 0 (s.seqCount w)).foldl (fun s i => s.kvReplay w i) s
  (s.job w).gen.staged.foldl (fun s x => s.flipOne w x) s

/-! ## 4f: growth, pre-emption, parking and swap-out (R196, R208, R209, R211) -/

/-- The rows of a state. -/
def State.rowsIn (s : State) (w st : Nat) : List Nat := (upFrom 0 (s.seqCount w)).filter fun i => rwState (s.rowBytes w i) = st

/-- Pages a LIVE row lacks. -/
def State.demand (s : State) (w slot : Nat) : Nat := backing (s.rowBytes w slot) - (s.ptRow w slot).mapped

/-- A row receives its pages, in both lists (R206), also while a late walker holds the former live list of a slot that was admitted again (DESIGN
CHOICE, log entry 76). -/
def State.grow : Nat → State → Nat → Nat → State
  | 0, s, _, _ => s
  | n + 1, s, w, slot =>
    let p := s.ptRow w slot
    let (id, s) := s.pgAlloc w 1
    let s := (s.setEnt w slot 0 p.mapped 0 id).setEnt w slot 1 p.mapped 0 id
    State.grow n (s.setPt w slot { p with mapped := p.mapped + 1 }) w slot

/-- A row becomes PARKED. -/
def State.parkRow (s : State) (w slot : Nat) (upark keep : Bool) : State :=
  let s := s.rowState w slot 2 0 (rwBadrun (s.rowBytes w slot))
  let s := s.modGen w fun g => { g with resumeReq := g.resumeReq.filter (· ≠ slot) }
  (s.setPt w slot { (s.ptRow w slot) with upark := upark, keep := keep, place := if keep then 0 else 1, parkt := s.tread }).seqEvent w 3 0 slot

/-- The rows that pre-emption parks, given with slot, demand and the key of ADMIT: latest ADMIT first, ties to the higher slot, until the demand of the rest fits (R208). -/
def preempt (free : Nat) : Nat → List (Nat × Nat × Nat) → List Nat
  | 0, _ => []
  | f + 1, ds =>
    if ds.foldl (fun a x => a + x.2.1) 0 ≤ free then []
    else
      match (ds.filter fun x => x.2.1 ≠ 0).foldl (fun (b : Option (Nat × Nat × Nat)) x => match b with
          | none => some x
          | some y => if y.2.2 < x.2.2 ∨ (y.2.2 = x.2.2 ∧ y.1 < x.1) then some x else b) none with
      | none => []
      | some v => v.1 :: preempt free f (ds.filter fun x => x.1 ≠ v.1)

/-- The CXL park area: start and slots; none when it is not wholly in one CXL window. -/
def State.kvCxl (s : State) (w : Nat) : Nat × Nat :=
  let v := s.wr w Reg.wngKvCxl
  let b := bits v 0 40 * 128
  let n := bits v 40 24
  if s.inWindowK w [2] b (n * (s.kvGeom w).fb) then (b, n) else (b, 0)

/-- The link behind an address of the CXL region is up. -/
def State.linkUp (s : State) (a : Nat) : Bool :=
  match s.region a with
  | .cxl p _ => (s.cxlPort p).st = 2
  | _ => false

/-- A free park slot: place and index (R209). -/
def State.parkSlot (s : State) (w : Nat) : Option (Nat × Nat) :=
  let (b, n) := s.kvCxl w
  let g := (s.job w).gen
  match if n ≠ 0 && s.linkUp b then (upFrom 0 n).find? fun i => !g.cxlUsed.contains i else none with
  | some i => some (1, i)
  | none => ((upFrom 0 (s.wr w Reg.wngKvHslots)).find? fun i => !g.hostUsed.contains i).map fun i => (2, i)

/-- A parked row's swap-out starts (R209); it waits while the row's lists may not be changed or the newel restarts. -/
def State.swapOut (s : State) (w slot : Nat) : State :=
  if !s.newel.running || !s.canStage w slot then s else
  let p := s.ptRow w slot
  let s := (s.liveEnts w slot).foldl (fun s x =>
    if x.2.1 ≠ 0 then s else
    let s := s.pgFetch w x.2.2
    if s.pgRefs w x.2.2 > 1 then s
    else match s.parkSlot w with
      | none => s
      | some (loc, k) =>
        let s := s.modGen w fun g => if loc = 1 then { g with cxlUsed := g.cxlUsed ++ [k] } else { g with hostUsed := g.hostUsed ++ [k] }
        (s.setEnt w slot (1 - p.sel) x.1 loc k).startCopy w 1 slot x.1 x.2.2 k loc) (s.listFetch w slot)
  let s := s.setPt w slot { p with staged := true, place := 1 }
  s.modGen w fun g => { g with staged := g.staged ++ [⟨slot, 2, none, [], treadAdd s.tread 1⟩] }

/-- SEQ_PARK and SEQ_RESUME at their boundary (R211). KEEP 1 for a row that pre-emption parked at the same 4f is dropped (DESIGN CHOICE, log entry
76). -/
def State.parkCmd (s : State) (c : Cmd) : State :=
  let w := c.wing
  let slot := bits (c.arg 0) 0 14
  let st := rwState (s.rowBytes w slot)
  let p := s.ptRow w slot
  if c.op = 0x203 then
    if st = 1 then (s.parkRow w slot true (bit (c.arg 0) 16)).finish c St.ok []
    else if st = 2 then (s.setPt w slot { p with upark := true, keep := p.keep || (bit (c.arg 0) 16 && p.place = 0) }).finish c St.ok []
    else s.finish c St.aborted []
  else if st = 2 then
    ((s.setPt w slot { p with upark := false, keep := false }).modGen w fun g =>
      { g with resumeReq := if g.resumeReq.contains slot then g.resumeReq else g.resumeReq ++ [slot] }).finish c St.ok []
  else s.finish c St.aborted []

/-- 4f for a wing; `park`: a landing parks every LIVE row (R295). -/
def State.kvGrowth (s : State) (w : Nat) (park : Bool) : State :=
  let live := s.rowsIn w 1
  let ds := live.map fun i => (i, s.demand w i, s.treadKey (s.ptRow w i).joined)
  let out := preempt (s.freePages w).length (ds.length + 1) ds
  let s := out.foldl (fun s i => s.parkRow w i false false) s
  let s := (ds.filter fun x => !out.contains x.1).foldl (fun s x => s.grow x.2.1 w x.1) s
  let s := (s.newel.out.filter fun c => c.wing = w && (c.op = 0x203 || c.op = 0x204) && s.isDue c).foldl (fun s c => s.parkCmd c) s
  let s := if park then (s.rowsIn w 1).foldl (fun s i => s.parkRow w i true true) s else s
  ((s.rowsIn w 2).filter fun i => (s.ptRow w i).place = 1 && !(s.ptRow w i).staged).foldl (fun s i => s.swapOut w i) s

/-! ## 4g: resumption (R210) -/

/-- A PARKED row is eligible. -/
def State.mayResume (s : State) (w slot : Nat) : Bool :=
  let p := s.ptRow w slot
  (!p.upark && !p.keep && !bit (s.we w Reg.wngKvCtrl) 27) || (s.job w).gen.resumeReq.contains slot

/-- Eligible PARKED rows that no swap-in brings back yet, in PARKT order, ties to the lower slot. -/
def State.toResume (s : State) (w : Nat) : List Nat :=
  sortBy (fun i => s.treadKey (s.ptRow w i).parkt * 16384 + i) ((s.rowsIn w 2).filter fun i => s.mayResume w i && (s.ptRow w i).place ≠ 3)

/-- Entries of a row outside the pool. -/
def State.awayEnts (s : State) (w slot : Nat) : List (Nat × Nat × Nat) := (s.liveEnts w slot).filter fun x => x.2.1 ≠ 0

/-- The row's swap-in starts, or the row is LIVE at once. -/
def State.resumeRow (s : State) (w slot : Nat) : State :=
  let p := s.ptRow w slot
  match s.awayEnts w slot with
  | [] => let s := s.rowLive w slot; s.grow (s.demand w slot) w slot
  | es =>
    let s := es.foldl (fun s x =>
      let (id, s) := s.pgAlloc w 3
      (s.setEnt w slot (1 - p.sel) x.1 0 id).startCopy w 2 slot x.1 x.2.2 id x.2.1) (s.listFetch w slot)
    let s := s.setPt w slot { p with staged := true, place := 3 }
    s.modGen w fun g => { g with staged := g.staged ++ [⟨slot, 3, none, [], treadAdd s.tread 1⟩] }

/-- The rows in turn, up to the first that does not fit or must wait (R206, R210). -/
def State.resumeAll : List Nat → State → Nat → State
  | [], s, _ => s
  | i :: rest, s, w =>
    let n := (s.awayEnts w i).length
    let fits := (s.freePages w).length ≥ s.kvReserve w + n + 1
    let free : Bool := (s.ptRow w i).place ≠ 1 && (n = 0 || (s.newel.running && s.canStage w i))
    if fits && free then State.resumeAll rest (s.resumeRow w i) w else s

def State.kvResume (s : State) (w : Nat) : State := State.resumeAll (s.toResume w) s w

/-- WNG_KV_STAT.STALL (R213). -/
def State.kvStall (s : State) (w : Nat) : Bool :=
  (s.rowsIn w 1).isEmpty && !((s.job w).gen.copies.any fun c => (c.kind = 1 || c.kind = 2) && !c.landed) &&
    (match s.toResume w with
     | i :: _ => (s.freePages w).length < s.kvReserve w + (s.awayEnts w i).length + 1
     | [] => false)

/-- The control parts and page-table rows of the wing’s sequences, read once for a boundary (log entry 27). -/
def State.genFetch (s : State) (w : Nat) : State :=
  (s.job w).gen.seqs.foldl (fun s i => (s.fetchIn w (s.rowAddr w i) 128).fetchIn w (s.ptAddr w i) 64) s

/-- The KV part of action 4, 4a to 4g, for a wing; `t` is the tread that ended. `policy`: the sequence policy of a landing at this boundary
(R295: 1 PARK, 2 CANCEL; 0 otherwise). -/
def State.kvAction (s : State) (w t policy : Nat) : State :=
  let s := (s.genFetch w).genCommits w t
  let s := s.cancelAll [] ((s.outOf 0x202 w).filter s.isDue)
  let s := if policy = 2 then (s.rowsIn w 1 ++ s.rowsIn w 2).foldl (fun s i => s.rowEnd w i 4 0) s else s
  let ends := (s.job w).gen.ends
  let s := (s.modGen w fun g => { g with ends := [] })
  let s := ends.foldl (fun s i => s.kvRelease w i) s
  let s := ((s.kvPins w).kvFree w).kvFlips w
  (s.kvGrowth w (policy = 1)).kvResume w

/-- The interrupt of a boundary that wrote event records (R188). -/
def State.genIrq (s : State) (w : Nat) : State :=
  if (s.job w).gen.evtIrq then
    let s := s.modGen w fun g => { g with evtIrq := false }
    let v := s.we w Reg.wngGenEvt
    if bit v 48 then s.fire (w + 1) (bits v 49 4) else s
  else s

/-! ## Copies (R205, R209, R210, R212) -/

/-- KV_COPY_LANDS: a copy's bytes have landed, or it failed. A restarting newel moves nothing (R381). -/
def State.opCopyLands (s : State) (w n clk : Nat) : State :=
  match ((s.job w).gen.copies.find? fun c => c.id = n && !c.landed) with
  | none => s
  | some c =>
    if !s.newel.running then s else
    let s := s.at_ clk
    let fb := (s.kvGeom w).fb
    let mark (s : State) (bad : Bool) : State := s.modGen w fun g => { g with
      copies := g.copies.map fun x => if x.id = n then { x with landed := true, failed := bad } else x }
    let cxl (i : Nat) : Nat := (s.kvCxl w).1 + i * fb
    let host (i : Nat) : Nat := s.wr w Reg.wngKvHost / 4096 * 4096 + i * fb
    let q := s.reqOf w
    if c.discard then mark s false
    else if c.failed then mark s true
    else if c.kind = 1 then
      let (bs, s) := s.read q (s.kvFrame w c.src) fb
      if c.loc = 1 then (if s.linkUp (cxl c.dst) then mark (s.write q (cxl c.dst) bs) false else mark s true)
      else if s.hostOk (w + 1) (host c.dst) fb then mark (s.hostWrite (w + 1) (host c.dst) bs) false else mark s true
    else if c.kind = 2 then
      if c.loc = 1 then
        let dead := (linePieces (cxl c.src) fb).any fun p => s.behind p.1 = .dead || s.timedOut p.1
        if dead || !s.linkUp (cxl c.src) then mark (s.read q (cxl c.src) fb).2 true
        else let (bs, s) := s.read q (cxl c.src) fb; mark (s.write q (s.kvFrame w c.dst) bs) false
      else match s.hostRead (w + 1) (host c.src) fb with
        | some bs => mark ((s.charge (some w) Acf.hostIn fb).write q (s.kvFrame w c.dst) bs) false
        | none => mark s true
    else
      let (bs, s) := s.read q (s.kvFrame w c.src) fb
      mark (s.write q (s.kvFrame w c.dst) bs) false

/-! ## SEQ_ADMIT, SEQ_FORK and the other sequence commands -/

/-- Masks of argument words W2 to W11: the fields of Table 8.1. -/
def rowMasks : List Nat :=
  [0xFFFFFFFFFFFFFFFF, 0x001FFFFF001FFFFF, 0xFFFFFFFF001FFFFF, 0xFFFF07FFFFFFFFFF, 0xFFFFFFFFFFFFFFF8, 0x8003FFFF001FFFFF,
   0x8003FFFF8003FFFF, 0x8003FFFF, 0xFFFFFFFFFFFFFFFF, 0x1FFFFF]

/-- The row bytes of an admission or fork command. -/
def Cmd.rowArg (c : Cmd) : List Byte := (upFrom 2 10).flatMap fun n => leBytes 8 (c.arg n)

/-- Sequences that count for R173. -/
def State.seqTotal (s : State) : Nat :=
  s.wings.foldl (fun a x => x.2.ctxs.foldl (fun a c => a + c.2.saved.gen.seqs.length) (a + x.2.job.gen.seqs.length)) 0

/-- The refusals of R172 that admissions and forks share; `len` is GEN0, `prompt` the tokens of the prompt area. -/
def State.rowRefusal (s : State) (w slot : Nat) (row : List Byte) (len prompt : Nat) : Option Nat :=
  let st := rwState (s.rowBytes w slot)
  let maxlen := rwMaxlen row
  if slot ≥ s.seqCount w then some St.badArg
  else if !([0, 3, 4, 5].contains st) then some St.slotBusy
  else if prompt = 0 ∨ len ≥ maxlen ∨ maxlen > 1048576 ∨ rwDraftN row > 8 ∨ (rwDraftN row > 0 ∧ bit (s.wr w Reg.wngMdl) 9 = false)
      ∨ rwTemp row ≥ 0x7F800000 ∨ rwTopk row > 1024
      ∨ (rwMkind row ≠ 0 ∧ rwMaskId row ≥ min (bits (s.wr w Reg.wngGenMask) 47 17) 65536)
      ∨ s.mappedIn w (s.bankNow w) [1] (rwPrompt row) (4 * prompt) = false
      ∨ s.mappedIn w (s.bankNow w) [1] (rwOut row) (8 * (maxlen - len)) = false
      ∨ maxlen > 16 * s.kvLp w then some St.badArg
  else if s.seqTotal ≥ 16384 then some St.seqLimit
  else if !rwNoadapt row && (rwAdapter row ≥ s.adpCount w || adpState (s.adpEnt w (rwAdapter row)) ≠ 1) then some St.noAdapter
  else none

/-- The control part as the flip publishes it, with the prefix after it. -/
def State.newRow (s : State) (w : Nat) (row : List Byte) (len pos pfx : Nat) (h : Option Nat) : List Byte :=
  let x := fieldN row 0 4
  let agen := if rwNoadapt row then 0 else adpGenNo (s.adpEnt w (rwAdapter row))
  leBytes 4 (2 ^ 28 + bits x 16 8 * 65536 + bits x 0 12) ++ leBytes 4 0 ++ leBytes 4 len ++ leBytes 4 pos ++ sliceB row 16 12
    ++ leBytes 4 (agen * 65536 + rwTopk row) ++ sliceB row 32 8 ++ leBytes 4 len ++ sliceB row 44 28 ++ leBytes 4 pfx ++ leBytes 52 0
    ++ leBytes 1 (b2n h.isSome) ++ leBytes 2 (h.getD 0)

/-- An accepted admission or fork is laid out in the shadow list: `share` pages shared, then a copy of `part`, then fresh pages. -/
def State.stageRow (s : State) (w slot kind : Nat) (c : Cmd) (row : List Byte) (share : List Nat) (part : Option Nat) : State :=
  let p := s.ptRow w slot
  let l := 1 - p.sel
  let n := backing row
  let s := ((upFrom 0 share.length).zip share).foldl (fun s (x : Nat × Nat) => (s.pgRef w x.2).setEnt w slot l x.1 0 x.2) s
  let s := match part with
    | some src =>
      let (id, s) := s.pgAlloc w 3
      (s.setEnt w slot l share.length 0 id).startCopy w 0 slot share.length src id 0
    | none => s
  let first := share.length + b2n part.isSome
  let s := (upFrom first (n - first)).foldl (fun s x => let (id, s) := s.pgAlloc w 1; s.setEnt w slot l x 0 id) s
  let s := if rwNoadapt row then s else s.adpPin w (rwAdapter row)
  let s := s.setPt w slot { p with staged := true }
  (s.modGen w fun g => { g with seqs := g.seqs ++ [slot], staged := g.staged ++ [⟨slot, kind, some c.cid, row, c.eff⟩] }).hold c

def spcSeqAdmit : CmdSpec := ⟨0x200, true, true, false, [0x1FFFF00003FFF, 0x1FFFFF] ++ rowMasks⟩
def spcSeqFork : CmdSpec := ⟨0x201, true, true, false, [0x1FFFFF3FFF3FFF, 0] ++ rowMasks⟩
def spcSeqCancel : CmdSpec := ⟨0x202, true, true, false, [0x3FFF]⟩
def spcSeqPark : CmdSpec := ⟨0x203, true, true, false, [0x13FFF]⟩
def spcSeqResume : CmdSpec := ⟨0x204, true, true, false, [0x3FFF]⟩

/-- The reads that the newel makes of a row's tables for a sequence command. -/
def State.seqFetch (s : State) (w slot : Nat) : State :=
  if slot < s.seqCount w then (s.fetchIn w (s.rowAddr w slot) 256).fetchIn w (s.ptAddr w slot) 64 else s

/-- The newel fetches a prefix entry. -/
def State.pfxFetch (s : State) (w h : Nat) : State := if h < s.pfxCount w then s.fetchIn w (s.pfxAddr w h) 2048 else s

/-- SEQ_ADMIT (R172, R203, R214, R224, R228). -/
def State.cmdSeqAdmit (s : State) (c : Cmd) : State :=
  let w := c.wing
  let s := s.seqFetch w (bits (c.arg 0) 0 14)
  let s := if bit (c.arg 0) 48 then s.pfxFetch w (bits (c.arg 0) 32 16) else s
  let s := if rwNoadapt c.rowArg then s else s.adpFetch w (rwAdapter c.rowArg)
  let slot := bits (c.arg 0) 0 14
  let h := bits (c.arg 0) 32 16
  let named := bit (c.arg 0) 48
  let prompt := bits (c.arg 1) 0 21
  let arg := c.rowArg
  let known : Bool := named && h < s.pfxCount w && s.pfxState w h = 2
  let pfx := if known then s.pfxLen w h else 0
  let len := pfx + prompt
  match s.rowRefusal w slot arg len prompt with
  | some st => s.complete c st 0 []
  | none =>
    let row := s.newRow w arg len pfx pfx (if named then some h else none)
    let share := (upFrom 0 (pfx / 16)).map (s.pfxPage w h)
    let part := if pfx % 16 = 0 then none else some (s.pfxPage w h (pfx / 16))
    if named && !known then s.complete c St.noPrefix 0 []
    else if named && s.pfxEpoch w h ≠ (s.job w).vr.wep then s.complete c St.prefixStale 0 []
    else
    let s := share.foldl (fun s i => s.pgFetch w i) s
    if share.any fun i => s.pgRefs w i ≥ 65535 then s.complete c St.refLimit 0 []
    else if !s.canStage w slot then s.complete c St.rowLive 0 []
    else if (s.freePages w).length < s.kvReserve w + (backing row - pfx / 16) then s.complete c St.poolFull 0 []
    else s.stageRow w slot 0 c row share part

/-- SEQ_FORK (R204). -/
def State.cmdSeqFork (s : State) (c : Cmd) : State :=
  let w := c.wing
  let s := (s.seqFetch w (bits (c.arg 0) 0 14)).seqFetch w (bits (c.arg 0) 16 14)
  let s := if rwNoadapt c.rowArg then s else s.adpFetch w (rwAdapter c.rowArg)
  let src := bits (c.arg 0) 0 14
  let dst := bits (c.arg 0) 16 14
  let flen := bits (c.arg 0) 32 21
  let arg := c.rowArg
  let from_ := s.rowBytes w src
  let p := s.ptRow w src
  let pfx := rwPfx from_
  if src ≥ s.seqCount w then s.complete c St.badArg 0 []
  else if !(rwState from_ = 1 || (rwState from_ = 2 && p.place = 0)) then s.complete c St.slotBusy 0 []
  else if flen = 0 ∨ flen - 1 < pfx ∨ flen - 1 > rwPos from_ then s.complete c St.badArg 0 []
  else match s.rowRefusal w dst arg flen (flen - pfx) with
    | some st => s.complete c st 0 []
    | none =>
      let row := s.newRow w arg flen (flen - 1) pfx (if p.pfxv then some p.pfxh else none)
      let k := (flen - 1) / 16
      let page (x : Nat) : Nat := (s.entOf w src p.sel x).2
      let share := (upFrom 0 k).map page
      let part := if (flen - 1) % 16 = 0 then none else some (page k)
      let s := share.foldl (fun s i => s.pgFetch w i) (s.fetchIn w (s.ptEnt w src p.sel 0) (4 * (share.length + b2n part.isSome)))
      if share.any fun i => s.pgRefs w i ≥ 65535 then s.complete c St.refLimit 0 []
      else if (s.freePages w).length < s.kvReserve w + (backing row - k) then s.complete c St.poolFull 0 []
      else if !s.canStage w dst then s.complete c St.rowLive 0 []
      else s.stageRow w dst 1 c row share part

/-- SEQ_CANCEL: its outcome falls at its boundary (R187). -/
def State.cmdSeqCancel (s : State) (c : Cmd) : State :=
  if bits (c.arg 0) 0 14 ≥ s.seqCount c.wing then s.complete c St.badArg 0 [] else s.hold c

/-- SEQ_PARK and SEQ_RESUME: refused with NO_SEQ unless the row is LIVE, or PARKED (R211). -/
def State.cmdSeqPark (s : State) (c : Cmd) (want : Nat) : State :=
  let slot := bits (c.arg 0) 0 14
  let s := s.seqFetch c.wing slot
  if slot ≥ s.seqCount c.wing then s.complete c St.badArg 0 []
  else if rwState (s.rowBytes c.wing slot) ≠ want then s.complete c St.noSeq 0 [] else s.hold c

end Sys2Proof.Machine
end

