-- ==== Sys2Proof/Machine/Attn.lean ====
section
/-!
DEFINITION. ATTN with the page walker (spec/03_core.md R78, spec/09_kv_cache.md R198 to R202).
-/
namespace Sys2Proof.Machine

/-- What an ATTN word says (R198). -/
structure AttnCtx where
  w : Nat
  layer : Nat
  shares : Nat
  share : Nat
  heads : Nat
  dk : Nat
  dv : Nat
  geom : KvGeom
deriving DecidableEq, Repr

def State.attnCtx (s : State) (r : Run) : AttnCtx :=
  let c := r.cfg
  ⟨r.wing, bits (cwArg c 1) 0 8, bits (cwArg c 1) 8 12, bits (cwArg c 1) 20 12, bits (cwArg c 2) 0 8, bits (cwArg c 2) 8 8 * 16,
    bits (cwArg c 2) 16 8 * 16, s.kvGeom r.wing⟩

/-- The order in which `n` terms are added (log entry 21). -/
def addOrd (n : Nat) : List Nat := let o := Config.addOrder n; if o.isPerm (upFrom 0 n) then o else upFrom 0 n

/-- Σ of products of pairs, each step one fused multiply-add (R117). -/
def dotFp (xs : List (El × El)) : El :=
  (addOrd xs.length).foldl (fun (a : El) i =>
    let t := xs.getD i ((Fp.zero, false), (Fp.zero, false))
    (ffma t.1.1 t.2.1 a.1, a.2 || t.1.2 || t.2.2)) (Fp.zero, false)

/-- The address of a token's record of the word's layer in a page (R192). -/
def State.tokenRec (s : State) (a : AttnCtx) (page j : Nat) : Nat :=
  s.kvFrame a.w page + a.layer * 16 * a.geom.tokb + j * a.geom.tokb

/-- The scale of the latents: a static record for a tensor-scaled LFMT (R193); none where R101 rejects it. -/
def State.kvScale (s : State) (r : Run) (a : AttnCtx) : Option Int × State :=
  if !fmtTensor a.geom.lfmt then (some 0, s) else
  match fmtInfo a.geom.lfmt, s.sclRead a.w r.bank a.geom.scl a.geom.lfmt with
  | some f, (some rec, s) => (some (sclExp f rec false), s)
  | _, (_, s) => (none, s)

/-- A resolved page index: its page, or none when it cannot be resolved (R199, R201). The pin is taken. -/
def State.walk (s : State) (core : Nat) (g : Bool) (w slot : Nat) (p : PtRow) (x : Nat) : Option Nat × State :=
  if x ≥ p.mapped then (none, s) else
  let s := s.fetchIn w (s.ptEnt w slot p.sel x) 4
  let (loc, id) := s.entOf w slot p.sel x
  if loc ≠ 0 then (none, s) else
  match s.runAt core g with
  | none => (none, s)
  | some r =>
    if r.pins.contains id then (some id, s)
    else
      -- the pins of ended entries drop at action 4 (R201)
      let gone := (s.ended.filter fun e => e.core = core).foldl (fun n e => n + e.run.elim 0 (·.pins.length)) 0
      let held := (s.core core).home.elim 0 (·.pins.length) + (s.core core).guest.elim 0 (·.pins.length) + gone
      if held ≥ 65536 then (none, s) else (some id, s.modRun core g fun r => { r with pins := r.pins ++ [id] })

/-- One token's record as read: the latents decoded, then the positional part. -/
def State.tokenRead (s : State) (r : Run) (a : AttnCtx) (sc : Option Int) (page j : Nat) : List El × List El × State :=
  let (b, s) := s.read (s.entryReq r false) (s.tokenRec a page j) a.geom.tokb
  let lat := match fmtInfo a.geom.lfmt with
    | some f => (decodeBytes f (sc.getD 0) (b.take a.geom.latBytes)).map fun x => (x.1, x.2 || sc.isNone)
    | none => []
  let pos := match fmtInfo 2 with
    | some f => decodeBytes f 0 (b.drop a.geom.latBytes)
    | none => []
  (lat, pos, s)

/-- Keys and values of one position, expanded (R202): per head its DK key columns followed by the positional part, and its DV values. -/
structure Kv where
  keys : List (List El)
  vals : List (List El)
deriving DecidableEq, Repr

def expand (pass : Nat) (a : AttnCtx) (w : Nat → Nat → PEl) (lat pos : List El) : Kv :=
  let x (k : Nat) : PEl := let e := lat.getD k (Fp.zero, false); ((e.1, Fp.zero), e.2)
  let col (c : Nat) : El := prodEl pass a.geom.lat (Fp.zero, false) x fun k => w k c
  { keys := (upFrom 0 a.heads).map fun h => ((upFrom 0 a.dk).map fun i => col (h * a.dk + i)) ++ pos.take a.geom.pdim
    vals := (upFrom 0 a.heads).map fun h => (upFrom 0 a.dv).map fun i => col (a.heads * a.dk + h * a.dv + i) }

/-- A position whose page cannot be resolved is delivered poisoned (R201). -/
def Kv.poisoned (a : AttnCtx) : Kv :=
  { keys := List.replicate a.heads (List.replicate (a.dk + a.geom.pdim) (Fp.zero, true))
    vals := List.replicate a.heads (List.replicate a.dv (Fp.zero, true)) }

/-- The larger of two values, keeping a NaN once one is seen. -/
def maxEl (a b : El) : El := (rowMax a.1 b.1, a.2 || b.2)

/-- One head of one row over its positions: unnormalised output, maximum and sum (R199, R202). -/
def headOut (s0 : Nat) (dv : Nat) (q : List El) (kv : List (List El × List El)) : List El × El × El :=
  let scores := kv.map fun x => let d := dotFp (q.zip x.1); (fmul d.1 (Fp.of32 s0), d.2)
  let m := scores.foldl maxEl (Fp.inf true, false)
  let ws := scores.map fun x => (stageExp (fadd x.1 m.1.negate), x.2 || m.2)
  let one : El := (Fp.ofInt 1, false)
  let sum := dotFp (ws.map fun x => (x, one))
  ((upFrom 0 dv).map fun i => dotFp (ws.zip (kv.map fun x => x.2.getD i (Fp.zero, false))), m, sum)

/-- What an entry has gathered: the pages expanded so far, each token with its poison, the present sequence's positions, and whether one that some row
attends to is poisoned or missing (R85). -/
structure Gathered where
  pages : Tab (List (Kv × Bool))
  kvs : List (Nat × Kv)
  miss : Bool

/-- A page read and expanded; one expanded before serves again (R202). -/
def State.page (s : State) (r : Run) (a : AttnCtx) (sc : Option Int) (wt : Nat → Nat → PEl) (x : Gathered) (id : Nat) :
    List (Kv × Bool) × Gathered × State :=
  match Tab.find x.pages id with
  | some p => (p, x, s)
  | none =>
    let (p, s) := (upFrom 0 16).foldl (fun (b : List (Kv × Bool) × State) j =>
      let (lat, pos, s) := b.2.tokenRead r a sc id j
      (b.1 ++ [(expand (cwPass r.cfg) a wt lat pos, lat.any (·.2) || pos.any (·.2))], s)) ([], s)
    (p, { x with pages := Tab.set x.pages id p }, s.charge (some a.w) Acf.products (16 * a.geom.lat * (a.heads * (a.dk + a.dv)) * cwPass r.cfg))

/-- Gather the keys and values of one sequence's positions below `n` that the share holds. -/
def State.gather (s : State) (core : Nat) (g : Bool) (r : Run) (a : AttnCtx) (sc : Option Int) (wt : Nat → Nat → PEl) (slot n : Nat) (p : PtRow)
    (x : Gathered) : Gathered × State :=
  ((upFrom 0 ((n + 15) / 16)).filter fun i => i % max 1 a.shares = a.share).foldl (fun (acc : Gathered × State) i =>
    let (pg, s) := acc.2.walk core g a.w slot p i
    match pg with
    | none => ({ acc.1 with kvs := acc.1.kvs ++ (upFrom 0 16).map fun j => (16 * i + j, Kv.poisoned a), miss := true }, s)
    | some id =>
      let (toks, x, s) := s.page r a sc wt acc.1 id
      let mine := (upFrom 0 toks.length).zip toks
      ({ x with
        kvs := x.kvs ++ mine.map fun y => (16 * i + y.1, y.2.1)
        miss := x.miss || mine.any fun y => 16 * i + y.1 < n && y.2.2 }, s)) ({ x with kvs := [], miss := false }, s)

/-- The writes of share 0 (R200), those of the other rows too when one is refused (log entry 76): the latent and positional parts of each row of an entry, from DATA. -/
def State.kvWrites (s : State) (core : Nat) (g : Bool) (r : Run) (a : AttnCtx) (sc : Option Int) (fd : FmtInfo) (data : List PEl) (e : LEnt) (p : PtRow) : State :=
  (upFrom 0 e.rows).foldl (fun s i =>
    let pos := e.first + i
    let row := (upFrom 0 (a.geom.lat + a.geom.pdim)).map fun k => PEl.vec (matAt fd data (a.geom.lat + a.geom.pdim) (e.off + i) k)
    let (loc, id) := s.entOf a.w e.slot p.sel (pos / 16)
    let s := (s.fetchIn a.w (s.ptEnt a.w e.slot p.sel (pos / 16)) 4).pgFetch a.w id
    if pos / 16 ≥ p.mapped || loc ≠ 0 || s.pgRefs a.w id ≠ 1 then s.modRun core g fun r => { r with fault := true }
    else match fmtInfo a.geom.lfmt, fmtInfo 2 with
      | some f, some fp =>
        let out (f : FmtInfo) (xs : List El) : List (List OutEl) := f.units [xs.map fun x => ⟨x.1, x.2, .rne⟩]
        let (lb, st) := encodeUnits f (sc.getD 0) (out f (row.take a.geom.lat))
        let (pb, st2) := encodeUnits fp 0 (out fp (row.drop a.geom.lat))
        let lb := if sc.isNone then lb.map fun b => (b.1, true) else lb
        let at0 := s.tokenRec a id (pos % 16)
        -- a pool laid over bytes that only the module writes, or outside the windows, is refused the write (R171, R339)
        if !s.mappedIn a.w r.bank [1, 2] at0 (lb ++ pb).length || s.barred a.w at0 (lb ++ pb).length then
          (s.refuse a.w at0 false).modRun core g fun r => { r with fault := true }
        else
        let s := s.write (s.entryReq r false) at0 (lb ++ pb)
        let s := if f.kind = 1 && sc.isSome then s.sclCount a.w r.bank a.geom.scl st.saturated else s
        s.modRun core g fun r => { r with
          vanished := r.vanished + st.vanished, saturated := r.saturated + (if f.kind = 1 then st.saturated else 0)
          nfCount := r.nfCount + st.nonFinite + st2.nonFinite, nf := r.nf || st.nonFinite + st2.nonFinite ≠ 0
          pzn := r.pzn || sc.isNone
          amax := if f.kind = 1 && sc.isSome then Tab.set r.amax a.geom.scl (max (Tab.cnt r.amax a.geom.scl) st.amax) else r.amax }
      | _, _ => s) s

/-- Open values for elements that the spec does not state. -/
def State.freeEls : Nat → State → List El × State
  | 0, s => ([], s)
  | n + 1, s => let (v, s) := s.free; let (rest, s) := State.freeEls n s; ((Fp.of32 v, false) :: rest, s)

/-- ATTN over pages (R199 to R202). Tables are taken as they stand at the function row, and a sequence without a snapshot from its present row
(log entry 76). -/
def State.attnWalk (s : State) (core : Nat) (g : Bool) (r : Run) : State :=
  let a := s.attnCtx r
  let kq := r.role 0 0 0
  let kw := r.role 1 0 0
  let kd := r.role 6 0 0
  let (qs, nq, s) := s.operand core g r .vec kq
  let (ws, nw, s) := s.operand core g r (takeFor (cwPass r.cfg) 3) kw
  let (ds, nd, s) := s.operand core g r .vec kd
  let (c0, nc, s) := s.initial core g r 2 0
  let s := s.inputs core g (nq + nw + nd + nc)
  let (bias, mulb, s) := s.sideStreams core g r 0
  let (tp, s) := s.tops r 2 0
  let fq := (r.roleFmt kq).getD ⟨0, none, 0, 8, 0, 0⟩
  let fw := (r.roleFmt kw).getD ⟨0, none, 0, 8, 0, 0⟩
  let fd := (r.roleFmt kd).getD ⟨0, none, 0, 8, 0, 0⟩
  let (sc, s) := s.kvScale r a
  let cols := a.heads * (a.dk + a.dv)
  let wt (k n : Nat) : PEl := statAt fw ws a.geom.lat cols k n
  let qw := a.heads * (a.dk + a.geom.pdim)
  let width := r.rowWidth 2
  let e0 := bits (cwArg r.cfg 0) 0 16
  let mine := ((s.ltabEnts a.w (cwTable r.cfg)).drop e0).take (bits (cwArg r.cfg 0) 16 16)
  -- every sequence was snapshotted at the first clk (R199)
  let snaps := mine.map fun e => (e, match Tab.find r.snaps e.slot with | some b => ptDec b | none => s.ptRow a.w e.slot)
  let s := if a.share = 0 then snaps.foldl (fun s x => s.kvWrites core g r a sc fd ds x.1 x.2) s else s
  let (outs, _, s) := snaps.foldl (fun (acc : Tab (List El) × Gathered × State) (x : LEnt × PtRow) =>
    let e := x.1
    let (gt, s) := acc.2.2.gather core g r a sc wt e.slot (e.first + e.rows) x.2 acc.2.1
    let kvs := gt.kvs
    let s := if gt.miss then s.modRun core g fun r => { r with pzn := true } else s
    -- scores, their maximum, exponentials and sum, the weighted values and their division, for each head of each row (R117)
    let pos := (upFrom 0 e.rows).foldl (fun n i => n + (kvs.filter fun y => y.1 ≤ e.first + i).length) 0
    let s := s.charge (some a.w) Acf.vecOps (a.heads * (pos * (a.dk + a.geom.pdim + a.dv + 5) + e.rows * a.dv))
    ((upFrom 0 e.rows).foldl (fun t i =>
      let seen := kvs.filter fun y => y.1 ≤ e.first + i
      let row := (upFrom 0 a.heads).flatMap fun h =>
        let q := (upFrom 0 (a.dk + a.geom.pdim)).map fun k => PEl.vec (matAt fq qs qw (e.off + i) (h * (a.dk + a.geom.pdim) + k))
        let (o, m, z) := headOut (cwS0 r.cfg) a.dv q (seen.map fun y => (y.2.keys.getD h [], y.2.vals.getD h []))
        if a.shares > 1 then o ++ [m, z] else o.map fun v => (fdiv v.1 z.1, v.2 || z.2)
      Tab.set t (e.off + i) row) acc.1, gt, s)) ([], ⟨[], [], false⟩, s)
  -- rows of other words' entries are not stated
  let (rows, s) := (upFrom 0 r.rows).foldl (fun (acc : List (List El) × State) m =>
    match Tab.find outs m with
    | some y => (acc.1 ++ [y], acc.2)
    | none => let (y, s) := State.freeEls width acc.2; (acc.1 ++ [y], s)) ([], s)
  if a.shares > 1 then s.putRows core g 2 0 rows
  else
    let fy := (r.roleFmt (r.outRole 2 0)).getD ⟨0, none, 0, 8, 0, 0⟩
    let ys := if cwAcc r.cfg then ((upFrom 0 rows.length).zip rows).map fun x => ((upFrom 0 x.2.length).zip x.2).map fun y =>
        let c := PEl.vec (matAt fy c0 width x.1 y.1); (fadd y.2.1 c.1, y.2.2 || c.2) else rows
    let fm := (r.roleFmt (r.role 5 0 0)).getD ⟨0, none, 0, 8, 0, 0⟩
    let (out, s) := s.epilogue core g (cwAcc r.cfg) (fun col => bias.getD col (Fp.zero, false))
      (fun i => PEl.vec (matAt fm mulb width (i / width) (i % width))) (fun i => topAt tp (fy.placeOf width i)) width 0 ys
    s.putRows core g 2 0 out

/-- ATTN. With WALK = 0 the spec states no operands and no result: the outputs are open values (log entry 22). -/
def State.attnFn (s : State) (core : Nat) (g : Bool) (r : Run) : State :=
  if cwWalk r.cfg then s.attnWalk core g r
  else
    let (rows, s) := (upFrom 0 r.rows).foldl (fun (acc : List (List El) × State) _ =>
      let (y, s) := State.freeEls (cwN r.cfg) acc.2; (acc.1 ++ [y], s)) ([], s)
    s.putRows core g 2 0 rows

end Sys2Proof.Machine
end

