-- ==== Sys2Proof/Machine/Dma.lean ====
section
/-!
DEFINITION. DMA channels and descriptors (spec/07_streams_dma.md R160 to R169).
-/
namespace Sys2Proof.Machine

/-- Descriptors of a channel's ring (13 to 15 act as 12). -/
def Chan.size (c : Chan) : Nat := 2 ^ (min (bits c.ring 1 4) 12 + 4)

/-- The channel has descriptors given to it that it has not finished. -/
def Chan.work (c : Chan) : Bool := c.head % c.size ≠ c.tail % c.size

def State.modChan (s : State) (c : Nat) (f : Chan → Chan) : State := { s with chans := Tab.set s.chans c (f (s.chan c)) }

/-- The channel that a function's access names: a VF reaches the channels of its own wing by index, the PF a wing's channels at the
wing-indexed offset (R160). -/
def State.chanOf (s : State) (fn w idx : Nat) : Option Nat :=
  if fn = 0 ∨ fn = w + 1 then (s.chanSet w)[idx]? else none

/-- DMA_CH_TAIL (R162): the channel reads on from where it waits. -/
def State.tailWrite (s : State) (c v : Nat) : State :=
  s.modChan c fun x =>
    let x := { x with tail := v % 65536, waitOwn := false }
    { x with idle := if bit x.ctrl 0 && x.work then false else x.idle }

/-- DMA_CH_CTRL (R161, R169): the window check of a local ring at EN = 1, the drain at EN = 0. -/
def State.ctrlWrite (s : State) (w c v : Nat) : State :=
  let x := s.chan c
  let v := v &&& 0xFD
  if bit v 0 && !bit x.ctrl 0 then
    if bit x.ring 0 && !s.inHbm w (x.ring / 4096 * 4096) (64 * x.size) then
      s.modChan c fun x => { x with ctrl := v - 1, stat := x.stat ||| 8 }
    else s.modChan c fun x => { x with ctrl := v, drain := false, idle := if x.work && !x.waitOwn then false else x.idle }
  else if !bit v 0 && bit x.ctrl 0 then s.modChan c fun x => { x with ctrl := v, drain := !x.idle }
  else s.modChan c fun x => { x with ctrl := v }

/-- DMA_CH_STAT: writing 1 clears. -/
def State.statClear (s : State) (c v : Nat) : State := s.modChan c fun x => { x with stat := x.stat &&& (15 - v % 16) }

/-! ## Descriptors -/

/-- How a descriptor ended: STATUS of Table 7.4, bytes done, ERR_ADDR, PZN, NF. -/
structure DescEnd where
  status : Nat
  done : Nat
  err : Nat
  pzn : Bool
  nf : Bool
deriving DecidableEq, Repr

def invalidEnd : DescEnd := ⟨3, 0, 0, false, false⟩

/-- Address of a channel's descriptor at HEAD. -/
def Chan.descAddr (c : Chan) : Nat := c.ring / 4096 * 4096 + 64 * (c.head % c.size)

/-- The descriptor at HEAD; none when its ring refuses the read. -/
def State.descRead (s : State) (w : Nat) (c : Chan) : Option (List Byte) × State :=
  if bit c.ring 0 then
    if s.mappedIn w (s.bankNow w) [1] c.descAddr 64 then
      let (b, s) := s.read (s.reqOf w) c.descAddr 64
      (some (b.map (·.1)), s)
    else (none, s)
  else match s.hostRead (w + 1) c.descAddr 64 with
    | some b => (some (b.map (·.1)), s.hostIn (w + 1) 64)
    | none => (none, s)

/-- Bytes of the ring are written; a local ring where the wing may not write is refused. -/
def State.descWrite (s : State) (w : Nat) (c : Chan) (off : Nat) (bs : List Byte) : State :=
  if bit c.ring 0 then
    let a := c.descAddr + off
    if s.mappedIn w (s.bankNow w) [1] a bs.length && !s.barred w a bs.length then s.write (s.reqOf w) a (clean bs) else s.refuse w a false
  else s.hostWrite (w + 1) (c.descAddr + off) (clean bs)

/-- HEAD moves on after a descriptor; a drain ends here (R169). -/
def State.headOn (s : State) (c : Nat) : State :=
  s.modChan c fun x =>
    let x := { x with head := (x.head + 1) % x.size }
    { x with idle := !(bit x.ctrl 0 && x.work), drain := false }

/-- Writeback of a descriptor (R162), its status bits, and its interrupt (R168). -/
def State.descDone (s : State) (w c : Nat) (hdr : Nat) (e : DescEnd) : State :=
  let x := s.chan c
  let s := s.descWrite w x 52 (leBytes 4 e.done ++ leBytes 8 e.err)
  let h := bits hdr 24 5 * 2 ^ 24 + bits hdr 29 2 * 2 ^ 29 + e.status * 2 ^ 21 + b2n e.pzn * 2 ^ 20 + b2n e.nf * 2 ^ 19 + bits hdr 0 19
  let s := s.descWrite w x 0 (leBytes 4 h)
  let bits_ := (match e.status with | 1 => 4 | 2 => 8 | 3 => 2 | _ => 0) ||| b2n e.pzn
  let s := (s.modChan c fun x => { x with stat := x.stat ||| bits_ }).headOn c
  if (bit hdr 28 && bit x.ctrl 2) || (e.status ≠ 0 && bit x.ctrl 3) then s.fire (w + 1) (bits x.ctrl 4 4) else s

/-- An address of this module (R26). -/
def State.isHere (s : State) (a : Nat) : Bool := let m := a / 2 ^ 47; m = s.me || m = 0x1FFFF

/-! ## List class (R165) -/

/-- A side of a list-class transfer: its ranges in order, and where they stop short: a status and ERR_ADDR. -/
structure Side where
  host : Bool
  ranges : List (Nat × Nat)
  stop : Option (Nat × Nat)
deriving DecidableEq, Repr

/-- Read `n` bytes of a wing's transfer: the bytes, or the status that stops it. -/
def State.sideRead (s : State) (w : Nat) (host noalloc : Bool) (a n : Nat) : Option (List PByte) × Nat × State :=
  if host then
    match s.hostRead (w + 1) a n with
    | some b => (some b, 0, s.charge (some w) Acf.hostIn n)
    | none => (none, 1, s)
  else
    let x := a % 2 ^ 47
    if s.mappedIn w (s.bankNow w) [1, 2] x n then
      let (b, s) := s.read { (s.reqOf w) with noalloc := noalloc } x n
      (some b, 0, s)
    else (none, 2, s.refuse w x false)

/-- Write bytes of a wing's transfer: the status, 0 when they were written. -/
def State.sideWrite (s : State) (w : Nat) (host noalloc : Bool) (a : Nat) (bs : List PByte) : Nat × State :=
  if host then (if s.hostOk (w + 1) a bs.length then (0, s.hostWrite (w + 1) a bs) else (1, s))
  else
    let x := a % 2 ^ 47
    if s.mappedIn w (s.bankNow w) [1, 2] x bs.length && !s.barred w x bs.length then
      (0, s.write { (s.reqOf w) with noalloc := noalloc } x bs)
    else (2, s.refuse w x false)

/-- The elements of a scatter-gather list from number `i` (R165). Status 4 marks an element whose local address names another module. -/
def State.listRanges (s : State) (w : Nat) (host : Bool) (base : Nat) : Nat → Nat → Nat → List (Nat × Nat) × Option (Nat × Nat) × State
  | 0, _, _ => ([], none, s)
  | n + 1, i, total =>
    match s.sideRead w host false (base + 16 * i) 16 with
    | (none, st, s) => ([], some (st, base + 16 * i), s)
    | (some b, _, s) =>
      let e := b.map (·.1)
      let a := fieldN e 0 8
      let len := fieldN e 8 4
      if !host && !s.isHere a then ([], some (4, 0), s)
      else if len = 0 ∨ fieldN e 12 4 ≠ 0 then ([], some (3, 0), s)
      else if total + len ≥ 2 ^ 32 then ([(a, 2 ^ 32 - 1 - total)], some (3, 0), s)
      else
        let (rs, st, s) := s.listRanges w host base n (i + 1) (total + len)
        ((a, len) :: rs, st, s)

/-- Pieces of two range lists cut where either side's ranges or a 4 KiB step of the source end: source, destination, length. -/
def pairPieces : Nat → List (Nat × Nat) → List (Nat × Nat) → List (Nat × Nat × Nat)
  | 0, _, _ => []
  | f + 1, src, dst =>
    match src, dst with
    | (a, n) :: sr, (b, m) :: dr =>
      let k := min (min n m) (min (4096 - a % 4096) (4096 - b % 4096))
      (a, b, k) :: pairPieces f (if k = n then sr else (a + k, n - k) :: sr) (if k = m then dr else (b + k, m - k) :: dr)
    | _, _ => []

/-- Move the pieces of a transfer until one stops it: bytes done, poison seen, the status and address of a stop. -/
def State.movePieces (s : State) (w : Nat) (sh dh noalloc : Bool) : List (Nat × Nat × Nat) → Nat → Bool → Nat × Bool × Option (Nat × Nat) × State
  | [], done, pz => (done, pz, none, s)
  | (a, b, n) :: rest, done, pz =>
    match s.sideRead w sh (noalloc && !sh) a n with
    | (none, st, s) => (done, pz, some (st, a), s)
    | (some bs, _, s) =>
      match s.sideWrite w dh (noalloc && !dh) b bs with
      | (0, s) => s.movePieces w sh dh noalloc rest (done + n) (pz || bs.any (·.2))
      | (st, s) => (done, pz, some (st, b), s)

/-- A list-class descriptor (R165). -/
def State.listRun (s : State) (w : Nat) (d : List Byte) : DescEnd × State :=
  let hdr := fieldN d 0 4
  let fl := fieldN d 32 4
  let src := fieldN d 8 8
  let dst := fieldN d 16 8
  let sl := fieldN d 24 4
  let dl := fieldN d 28 4
  let ss := bit fl 31
  let sh := bit fl 30
  let ds := bit fl 29
  let dh := bit fl 28
  let badLen (sgl : Bool) (n : Nat) : Bool := n = 0 || (sgl && n > 4096)
  if (sh && dh) || (!sh && !s.isHere src) || (!dh && !s.isHere dst) || badLen ss sl || badLen ds dl || bits fl 0 27 ≠ 0 || fieldN d 36 16 ≠ 0
      || bits hdr 0 19 ≠ 0 then (invalidEnd, s)
  else
    let (sr, sstop, s) := if ss then s.listRanges w sh src sl 0 0 else ([(src, sl)], none, s)
    let (dr, dstop, s) := if ds then s.listRanges w dh dst dl 0 0 else ([(dst, dl)], none, s)
    let tot (r : List (Nat × Nat)) : Nat := r.foldl (fun a x => a + x.2) 0
    let foreign (x : Option (Nat × Nat)) : Bool := x.any fun y => y.1 = 4
    -- refused before any byte moves
    if foreign sstop || foreign dstop then (invalidEnd, s) else
    let (done, pz, stop, s) := s.movePieces w sh dh (bit fl 27) (pairPieces (tot sr + tot dr + 2) sr dr) 0 false
    let fin : Option (Nat × Nat) := match stop with
      | some x => some x
      | none =>
        if tot sr ≤ tot dr ∧ sstop.isSome then sstop
        else if tot dr ≤ tot sr ∧ dstop.isSome then dstop
        else if tot sr ≠ tot dr then some (3, 0) else none
    match fin with
    | none => (⟨0, done, 0, pz, false⟩, s)
    | some (st, a) => (⟨st, done, if st = 3 then 0 else a, pz, false⟩, s)

/-! ## Grid class (R166) -/

/-- Fields of a grid-class descriptor (Table 7.6). -/
structure Grid where
  hdr : Nat
  src : Nat
  dst : Nat
  sstr : Nat
  dstr : Nat
  sline : Nat
  slines : Nat
  dline : Nat
  dlines : Nat
  tr : Bool
  widen : Bool
  noalloc : Bool
  sf : Nat
  df : Nat
  age : Bool
  scl : Nat
  rsv : Nat
deriving DecidableEq, Repr

def gridOf (d : List Byte) : Grid :=
  let x := fieldN d 48 4
  ⟨fieldN d 0 4, fieldN d 8 8, fieldN d 16 8, fieldN d 24 4, fieldN d 28 4, fieldN d 32 4, fieldN d 36 4, fieldN d 40 4, fieldN d 44 4,
    bit x 31, bit x 30, bit x 29, bits x 24 5, bits x 19 5, bit x 18, bits x 0 16, bits x 16 2⟩

/-- Whole elements in a line of `n` bytes of a format other than block-scaled. -/
def FmtInfo.lineElems (f : FmtInfo) (n : Nat) : Option Nat :=
  if f.ebits = 6 then (if n % 3 = 0 then some (n / 3 * 4) else none)
  else if f.ebits = 4 then some (2 * n)
  else if n * 8 % f.ebits = 0 then some (n * 8 / f.ebits) else none

/-- Alignment of an address in a format: the element size, 8 bytes for a block-scaled one. -/
def FmtInfo.align (f : FmtInfo) : Nat := if f.kind ≥ 2 then 8 else max 1 (f.ebits / 8)

/-- Elements per source line, if the descriptor's fixed fields are accepted (R164, R166). -/
def Grid.check (x : Grid) (here : Bool) : Option (FmtInfo × FmtInfo × Nat) :=
  match fmtInfo x.sf, fmtInfo x.df with
  | some f, some g =>
    let n? := if f.kind ≥ 2 then some x.sline else f.lineElems x.sline
    match n? with
    | none => none
    | some n =>
      let total := if g.kind ≥ 2 then g.rowsBytes x.slines n else g.bytesFor (n * x.slines)
      let dl : Bool := if g.kind ≥ 2 then x.dline % g.group = 0 else (g.lineElems x.dline).isSome
      if bits x.hdr 0 19 ≠ 0 || x.rsv ≠ 0 || !here || x.slines = 0 || x.dlines = 0 || !dl || x.dline * x.dlines ≠ total
          || (x.dlines > 1 && x.dstr < x.dline) || x.src % f.align ≠ 0 || x.dst % g.align ≠ 0
          || (f.kind ≥ 2 && x.sstr ≠ 0)
          || (x.widen && !((x.df = 1 || x.df = 2 || x.df = 3) && g.ebits > f.ebits))
          || (!x.widen && x.df ≠ x.sf)
          || (x.tr && !x.widen && (f.kind ≥ 2 || f.ebits = 4 || f.ebits = 6))
          || (x.tr && !(x.dlines = n && x.dline * 8 = x.slines * g.ebits)) then none
      else some (f, g, n)
  | _, _ => none

/-- The source's ranges in reading order: offset from SRC_ADDR and length. -/
def Grid.srcRanges (x : Grid) (f : FmtInfo) : List (Nat × Nat) :=
  if f.kind ≥ 2 then [(0, f.rowsBytes x.slines x.sline)] else (upFrom 0 x.slines).map fun i => (i * x.sstr, x.sline)

/-- Read the local source ranges until one is refused: the bytes and the address of the refusal. -/
def State.gridRead (s : State) (w : Nat) (x : Grid) : List (Nat × Nat) → List PByte × Option Nat × State
  | [] => ([], none, s)
  | (o, n) :: rest =>
    match s.sideRead w false x.noalloc (x.src + o) n with
    | (none, _, s) => ([], some (x.src + o), s)
    | (some b, _, s) =>
      let (bs, e, s) := s.gridRead w x rest
      (b ++ bs, e, s)

/-- The destination byte stream of the elements read, and whether a widened one is non-finite (R166). `ok` false: R101 rejects the scale
record. -/
def Grid.convert (x : Grid) (f g : FmtInfo) (n : Nat) (sexp : Int) (ok : Bool) (src : List PByte) : List PByte × Bool :=
  let rows := if f.kind ≥ 2 then (if src.isEmpty then 0 else x.slines) else if x.sline = 0 then 0 else src.length / x.sline
  let order : List (Nat × Nat) :=
    if x.tr then (upFrom 0 n).flatMap fun j => (upFrom 0 rows).map fun i => (i, j)
    else (upFrom 0 rows).flatMap fun i => (upFrom 0 n).map fun j => (i, j)
  if x.widen then
    let vals := decodeBytes f sexp src
    let p := f.pitch n
    let els : List OutEl := order.map fun (i, j) => let v := vals.getD (i * p + j) (Fp.zero, false); ⟨v.1, v.2 || !ok, .rne⟩
    let (b, st) := encodeUnits g 0 (g.units [els])
    (b, st.nonFinite ≠ 0)
  else if x.tr then
    let k := f.ebits / 8
    (order.flatMap fun (i, j) => (src.drop ((i * n + j) * k)).take k, false)
  else (src, false)

/-- Write the destination stream line by line: bytes done and the address of a refusal. -/
def State.gridWrite (s : State) (w : Nat) (x : Grid) : Nat → Nat → Nat → List PByte → Nat × Option Nat × State
  | 0, _, done, _ => (done, none, s)
  | f + 1, line, done, bs =>
    if bs.isEmpty then (done, none, s)
    else
      let part := bs.take x.dline
      match s.sideWrite w false x.noalloc (x.dst + line * x.dstr) part with
      | (0, s) => s.gridWrite w x f (line + 1) (done + part.length) (bs.drop x.dline)
      | (_, s) => (done, some (x.dst + line * x.dstr), s)

/-- The rest of a grid-class descriptor once its source is read. -/
def State.gridFinish (s : State) (w : Nat) (x : Grid) (f g : FmtInfo) (n : Nat) (src : List PByte) (stop : Option Nat) : DescEnd × State :=
  let (sexp, ok, s) :=
    if x.widen && f.kind = 1 then
      match s.sclRead w (s.bankNow w) x.scl x.sf with
      | (some rec, s) => (sclExp f rec x.age, true, s)
      | (none, s) => let (v, s) := s.free; (toSigned 8 v, false, s)
    else (0, true, s)
  let (out, nf) := x.convert f g n sexp ok (if x.tr && stop.isSome then [] else src)
  let pz := src.any (·.2) || !ok
  let (done, wstop, s) := s.gridWrite w x (x.dlines + 1) 0 0 out
  match wstop, stop with
  | some a, _ => (⟨2, done, a, pz, nf⟩, s)
  | none, some a => (⟨2, done, a, pz, nf⟩, s)
  | none, none => (⟨0, done, 0, pz, nf⟩, s)

/-- A grid-class descriptor: none while its remote reads are not answered, or not issued because the wing quiesces (R349). -/
def State.gridRun (s : State) (w c : Nat) (d : List Byte) : Option DescEnd × State :=
  let x := gridOf d
  match x.check (s.isHere x.dst) with
  | none => (some invalidEnd, s)
  | some (f, g, n) =>
    let m := x.src / 2 ^ 47
    let own := blockOwn (chanUnit c) 0
    if s.isHere x.src then
      let (b, stop, s) := s.gridRead w x (x.srcRanges f)
      let (e, s) := s.gridFinish w x f g n b stop
      (some e, s)
    else if s.hallCount ≤ m then
      (some ⟨2, 0, x.src, false, false⟩, s.refuse w (x.src % 2 ^ 47) true)
    else if !(s.fab.reqs.any fun r => r.own = own) && (x.srcRanges f).any (fun r => r.2 ≠ 0) then
      if (s.wing w).quiet then (none, s) else
      let idx := (idxOf (s.chanSet w) c).getD 0
      (none, (x.srcRanges f).foldl (fun s r => s.remote w w (1024 + idx) own r.1 m ((x.src + r.1) % 2 ^ 47) r.2 (bits x.hdr 24 3) 0 0 none) s)
    else if !s.reqsDone own then (none, s)
    else
      let (rs, s) := s.takeReqs own
      let good := rs.takeWhile fun r => !r.fault
      let stop := (rs.find? fun r => r.fault).map fun r => x.src + r.off
      let bytes := good.flatMap (·.data)
      -- whole lines only
      let bytes := if stop.isSome && f.kind < 2 && x.sline ≠ 0 then bytes.take (bytes.length / x.sline * x.sline) else if stop.isSome then [] else bytes
      let (e, s) := s.gridFinish w x f g n bytes stop
      (some e, s)

/-- DMA_LIST and DMA_GRID: the descriptor at HEAD is taken, carried out and written back. `grid`: the class the row stands for; a descriptor
of class 2 or 3 completes INVALID in either row. -/
def State.opDma (s : State) (c clk : Nat) (grid : Bool) : State :=
  match s.chanWing c with
  | none => s
  | some w =>
    let x := s.chan c
    if !((bit x.ctrl 0 || x.drain) && x.work && !x.waitOwn) then s
    else
      let s1 := s.at_ clk
      -- a descriptor whose remote reads are out was read when they were issued
      let out (s : State) : Bool := s.fab.reqs.any fun r => r.own = blockOwn (chanUnit c) 0
      match (if out s1 then ((s1.descRead w x).1, s1) else s1.descRead w x) with
      | (none, s2) =>
        -- the ring itself does not answer: the channel counts it and goes on without a writeback (log entry 18)
        if bit x.ring 0 then ((s2.refuse w x.descAddr false).modChan c fun x => { x with stat := x.stat ||| 8 }).headOn c
        else (s2.modChan c fun x => { x with stat := x.stat ||| 4 }).headOn c
      | (some d, s2) =>
        let hdr := fieldN d 0 4
        let cls := bits hdr 29 2
        if cls < 2 && (cls = 1) ≠ grid then s
        else if !bit hdr 31 then s2.modChan c fun x => { x with waitOwn := true, idle := true, drain := false }
        else if cls ≥ 2 then s2.descDone w c hdr invalidEnd
        else if grid then
          match s2.gridRun w c d with
          | (some e, s) => s.descDone w c hdr e
          | (none, s2) => if out s2 then s2 else s
        else
          let (e, s) := s2.listRun w d
          s.descDone w c hdr e

end Sys2Proof.Machine
end

