-- ==== Sys2Proof/Machine/Service.lean ====
section
/-!
DEFINITION. Background tasks, calibration, self-test, repair, unit commands and core replacement (spec/19_service.md, spec/06 R143 to
R150, spec/16 R380).
-/
namespace Sys2Proof.Machine

/-- The highest erase count of a flash block in use (SVC_FLASH, R428). -/
def Svc.maxErase (v : Svc) : Nat := v.flErase.foldl (fun m x => if v.flRetired.contains x.1 then m else max m x.2) 0

/-! ## Background tasks (R421, R422) -/

def State.bg (s : State) (n : Nat) : BgTask := (Tab.find s.svc.bg n).getD {}

def State.modBg (s : State) (n : Nat) (f : BgTask → BgTask) : State := { s with svc := { s.svc with bg := Tab.set s.svc.bg n (f (s.bg n)) } }

/-- Period in treads of the periodic tasks whose lateness SVC_BGn shows (Table 19.1, R422). -/
def bgPeriod : Nat → Option Nat
  | 7 => some 250
  | 8 => some 250000
  | 9 => some 25000
  | 10 => some 15120000000
  | 12 => some 1
  | _ => none

/-- More than `n` treads have passed since a tread of 47 bits (SVC_BGn.LAST), by the lesser distance as R32 has it for 48. -/
def bgPast (last n t : Nat) : Bool := let d := (t + 2 ^ 47 - last % 2 ^ 47) % 2 ^ 47; n < d && d < 2 ^ 46

/-- Where the present period of a task began: at its last pass, or when SVC_BGn last took its reset value. -/
def State.bgSince (s : State) (n : Nat) : Nat := if (s.bg n).ran then (s.bg n).last else s.svc.bgFrom

/-- A pass of a task ended now. -/
def State.bgEnd (s : State) (n : Nat) : State :=
  let t := s.tread
  let since := s.bgSince n
  s.modBg n fun b => { b with
    last := t % 2 ^ 47, ran := true
    late := match bgPeriod n with
      | some p => if bgPast since (2 * p) t then b.late else false
      | none => false }

/-- Ports 0 to 8 hall and twin, 9 and 10 CXL, 11 the host port: their lanes are in service (R423). -/
def State.laneOn (s : State) (p : Nat) : Bool :=
  !s.board.pinsTaken && s.boot.st ≥ 3 && (if p < 9 then (s.port p).st = 2 else if p < 11 then (s.cxlPort (p - 9)).st = 2 else true)

/-- A pass of SERDES_CAL over one port ended now: each port has its own period (Table 19.1). -/
def State.calEnd (s : State) (p : Nat) : State :=
  let t := s.tread
  let late := bgPast ((Tab.find s.svc.serdes p).getD s.svc.bgFrom) 500 t
  let s := s.modBg 7 fun b => { b with last := t % 2 ^ 47, ran := true, late := if late then b.late else false }
  { s with svc := { s.svc with serdes := Tab.set s.svc.serdes p (t % 2 ^ 47) } }

/-- The period of a port counts from its entry to service. -/
def State.calPorts (s : State) : State :=
  { s with svc := { s.svc with serdes := ((upFrom 0 12).filter s.laneOn).map fun p => (p, (Tab.find s.svc.serdes p).getD (s.tread % 2 ^ 47)) } }

/-- A task's pass has missed twice its period. -/
def State.bgMissed (s : State) (n p : Nat) : Bool :=
  if n = 7 then s.svc.serdes.any fun (x : Nat × Nat) => bgPast x.2 (2 * p) s.tread else bgPast (s.bgSince n) (2 * p) s.tread

/-- Passes that missed twice their period (R422), judged at a boundary; telemetry is late only with records waiting. -/
def State.bgLate (s : State) : State :=
  [7, 8, 9, 10, 12].foldl (fun s n =>
    match bgPeriod n with
    | some p =>
      if s.bgMissed n p && !(s.bg n).late && (n ≠ 12 || !s.acct.telq.isEmpty) then
        s.modBg n fun b => { b with late := true }
      else s
    | none => s) s.calPorts

/-- SLICE_DEFER (R422). -/
def State.opSliceDefer (s : State) (n : Nat) : State :=
  let b := s.bg n
  let tell := match b.evt with | none => true | some t => treadPast t 24999 s.tread
  let s := s.modBg n fun b => { b with deferred := sat 16 (b.deferred + 1), evt := if tell then some s.tread else b.evt }
  if tell then s.postEvt [0] (s.evtBody 2 n 0 0) 3 none else s

/-! ## Calibration and monitoring (R423, R424, R426) -/

/-- Set bits of SVC_BIST; PLL_FAIL, VMON_FAIL and TSENSE_FAIL raise alert bit 0. -/
def State.setBist (s : State) (m : Nat) : State :=
  let new := m &&& (0xFFF - s.svc.bist &&& 0xFFF)
  let s := { s with svc := { s.svc with bist := s.svc.bist ||| m } }
  if new % 8 ≠ 0 then s.alert 0 else s

/-- Sensors found bad are excluded (R424); an excluded sensor stays excluded until a reset (log entry 14). -/
def State.excludeSensors (s : State) (bad : Nat) : State :=
  let x := s.svc.tsExcl ||| bad
  let s := { s with svc := { s.svc with tsExcl := x } }
  if popCount64 x ≥ 16 then s.setBist 4 else s

/-- Monitors found bad are excluded, two per rail; a rail without one sets VMON_FAIL (R426). -/
def State.excludeMonitors (s : State) (bad : Nat) : State :=
  let x := s.svc.vmExcl ||| bad
  let s := { s with svc := { s.svc with vmExcl := x } }
  if (upFrom 0 16).any fun r => bit x (2 * r) && bit x (2 * r + 1) then s.setBist 2 else s

/-- A PLL deviation in 1/16 ppm beyond 100 ppm sets PLL_FAIL. -/
def State.judgePll (s : State) (dev16 : Nat) : State := if dev16 > 1600 then s.setBist 1 else s

/-- SERDES_CAL: a slice moves each tap of the port's lanes by at most one step; `done`: it completes the port's adaptation, whose settings RETRAIN
restores (R423). It acts on lanes in service only. -/
def State.opSerdesCal (s : State) (p : Nat) (step : List Int) (atLimit done : Bool) : State :=
  if !s.laneOn p then s else
  let old := (Tab.find s.svc.taps p).getD []
  let new := (upFrom 0 (max old.length step.length)).map fun i => old.getD i 0 + max (-1) (min 1 (step.getD i 0))
  let s := { s with svc := { s.svc with taps := Tab.set s.svc.taps p new, tapsDone := if done then Tab.set s.svc.tapsDone p new else s.svc.tapsDone } }
  let s := if atLimit && p < 9 then s.setBist (2 ^ (3 + p)) else s
  if done then s.calEnd p else s

def State.opTempCal (s : State) (bad : Nat) : State :=
  let s := s.excludeSensors bad
  ({ s with svc := { s.svc with ecal := s.svc.ecal + 1 } }).bgEnd 8

def State.opMonitor (s : State) (pll ref mon : Nat) : State := (((s.judgePll pll).judgePll ref).excludeMonitors mon).bgEnd 9

/-! ## Patrol scrub (R143, R144) -/

/-- A unit of work of a store's patrol: a pass begins with its first unit and ends with its last (log entry 15). -/
def State.scrubUnit (s : State) (store : Nat) (first last : Bool) (f : Nat → State → State) : State :=
  let s := if first then { s with svc := { s.svc with
      passes := Tab.bump s.svc.passes store 1, passStart := Tab.set s.svc.passStart store s.tread
      scrubLate := s.svc.scrubLate.filter (· ≠ store) } } else s
  let s := f (Tab.cnt s.svc.passes store) s
  if last then ({ s with svc := { s.svc with passStart := Tab.erase s.svc.passStart store } }).bgEnd (4 + store) else s

/-- SCRUB_HBM on one granule. It passes by a retired granule and a channel in FAULT without a record (DESIGN CHOICE, log entry 76). -/
def State.opScrubHbm (s : State) (g : Nat) : State :=
  let a := hbmBase + 256 * g
  if 256 * g ≥ s.hbmEnd then s
  else s.scrubUnit 0 (g = 0) (256 * (g + 1) ≥ s.hbmEnd) fun pass s =>
    if s.below a = .plain then (s.charge none Acf.hbmRd 256).touchBehind 1 pass a else s

/-- Patrol reads the words of an invalid location: its unit counts and reports them, with no backing address to name (log entry 72). -/
def State.touchStale (s : State) (pass k : Nat) : State :=
  (lineErrs s.gal.stale k).foldl (fun s (x : Nat × Nat) =>
    if x.2 = 0 ∨ x.2 = 127 then s
    else ({ s with gal := { s.gal with stale := setErr s.gal.stale x.1 (afterRead x.2) } }).found 1 pass x.2 (x.1 % 64) 0 (some k)) s

def State.opScrubGal (s : State) (sl set way : Nat) : State :=
  let k := sl * 65536 + set * 16 + way
  s.scrubUnit 1 (k = 0) (k = 32 * 65536 - 1) fun pass s =>
    match Tab.find s.gal.lines k with
    | some l => s.touch 1 pass (l.tag * 256) 256
    | none => s.touchStale pass k

def State.opScrubSram (s : State) (core word : Nat) : State :=
  let w := word / 64 * 64 % 0x80000
  s.scrubUnit 2 (core = 0 && w = 0) (core = 799 && w = 0x80000 - 64) fun pass s => s.touch 1 pass (core * 0x200000 + 4 * w) 256

/-- The number of a store: 0 HBM, 1 gallery, 2 core SRAM. -/
def storeCode (x : ScrubStore) : Nat := match x with | .hbm => 0 | .gallery => 1 | .sram => 2

/-- SCRUB_LATE: one record for a pass not finished within twice its period (Table 6.4). R144 makes one record for the store and names no unit
and no address: UNIT and ADDR are 0 (log entry 72). -/
def State.opScrubLate (s : State) (store : Nat) : State :=
  let period := if store = 0 then 720000000 else 1500000
  let late : Bool := match Tab.find s.svc.passStart store with | some t => treadPast t (2 * period) s.tread | none => false
  if s.svc.scrubLate.contains store || !late then s
  else ({ s with svc := { s.svc with scrubLate := store :: s.svc.scrubLate } }).memRecord 6 (2 - store) 1 0
    (unitKey (match store with | 0 => 2 | 1 => 1 | _ => 0) 0) 0

/-! ## The repair list and repairs with spares (R145 to R147, R430, R435) -/

/-- Keep a soft repair in the list, at most 16,384 entries (R435). -/
def State.addRepair (s : State) (kind loc spare : Nat) : State :=
  if s.svc.repairs.length < 16384 then
    { s with svc := { s.svc with repairs := s.svc.repairs ++ [⟨kind, false, loc, spare, s.tread % 2 ^ 32⟩] } }
  else { s with svc := { s.svc with listFull := true } }

def Repair.bytes (r : Repair) : List Byte :=
  leBytes 4 (r.kind * 2 ^ 30 + b2n r.fused * 2 ^ 29) ++ leBytes 4 (if r.kind = 0 then r.loc % 2 ^ 28 else r.loc) ++ leBytes 4 r.spare ++ leBytes 4 r.tread

/-- HBM offsets of the granules that a row holds: four, or those that migrations have put there or left (R145, R150). -/
def State.rowGranules (s : State) (ch bank row : Nat) : List Nat :=
  (upFrom 0 4).flatMap fun i => s.granulesAt (hbmGranule ch ((row * 16 + bank) * 4 + i))

/-- ROWFIX (R145, R147). The ADDR of its records is that of the row's first granule (DESIGN CHOICE, log entry 76). -/
def State.opRowfix (s : State) (ch bank row : Nat) : State :=
  if !s.hbm.cands.contains (RowCand.mk ch bank row) then s else
  let key := ch * 16 + bank
  let gs := s.rowGranules ch bank row
  let addr := hbmBase + gs.headD 0
  let u := unitKey 2 ch
  let s := { s with hbm := { s.hbm with
    cands := s.hbm.cands.filter fun (x : RowCand) => x ≠ RowCand.mk ch bank row
    ceWords := s.hbm.ceWords.filter fun x => x.1 ≠ ch * 2 ^ 40 + bank * 2 ^ 20 + row } }
  let used := Tab.cnt s.hbm.spares key
  let s :=
    if used < Config.spareRows key then
      let s := gs.foldl (fun s o => ((s.charge none Acf.hbmRd 256).charge none Acf.hbmWr 256).touchBehind 2 0 (hbmBase + o)) s
      let s := { s with hbm := { s.hbm with
        spares := Tab.bump s.hbm.spares key 1
        cands := s.hbm.cands.filter fun (x : RowCand) => x ≠ RowCand.mk ch bank row
        ceWords := s.hbm.ceWords.filter fun x => x.1 ≠ ch * 2 ^ 40 + bank * 2 ^ 20 + row } }
      (s.addRepair 0 (ch + bank * 2 ^ 7 + row * 2 ^ 11) used).memRecord 7 2 2 0 u addr
    else
      let s := s.memRecord 8 2 2 0 u addr
      if s.hbm.gone.length + gs.length ≤ 4096 then
        gs.foldl (fun s o => ({ s with hbm := { s.hbm with gone := s.hbm.gone ++ [o / 256] } }).addRepair 3 (o / 256) 0) s
      else s.memRecord 9 2 2 0 u addr
  s.bgEnd 1

/-- LINEFIX (R430). -/
def State.opLinefix (s : State) (sl set way : Nat) : State :=
  let k := sl * 65536 + set * 16 + way
  if !s.gal.candidates.contains k then s else
  let clear (g : Gallery) : Gallery := { g with
    candidates := g.candidates.filter (· ≠ k), ce := g.ce.filter fun (x : Nat × Nat) => x.1 / 64 ≠ k
    stale := (lineErrs g.stale k).foldl (fun e x => setErr e x.1 (afterRead x.2)) g.stale }
  let line := Tab.find s.gal.lines k
  let addr := match line with | some l => l.tag * 256 | none => 0
  let used := Tab.cnt s.svc.galSpares sl
  -- the copy reads the line word by word; uncorrectable words keep the stored mark
  let s := match line with | some l => s.touch 2 0 (l.tag * 256) 256 | none => s
  let s := { s with gal := clear s.gal }
  let s :=
    if used < 128 then
      let s := { s with gal := { s.gal with spared := s.gal.spared ++ [k] }, svc := { s.svc with galSpares := Tab.bump s.svc.galSpares sl 1 } }
      (s.addRepair 1 (sl + set * 2 ^ 5 + way * 2 ^ 17) used).memRecord 7 1 2 0 (unitKey 1 sl) addr
    else
      let s := s.evict k
      let s := { s with gal := { s.gal with retired := s.gal.retired ++ [k] } }
      s.memRecord 8 1 2 0 (unitKey 1 sl) addr
  s.bgEnd 2

/-- GALLERY_SLICE_FAULT (R431): the slice writes back every dirty line it can read; words it cannot read get the stored mark. -/
def State.opSliceFault (s : State) (sl : Nat) (unreadable : List Nat) : State :=
  if s.sliceFault sl then s else
  let mine := s.gal.lines.filter fun (x : Nat × Line) => x.1 / 65536 = sl
  let dirty (w : Nat) : Bool := mine.any fun x => x.2.dirty && x.2.tag = w / 64
  let errs := (unreadable.filter dirty).foldl (fun e w => setErr e w 127) s.mem.errs
  ((mine.map (·.1)).foldl State.evict { s with mem := { s.mem with errs := errs } }).setHw (unitKey 1 sl) 1 true

/-! ## HBM channels (R148 to R150) -/

/-- Granules that one channel stores: 3 GiB in granules of 256 bytes. -/
def chanGranules : Nat := 12582912

/-- HBM_CHANNEL_FAULT: lost training, or 64 uncorrectable errors in the tread. -/
def State.opChannelFault (s : State) (ch : Nat) (training : Bool) : State :=
  let k := unitKey 2 ch
  if !training && Tab.cnt s.hbm.ueTread ch < 64 then s
  else if (s.unit k).hw = 0 then s.setHw k 1 true
  else if (s.unit k).hw = 2 then { s with hbm := { s.hbm with faultCh := some ch } }
  else s

/-- HBM_RETIRE's own checks (R148, R149). -/
def State.retireCheck (s : State) (c : Cmd) : Option Nat :=
  let ch := bits (c.arg 0) 0 7
  let st := (s.unit (unitKey 2 ch)).hw
  let waiting := (s.outOp 0x702).filter fun d => d.prog = 0
  let k := s.hbm.order.length + waiting.length + 1
  let lo := hbmBase + 384 * hbmGiB - k * (hbmGiB * 13 / 4)
  if !(st = 0 || st = 1) || (s.outOp 0x702).any fun d => bits (d.arg 0) 0 7 = ch then some St.badArg
  else if k > 4 || (upFrom 0 32).any fun w => (s.windows w).any fun x => overlaps x.2.1 x.2.2 lo (hbmGiB * 13 / 4) then some St.retireBlocked
  else none

/-- HBM retirement at action 2: MIGRATING begins, or the migrated channel becomes RETIRED (R150). -/
def State.hbmAction (s : State) : State :=
  let s := match s.hbm.migrating with
    | some ch =>
      if s.hbm.migrated ≥ chanGranules then
        let s := { s with hbm := { s.hbm with migrating := none, faultCh := none, migrated := 0 } }
        let s := (s.modUnit (unitKey 2 ch) fun u => { u with want := 3 }).setHw (unitKey 2 ch) 3 false
        ((s.outOp 0x702).filter fun (c : Cmd) => bits (c.arg 0) 0 7 = ch).foldl (fun (s : State) (c : Cmd) => s.finish c St.ok []) s
      else s
    | none => s
  match s.hbm.migrating, (s.outOp 0x702).find? (fun (c : Cmd) => c.prog = 0 && s.isDue c) with
  | none, some c =>
    let ch := bits (c.arg 0) 0 7
    let k := unitKey 2 ch
    let s := { s with hbm := { s.hbm with
      migrating := some ch, migrated := 0, order := s.hbm.order ++ [ch], faultCh := if (s.unit k).hw = 1 then some ch else none } }
    ((s.modUnit k fun u => { u with want := 2 }).setHw k 2 false).modCmd c.cid fun x => { x with prog := 1 }
  | _, _ => s

/-- A dirty line is read word by word, written to memory and stays valid (R129). -/
def State.galClean (s : State) (a : Nat) : State :=
  match s.gal.locate a with
  | some k => match Tab.find s.gal.lines k with
    | some l =>
      if !l.dirty then s
      else
        let s := s.touch 2 0 (l.tag * 256) 256
        { s with gal := { s.gal with lines := Tab.set s.gal.lines k { l with dirty := false, back := [], backErr := lineErrs s.mem.errs l.tag } } }
    | none => s
  | none => s

/-- The words that HBM holds at a line all get the stored mark, behind the gallery where it holds the line. -/
def State.poisonBehind (s : State) (a : Nat) : State :=
  let all (e : Tab Nat) : Tab Nat := (upFrom (a / 4) 64).foldl (fun e w => setErr e w 127) e
  match s.gal.locate a with
  | none => { s with mem := { s.mem with errs := all s.mem.errs } }
  | some k => match Tab.find s.gal.lines k with
    | none => s
    | some l => { s with gal := { s.gal with lines := Tab.set s.gal.lines k { l with backErr := all l.backErr } } }

/-- The granules that a channel stores at one of its places are copied: corrected, or as poison when the channel does not answer; dirty lines
of them are written to memory (R150, R129). The bytes copied appear in the module record (R411). -/
def State.migrateGranule (s : State) (ch c : Nat) : State :=
  (s.granulesAt (hbmGranule ch c)).foldl (fun s o =>
    let a := hbmBase + o
    let s := s.charge none Acf.hbmWr 256
    (if s.hbm.faultCh = some ch then s.poisonBehind a else (s.charge none Acf.hbmRd 256).touchBehind 2 0 a).galClean a) s

/-- MIGRATE: `n` more granules of the migrating channel flip. -/
def State.opMigrate (s : State) (ch n : Nat) : State :=
  if s.hbm.migrating ≠ some ch then s else
  let k := min n (chanGranules - s.hbm.migrated)
  let s := (upFrom s.hbm.migrated k).foldl (fun s c => s.migrateGranule ch c) s
  let s := { s with hbm := { s.hbm with migrated := s.hbm.migrated + k } }
  if s.hbm.migrated ≥ chanGranules then s.bgEnd 0 else s

/-! ## Unit commands (R380) -/

/-- How many units of a kind there are. -/
def unitCount : Nat → Nat
  | 0 => 832
  | 1 => 32
  | 2 => 128
  | 3 => 9
  | 4 => 2
  | _ => 0

def spcUnitQuery : CmdSpec := ⟨0x700, false, true, false, [0x3FFF]⟩
def spcUnitSet : CmdSpec := ⟨0x701, false, false, false, [0x3FFF, 0xFF]⟩
def spcHbmRetire : CmdSpec := ⟨0x702, false, false, false, [0x7F]⟩
def spcRepairList : CmdSpec := ⟨0x703, false, false, false, [0xFFFFFFFFFFFFFFFF, 0xFFFFFFFF]⟩
def spcRepairFuse : CmdSpec := ⟨0x704, false, false, false, [0xFFFF]⟩
def spcCoreSpare : CmdSpec := ⟨0x705, false, false, false, [0x3FF, 0xFFFFFFFFFFFF]⟩
def spcSelfTest : CmdSpec := ⟨0x706, false, false, true, [0x3FFF, 0xFFFFFFFF]⟩

def State.acceptUnitQuery (s : State) (c : Cmd) : State :=
  let kind := bits (c.arg 0) 0 4
  let n := bits (c.arg 0) 4 10
  let own := kind = 0 && n < 832 && (match s.logicalOf n with | some l => c.fn ≠ 0 && s.coreWing l = some (c.fn - 1) | none => false)
  if c.fn ≠ 0 && !own then s.complete c St.denied 0 []
  else if n ≥ unitCount kind then s.complete c St.badArg 0 []
  else
    let u := s.unit (unitKey kind n)
    let ports := kind ≥ 3
    s.complete c St.ok 0 [u.hw + u.want * 256 + b2n (u.hw ≠ u.want) * 2 ^ 16 + u.epoch * 2 ^ 32, u.since.getD 0,
      if ports then 0 else sat 32 u.ce + sat 32 u.ue * 2 ^ 32]

def State.acceptUnitSet (s : State) (c : Cmd) : State :=
  let kind := bits (c.arg 0) 0 4
  let n := bits (c.arg 0) 4 10
  let st := bits (c.arg 1) 0 8
  let k := unitKey kind n
  let u := s.unit k
  let inWing := kind = 0 && (match s.logicalOf n with | some l => (s.coreWing l).isSome | none => false)
  if n ≥ unitCount kind ∨ kind = 1 ∨ kind = 2 ∨ !(st = 0 ∨ st = 4) ∨ inWing then s.complete c St.badArg 0 []
  else if u.ackd ∨ (s.outOp 0x701).any fun d => bits (d.arg 0) 0 14 = bits (c.arg 0) 0 14 then s.complete c St.unitBusy 0 []
  else if st = 0 ∧ u.hw = 1 then s.complete c St.unitFault 0 []
  else (s.hold c).modUnit k fun u => { u with want := st, ackd := true, since := if st = u.hw then none else some s.tread, told := false }

def State.acceptRetire (s : State) (c : Cmd) : State :=
  match s.retireCheck c with
  | some st => s.complete c st 0 []
  | none => s.hold c

/-! ## Repair list and fuses (R435, R436) -/

def State.acceptRepairList (s : State) (c : Cmd) : State :=
  let n := min s.svc.repairs.length (c.arg 1 / 16)
  let s := s.hostWrite c.fn (c.arg 0) (clean ((s.svc.repairs.take n).flatMap (·.bytes)))
  s.complete c St.ok 0 [s.svc.repairs.length]

/-- The list indices that a REPAIR_FUSE names. -/
def State.fuseTargets (s : State) (c : Cmd) : List Nat :=
  let i := bits (c.arg 0) 0 16
  if i = 0xFFFF then (upFrom 0 s.svc.repairs.length).filter fun j => match s.svc.repairs[j]? with | some r => r.kind ≠ 3 && !r.fused | none => false
  else [i]

def State.acceptRepairFuse (s : State) (c : Cmd) : State :=
  let i := bits (c.arg 0) 0 16
  let ok := i = 0xFFFF || (match s.svc.repairs[i]? with | some r => r.kind ≠ 3 | none => false)
  if ok then s.hold c else s.complete c St.badArg 0 []

/-- Die fuse records used: lines and cores; an HBM row is fused in its stack (R436). -/
def Svc.fuseCount (v : Svc) : Nat := (v.fuses.filter fun r => r.kind ≠ 0).length

/-- FUSING_ENDS: the fuses named in `verified` verify (R436). -/
def State.opFusingEnds (s : State) (verified : List Nat) : State :=
  match s.outOp 0x704 with
  | [] => s
  | c :: _ =>
    let (s, bad) := (s.fuseTargets c).foldl (fun (acc : State × Bool) i =>
      let s := acc.1
      match s.svc.repairs[i]? with
      | none => (s, true)
      | some r =>
        if r.fused then (s, acc.2)
        else if verified.contains i && (r.kind = 0 || s.svc.fuseCount < 256) then
          let s := { s with svc := { s.svc with
            repairs := setIdx s.svc.repairs i { r with fused := true }, fuses := s.svc.fuses ++ [{ r with fused := true }] } }
          (s.logEntry 8 none 0 (leBytes 2 i), acc.2)
        else (s, true)) (s, false)
    s.finish c (if bad then St.fuseFail else St.ok) []

/-! ## Core replacement (R433, R434) -/

/-- The SPARE cores of a logical core's field that no replacement has chosen, lowest first. -/
def State.sparesOf (s : State) (n : Nat) : List Nat :=
  (upFrom (208 * (n / 200)) 208).filter fun p => (s.unit (unitKey 0 p)).hw = 5 && !(s.svc.repl.any fun r => r.spare = p && r.phase ≠ 3)

def State.acceptCoreSpare (s : State) (c : Cmd) : State :=
  let n := bits (c.arg 0) 0 10
  let l := c.arg 1
  if n > 799 then s.complete c St.badArg 0 []
  else if !treadReached s.tread l ∨ treadDiff s.tread l < 128 then s.complete c St.treadPast 0 []
  else if s.svc.repl.any fun r => r.core = n then s.complete c St.unitBusy 0 []
  else match s.sparesOf n with
    | [] => s.complete c St.noSpare 0 []
    | p :: _ => (s.hold c) |> fun s => { s with svc := { s.svc with repl := s.svc.repl ++ [⟨c.cid, n, p, l, 0, false⟩] } }

def State.setRepl (s : State) (core : Nat) (r : Option Repl) : State :=
  { s with svc := { s.svc with repl := match r with
      | some x => s.svc.repl.map fun y => if y.core = core then x else y
      | none => s.svc.repl.filter fun y => y.core ≠ core } }

/-- CORESWAP: the scan of the chosen spare ends (R433). -/
def State.opCoreswap (s : State) (core : Nat) (pass : Bool) : State :=
  match s.svc.repl.find? fun r => r.core = core && r.phase = 0 with
  | none => s
  | some r =>
    let s :=
      if pass then s.setRepl core (some { r with phase := 1 })
      else
        let s := (s.setHw (unitKey 0 r.spare) 1 true).setRepl core (some { r with phase := 3 })
        match s.sparesOf core with
        | [] => s
        | p :: _ => s.setRepl core (some { r with spare := p })
    s.bgEnd 3

/-- The copy of a core's SRAM: correctable words are corrected, others arrive with the stored mark (R434). -/
def State.replCopy (s : State) (r : Repl) : State :=
  if r.copied then s else (s.touch 2 0 (r.core * 0x200000) 0x200000).setRepl r.core (some { r with copied := true })

/-- REPLACEMENT_TREAD: the copy of the core's replacement tread. -/
def State.opReplacementTread (s : State) (core : Nat) : State :=
  match s.svc.repl.find? fun r => r.core = core && r.phase = 2 with
  | some r => s.replCopy r
  | none => s

/-- No work runs on the core, or it is abandoned at this boundary (R434, R55). -/
def Core.freeNow (x : Core) : Bool :=
  (match x.home with | some r => r.late ≥ 16 | none => true) && (match x.guest with | some r => r.late ≥ 16 | none => true)

/-- Replacements at action 2: take over, fail, or begin the replacement tread (R434). -/
def State.replAction (s : State) : State :=
  s.svc.repl.foldl (fun s r =>
    let cmd := s.newel.out.find? fun c => c.cid = r.cid
    let done (s : State) (st : Nat) : State := match cmd with | some c => (s.setRepl r.core none).finish c st [] | none => s.setRepl r.core none
    if r.phase = 3 then done s St.noSpare
    else if r.phase = 2 then
      let s := s.replCopy r
      let old := s.physOf r.core
      let s := { s with phys := Tab.set s.phys r.core r.spare }
      let s := (s.modUnit (unitKey 0 r.spare) fun u => { u with want := 0 }).setHw (unitKey 0 r.spare) 0 false
      let s := (s.modUnit (unitKey 0 old) fun u => { u with want := 4 }).setHw (unitKey 0 old) 4 false
      done (s.addRepair 2 r.core r.spare) St.ok
    else if r.phase = 1 && treadReached r.land s.tread && (s.core r.core).freeNow then s.setRepl r.core (some { r with phase := 2 })
    else s) s

/-! ## Self-test items (R425, R427) -/

/-- Which units exclude one another: ports share items 3 to 5. -/
def itemClass (i : Nat) : Nat := if 3 ≤ i ∧ i ≤ 5 then 3 else i

/-- R2 of an item: the limit that Table 19.2 judges by; of a loop-back the bits sent, which the row brings. -/
def itemLimit (item bits_ : Nat) : Nat :=
  match item with
  | 0 => 1600
  | 1 => 1500
  | 2 => 16
  | 7 => 0
  | _ => bits_

/-- The item passes (Table 19.2): a deviation, an error or a mismatch count within its limit; a loop-back with no uncorrectable codeword and
at most 2.4 × 10⁻⁴ of its bits in error; LB_SERVE always. -/
def itemPasses (item value limit : Nat) (correctable : Bool) : Bool :=
  item = 5 || (if item ≤ 2 || item = 7 then value ≤ itemLimit item limit else correctable && value * 100000 ≤ 24 * limit)

/-- The unit is in the state Table 19.2 requires. -/
def State.itemUnitOk (s : State) (item unit : Nat) : Bool :=
  match item with
  | 0 => unit = 0
  | 1 => unit < 16
  | 2 => unit < 64
  | 6 => unit < 2 && (s.unit (unitKey 4 unit)).hw = 4
  | 7 => unit < 832 && ((s.unit (unitKey 0 unit)).hw = 5 || (s.unit (unitKey 0 unit)).hw = 4)
  | _ => unit < 9 && (s.unit (unitKey 3 unit)).hw = 4

def State.acceptItem (s : State) (c : Cmd) : State :=
  let item := bits (c.arg 0) 0 4
  let unit := bits (c.arg 0) 4 10
  if c.arg 1 = 0 ∨ c.arg 1 > 10000 ∨ !s.itemUnitOk item unit then s.complete c St.badArg 0 []
  else if (s.outOp 0x706).any fun d => itemClass (bits (d.arg 0) 0 4) = itemClass item && bits (d.arg 0) 4 10 = unit then s.complete c St.unitBusy 0 []
  else s.hold c

/-- A SELFTEST_RUN row of one item: nothing happens when the head entry is of another item. -/
def State.itemRow (s : State) (fn clk item : Nat) : State :=
  let here : Bool := match (State.takeRest 4096 (s.at_ clk)).turnEntry fn with
    | some e => bits (fieldN e 8 8) 0 4 = item
    | none => false
  if here then s.mailRow fn clk spcSelfTest fun s c => s.acceptItem c else s

/-- The items outstanding are measured within the window of this tread (R425). -/
def State.itemsSeen (s : State) : State :=
  if !s.svc.inWin then s else (s.outOp 0x706).foldl (fun s c => if c.prog = 0 then s.modCmd c.cid fun x => { x with prog := 1 } else s) s

/-- ITEM_ENDS: an outstanding item completes with its verdict, the value measured and its limit (R427). Its measurements are all discarded where
the window of R425 never held while it ran, or where the row says so; LB_SERVE measures nothing and always passes. -/
def State.opItemEnds (s : State) (item unit value limit : Nat) (correctable discarded : Bool) : State :=
  match (s.outOp 0x706).find? fun c => bits (c.arg 0) 0 4 = item && bits (c.arg 0) 4 10 = unit with
  | none => s
  | some c =>
    let v := if item = 5 then 0 else if discarded || (c.prog = 0 && !s.svc.inWin) then 2 else if itemPasses item value limit correctable then 0 else 1
    (s.finish c St.ok [v + item * 256, value % 2 ^ 64, itemLimit item limit % 2 ^ 64]).bgEnd 13

end Sys2Proof.Machine
end

