-- ==== Sys2Proof/Machine/SlhDsa.lean ====
section
/-!
DEFINITION. SLH-DSA with SHAKE256, the signatures of spec/17_trust.md (R387, R389, R400, R401, R406). PRESUMED: the algorithms are those of
FIPS 205, which the spec names and does not restate (log entry 11). A value of 32 bytes is a node of a tree or a link of a chain.
-/
namespace Sys2Proof.Machine

/-- A parameter set with n = 32 and lg w = 4: layers of the hypertree, height of one layer, height and number of the FORS trees. -/
structure SlhSet where
  d : Nat
  hp : Nat
  a : Nat
  k : Nat
deriving DecidableEq, Repr

/-- SLH-DSA-SHAKE-256s: signatures of 29,792 bytes. -/
def slh256s : SlhSet := ⟨8, 8, 14, 22⟩

/-- SLH-DSA-SHAKE-256f: signatures of 49,856 bytes. -/
def slh256f : SlhSet := ⟨17, 4, 9, 35⟩

/-- Bytes of a signature: the randomizer, the FORS trees, and in each layer 67 chains and a path. -/
def SlhSet.sigLen (p : SlhSet) : Nat := 32 * (1 + p.k * (p.a + 1) + p.d * (67 + p.hp))

/-- The low `n` bytes of a number, most significant first. -/
def beBytes (n x : Nat) : List Byte := (leBytes n x).reverse

/-- A number from bytes, most significant first. -/
def beNat (b : List Byte) : Nat := leNat b.reverse

/-- An address: layer, tree, type, and the three words whose meaning the type gives. -/
def slhAdr (layer tree type x y z : Nat) : List Byte :=
  beBytes 4 layer ++ beBytes 12 tree ++ beBytes 4 type ++ beBytes 4 x ++ beBytes 4 y ++ beBytes 4 z

/-- F, H and T of a public seed and an address; PRF likewise, with the secret seed as its message. -/
def slhHash (seed adr msg : List Byte) : List Byte := shake256 32 (seed ++ adr ++ msg)

/-- The `i`-th 32-byte value of a run. -/
def slhAt (b : List Byte) (i : Nat) : List Byte := sliceB b (32 * i) 32

/-- `steps` links of a WOTS+ chain from link `i`. -/
def slhChain (seed : List Byte) (adr : Nat → List Byte) : Nat → Nat → List Byte → List Byte
  | 0, _, x => x
  | n + 1, i, x => slhChain seed adr n (i + 1) (slhHash seed (adr i) x)

/-- The 67 digits that WOTS+ signs: 64 of the value and 3 of its checksum. -/
def slhDigits (m : List Byte) : List Nat :=
  let ds := m.flatMap fun b => [b.toNat / 16, b.toNat % 16]
  let c := ds.foldl (fun acc x => acc + (15 - x)) 0
  ds ++ [c / 256 % 16, c / 16 % 16, c % 16]

/-- The hypertree's own addresses: chain `i` at link `j`, the key of chain `i`, and the compressed public key, of leaf `kp`. -/
def wotsAdr (layer tree kp i j : Nat) : List Byte := slhAdr layer tree 0 kp i j

def wotsPrfAdr (layer tree kp i : Nat) : List Byte := slhAdr layer tree 5 kp i 0

/-- A WOTS+ public key from its 67 chain ends. -/
def wotsPk (seed : List Byte) (layer tree kp : Nat) (ends : List (List Byte)) : List Byte :=
  slhHash seed (slhAdr layer tree 1 kp 0 0) ends.flatten

/-- The secret start of a WOTS+ chain. -/
def wotsSk (sk seed : List Byte) (layer tree kp i : Nat) : List Byte := slhHash seed (wotsPrfAdr layer tree kp i) sk

/-- A leaf of a layer's tree: the public key of its WOTS+ chains. -/
def wotsLeaf (sk seed : List Byte) (layer tree kp : Nat) : List Byte :=
  wotsPk seed layer tree kp ((upFrom 0 67).map fun i => slhChain seed (wotsAdr layer tree kp i) 15 0 (wotsSk sk seed layer tree kp i))

/-- The node at a height and index of a tree, from its leaves. -/
def slhNode (seed : List Byte) (adr : Nat → Nat → List Byte) (leaf : Nat → List Byte) : Nat → Nat → List Byte
  | 0, i => leaf i
  | z + 1, i => slhHash seed (adr (z + 1) i) (slhNode seed adr leaf z (2 * i) ++ slhNode seed adr leaf z (2 * i + 1))

/-- The authentication path of leaf `i`, `h` siblings up. -/
def slhPath (seed : List Byte) (adr : Nat → Nat → List Byte) (leaf : Nat → List Byte) (h i : Nat) : List (List Byte) :=
  (upFrom 0 h).map fun z => slhNode seed adr leaf z (Nat.xor (i / 2 ^ z) 1)

/-- The root that a leaf and its path lead to, from height `z`. -/
def slhClimb (seed : List Byte) (adr : Nat → Nat → List Byte) : List (List Byte) → Nat → Nat → List Byte → List Byte
  | [], _, _, x => x
  | p :: rest, z, i, x =>
    slhClimb seed adr rest (z + 1) (i / 2) (slhHash seed (adr (z + 1) (i / 2)) (if i % 2 = 0 then x ++ p else p ++ x))

def treeAdr (layer tree z i : Nat) : List Byte := slhAdr layer tree 2 0 z i

def forsAdr (tree kp z i : Nat) : List Byte := slhAdr 0 tree 3 kp z i

/-- The secret value of a FORS leaf. -/
def forsSk (sk seed : List Byte) (tree kp i : Nat) : List Byte := slhHash seed (slhAdr 0 tree 6 kp 0 i) sk

def forsLeaf (sk seed : List Byte) (tree kp i : Nat) : List Byte := slhHash seed (forsAdr tree kp 0 i) (forsSk sk seed tree kp i)

/-- What a message's digest selects: the FORS leaves, counted through all the trees, and the tree and leaf of the hypertree. -/
def SlhSet.select (p : SlhSet) (r seed root msg : List Byte) : List Nat × Nat × Nat :=
  let n1 := (p.k * p.a + 7) / 8
  let n2 := ((p.d - 1) * p.hp + 7) / 8
  let n3 := (p.hp + 7) / 8
  let g := shake256 (n1 + n2 + n3) (r ++ seed ++ root ++ msg)
  let md := beNat (g.take n1)
  ((upFrom 0 p.k).map fun i => i * 2 ^ p.a + md / 2 ^ (8 * n1 - p.a * (i + 1)) % 2 ^ p.a,
    beNat ((g.drop n1).take n2) % 2 ^ ((p.d - 1) * p.hp), beNat ((g.drop (n1 + n2)).take n3) % 2 ^ p.hp)

/-- The FORS public key from its roots. -/
def forsPk (seed : List Byte) (tree kp : Nat) (roots : List (List Byte)) : List Byte := slhHash seed (slhAdr 0 tree 4 kp 0 0) roots.flatten

/-- The root of one layer from a signature's part of it. -/
def SlhSet.layerRoot (p : SlhSet) (seed : List Byte) (layer tree leaf : Nat) (sig m : List Byte) : List Byte :=
  let ends := ((upFrom 0 67).zip (slhDigits m)).map fun (x : Nat × Nat) => slhChain seed (wotsAdr layer tree leaf x.1) (15 - x.2) x.2 (slhAt sig x.1)
  slhClimb seed (treeAdr layer tree) ((upFrom 67 p.hp).map (slhAt sig)) 0 leaf (wotsPk seed layer tree leaf ends)

/-- The layers from `layer` up lead a value to the hypertree's root. -/
def SlhSet.htRoot (p : SlhSet) (seed sig : List Byte) : Nat → Nat → Nat → Nat → List Byte → List Byte
  | 0, _, _, _, m => m
  | n + 1, layer, tree, leaf, m =>
    let part := sliceB sig (32 * layer * (67 + p.hp)) (32 * (67 + p.hp))
    p.htRoot seed sig n (layer + 1) (tree / 2 ^ p.hp) (tree % 2 ^ p.hp) (p.layerRoot seed layer tree leaf part m)

/-- The message of the pure mode: a zero byte, the context string with its length, the message. -/
def slhPure (ctx msg : List Byte) : List Byte := leBytes 1 0 ++ leBytes 1 ctx.length ++ ctx ++ msg

/-- Verification (FIPS 205 in pure mode): public key PK.seed, PK.root. -/
def SlhSet.verify (p : SlhSet) (ctx key msg sig : List Byte) : Bool :=
  let seed := sliceB key 0 32
  let root := sliceB key 32 32
  let (idx, tree, leaf) := p.select (slhAt sig 0) seed root (slhPure ctx msg)
  let roots := ((upFrom 0 p.k).zip idx).map fun (x : Nat × Nat) =>
    let at0 := 1 + x.1 * (p.a + 1)
    slhClimb seed (forsAdr tree leaf) ((upFrom (at0 + 1) p.a).map (slhAt sig)) 0 x.2 (slhHash seed (forsAdr tree leaf 0 x.2) (slhAt sig at0))
  sig.length = p.sigLen && key.length = 64
    && p.htRoot seed (sig.drop (32 * (1 + p.k * (p.a + 1)))) p.d 0 tree leaf (forsPk seed tree leaf roots) = root

/-- The public root of a key (key generation). -/
def SlhSet.root (p : SlhSet) (sk seed : List Byte) : List Byte :=
  slhNode seed (treeAdr (p.d - 1) 0) (wotsLeaf sk seed (p.d - 1) 0) p.hp 0

/-- One layer's signature of a value. -/
def SlhSet.layerSign (p : SlhSet) (sk seed : List Byte) (layer tree leaf : Nat) (m : List Byte) : List Byte :=
  (((upFrom 0 67).zip (slhDigits m)).flatMap fun (x : Nat × Nat) =>
    slhChain seed (wotsAdr layer tree leaf x.1) x.2 0 (wotsSk sk seed layer tree leaf x.1))
  ++ (slhPath seed (treeAdr layer tree) (wotsLeaf sk seed layer tree) p.hp leaf).flatten

/-- The signatures of the layers from `layer` up: each signs the root below it. -/
def SlhSet.htSign (p : SlhSet) (sk seed : List Byte) : Nat → Nat → Nat → Nat → List Byte → List Byte
  | 0, _, _, _, _ => []
  | n + 1, layer, tree, leaf, m =>
    let part := p.layerSign sk seed layer tree leaf m
    part ++ p.htSign sk seed n (layer + 1) (tree / 2 ^ p.hp) (tree % 2 ^ p.hp) (p.layerRoot seed layer tree leaf part m)

/-- Signing (FIPS 205 in pure mode) with SK.seed, SK.prf and PK.seed in 96 bytes, and 32 bytes of added randomness. -/
def SlhSet.sign (p : SlhSet) (seeds ctx msg rnd : List Byte) : List Byte :=
  let sk := sliceB seeds 0 32
  let seed := sliceB seeds 64 32
  let m := slhPure ctx msg
  let r := shake256 32 (sliceB seeds 32 32 ++ rnd ++ m)
  let (idx, tree, leaf) := p.select r seed (p.root sk seed) m
  let one (x : Nat) : List (List Byte) := forsSk sk seed tree leaf x :: slhPath seed (forsAdr tree leaf) (forsLeaf sk seed tree leaf) p.a x
  let fors := idx.map one
  let roots := (idx.zip fors).map fun (x : Nat × List (List Byte)) =>
    slhClimb seed (forsAdr tree leaf) (x.2.drop 1) 0 x.1 (slhHash seed (forsAdr tree leaf 0 x.1) (x.2.headD []))
  r ++ fors.flatten.flatten ++ p.htSign sk seed p.d 0 tree leaf (forsPk seed tree leaf roots)

/-- The context strings "FZS-IMG", "FZS-FW" and "FZS-ATT". -/
def ctxImg : List Byte := [0x46, 0x5A, 0x53, 0x2D, 0x49, 0x4D, 0x47]
def ctxFw : List Byte := [0x46, 0x5A, 0x53, 0x2D, 0x46, 0x57]
def ctxAtt : List Byte := [0x46, 0x5A, 0x53, 0x2D, 0x41, 0x54, 0x54]

end Sys2Proof.Machine
end

