-- ==== Sys2Proof/Machine/Trust.lean ====
section
/-!
DEFINITION. Firmware copies, the image directory, the certificate and attestation reports (spec/17_trust.md, spec/16 R382, R383).
-/
namespace Sys2Proof.Machine

/-! ## Firmware (R400, R382, R461) -/

/-- Facts of a firmware image's bytes (R400). -/
def fwFacts (b : List Byte) : FwCopy :=
  let n := fieldN b 16 4
  let body := b.take (64 + n)
  { format := fieldN b 0 4
    clean := fieldN b 6 2 = 0 && fieldN b 13 3 = 0 && leNat (sliceB b 20 44) = 0 && b.length = 64 + n + 29792
    codeLen := n, fits := Config.codeFits n, svn := fieldN b 12 1
    sigOk := slh256s.verify ctxFw Config.fwKey body (sliceB b (64 + n) 29792)
    level := fieldN b 4 2, version := fieldN b 8 4, digest := shake256 64 b, readable := true }

/-- The checks of R461 on one copy. -/
def State.fwPasses (s : State) (k : Nat) : Bool :=
  s.boot.romKeyOk && (match Tab.find s.trust.fw k with
    | some f => f.readable && f.format = 1 && f.clean && f.fits && f.svn ≥ s.boot.minSvn && f.sigOk
    | none => false)

/-- The copies in the order of R461 from a slot. -/
def fwOrder (slot : Nat) : List Nat := [2 * slot, 2 * slot + 1, 2 * (1 - slot), 2 * (1 - slot) + 1]

/-- The firmware digest of a slot; that of the image written at manufacture is open (log entry 7). -/
def State.fwDigest (s : State) (slot : Nat) : List Byte :=
  match Tab.find s.trust.fw (2 * slot) with
  | some f => if f.digest.isEmpty then (upFrom 0 64).map Config.fwDigest else f.digest
  | none => List.replicate 64 0

/-- The Torak version of a slot (Table 16.5). -/
def State.fwVersion (s : State) (slot : Nat) : Nat :=
  match Tab.find s.trust.fw (2 * slot) with
  | some f => if f.digest.isEmpty then Config.torakVersion slot else f.version
  | none => Config.torakVersion slot

/-- A FW log entry (Table 17.6). -/
def State.logFw (s : State) (slot : Nat) : State := s.logEntry 5 none 0 (leBytes 1 slot ++ (s.fwDigest slot).take 47)

def State.acceptFwStage (s : State) (c : Cmd) : State :=
  if c.arg 1 = 0 ∨ c.arg 1 > 16777216 then s.complete c St.badArg 0 [] else s.hold c

/-- IMAGE_STAGED: FW_STAGE has read, verified and written the image (R382), while the newel runs (R381). -/
def State.opImageStaged (s : State) : State :=
  if !s.newel.running then s else
  match s.outOp 0x900 with
  | [] => s
  | c :: _ =>
    let slot := 1 - s.boot.slot
    let put (s : State) (f : Option FwCopy) : State := { s with trust := { s.trust with fw := match f with
      | some x => Tab.set (Tab.set s.trust.fw (2 * slot) x) (2 * slot + 1) x
      | none => Tab.erase (Tab.erase s.trust.fw (2 * slot)) (2 * slot + 1) } }
    let f : Option FwCopy := (s.hostRead c.fn (c.arg 0) (c.arg 1)).map fun b => fwFacts (b.map (·.1))
    match f with
    | none => (put s none).finish c St.fwBad []
    | some x =>
      if !(x.format = 1 && x.clean && x.fits && x.sigOk && x.svn ≥ s.boot.minSvn) then (put s none).finish c St.fwBad []
      else if x.level ≠ 1 then (put s none).finish c St.fwLevel []
      else ((put s (some x)).logFw slot).finish c St.ok []

/-- FW_ACTIVATE at acceptance (R383). -/
def State.acceptFwActivate (s : State) (c : Cmd) : State :=
  if (Tab.find s.trust.fw (2 * (1 - s.boot.slot))).isNone then s.complete c St.fwBad 0 []
  else
    let s := (s.hold c).alert 3
    { s with newel := { s.newel with running := false, cause := 2, activating := some c.cid, reverted := false } }

/-- A restart of the newel begins (R362). -/
def State.newelRestart (s : State) (cause : Nat) : State :=
  if !s.newel.running then s
  else ({ s with newel := { s.newel with running := false, cause := cause } }).alert 3

/-- FW_ACTIVATE_TIMEOUT: the ROM restarts the former slot (R383). -/
def State.opFwTimeout (s : State) : State :=
  if s.newel.activating.isSome then { s with newel := { s.newel with reverted := true } } else s

/-- A MODEL_LOAD ends with ABORTED (R398, R399): its flip is discarded, and LOADBAD is set where its destination lies in the bank-1 range. -/
def State.loadAborted (s : State) (c : Cmd) : State :=
  let w := c.wing
  let v := bits (s.wr w Reg.wngWbank) 0 27 * 1048576
  let b1 := bits (s.wr w (Reg.wngWbank + 8)) 32 27 * 1048576
  s.modWing w fun x =>
    let l := x.load
    let vr := { x.job.vr with pend := match x.job.vr.pend with | some f => if f.cid = some c.cid then none else some f | none => none }
    { x with job := { x.job with vr := vr }
             load := { l with st := 3, bad := l.bad || overlaps l.base l.span b1 v, cid := none, queues := [] } }

/-- The newel's table of outstanding commands is lost: each ends with ABORTED, and what only its command would have carried on ends with it
(R381). -/
def State.tableLost (s : State) : State :=
  let all := (s.newel.due.map (·.cmd)) ++ s.newel.out
  let s := (s.outOp 0x800).foldl State.loadAborted s
  let s := { s with
    newel := { s.newel with due := [], out := [] }
    trust := { s.trust with images := s.trust.images.filter fun x => x.cid.isNone }
    wings := s.wings.map fun (x : Nat × Wing) => (x.1, { x.2 with guestNext := [], quiet := false }) }
  all.foldl (fun s c => s.complete c St.aborted 0 []) s

/-- The slot whose copies the boot ROM tries first at a restart: after FW_ACTIVATE the other slot, or the former one once that has not started
in time (R383); after DEVICE_RESET the slot that was running (R467); else that of the active image (R362). -/
def State.restartSlot (s : State) : Nat :=
  if s.newel.activating.isSome then (if s.newel.reverted then s.boot.slot else 1 - s.boot.slot)
  else if s.boot.st = 6 then s.boot.slot else s.boot.active

/-- The copies that the ROM passed over before the one it runs, as SVC_BOOT shows them. -/
def failedBefore (order : List Nat) (k : Nat) : Nat := (order.takeWhile (fun j => j ≠ k)).foldl (fun a j => a + 2 ^ j) 0

/-- NEWEL_RESTART_DONE (R381, R383, R467): the boot ROM has chosen a copy in the order of R461, and the newel runs again; when no copy passes
the newel halts in NO_FW (log entry 79). `tableBad`: the region that keeps the outstanding commands fails its check. -/
def State.opRestartDone (s : State) (tableBad : Bool) : State :=
  if s.newel.running || !(s.boot.st = 5 || s.boot.st = 6) then s else
  let n := s.newel
  let order := fwOrder s.restartSlot
  match order.find? fun k => s.fwPasses k with
  | none => { s with boot := { s.boot with st := 2, failed := 15 } }
  | some k =>
  let slot := k / 2
  let switched := n.activating.isSome && !n.reverted && slot = s.restartSlot
  let back := n.activating.isSome && !switched
  let s := { s with newel := { n with running := true, restarts := n.restarts + 1, activating := none, reverted := false } }
  let b := { s.boot with
    st := 5, slot := slot, copy := k % 2, failed := failedBefore order k, active := if switched then slot else s.boot.active }
  let device := s.boot.st = 6
  -- a table of outstanding commands that fails its check ends them all
  let s := if tableBad then s.tableLost else s.drainCpls
  let s := s.drainEvts
  let s := s.postEvt [0] (s.evtBody 0 n.cause slot 0) 3 none
  let s := if back then s.postEvt [0] (s.evtBody 1 0 slot 0) 3 none else s
  let s : State := match n.activating.bind (fun (cid : Nat) => s.newel.out.find? fun (c : Cmd) => c.cid = cid) with
    | some c => (s.logFw slot).finish c (if switched then St.ok else St.fwReverted) []
    | none => s
  let s := if device then (s.outOp 0x602).foldl (fun (s : State) (c : Cmd) => s.finish c St.ok []) s else s
  { s with boot := b }

/-! ## Images (R386 to R393) -/

/-- The key hash of a public key (R388). -/
def keyHash (k : List Byte) : List Byte := shake256 16 k

/-- Publisher keys in valid slots, lowest first: (slot, key). -/
def State.pubKeys (s : State) : List (Nat × List Byte) :=
  (upFrom 0 8).filterMap fun n =>
    if bit (s.pf Reg.svcPkeyval) n then some (n, leBytes 64 (s.pf (Reg.svcPkey + 64 * n))) else none

/-- The slots whose key hash matches a signer, among those of a mask (R388). -/
def State.keysFor (s : State) (mask : Nat) (kh : List Byte) : List (List Byte) :=
  (s.pubKeys.filter fun x => bit mask x.1 && keyHash x.2 = kh).map (·.2)

/-- The signature of a manifest verifies under a matching slot (R388, R391). -/
def State.sigGood (s : State) (mask : Nat) (kh manifest sig : List Byte) : Bool :=
  (s.keysFor mask kh).any fun k => slh256s.verify ctxImg k manifest sig

/-- Shard entry `i` of a manifest (Table 17.3), without its bytes. -/
def shardOf (m : List Byte) (i : Nat) : Shard :=
  let o := 256 + 96 * i
  ⟨fieldN m o 8, fieldN m (o + 8) 8, fieldN m (o + 16) 4, sliceB m (o + 32) 64, []⟩

/-- Pairwise disjoint ranges. -/
def disjoint : List (Nat × Nat) → Bool
  | [] => true
  | (a, n) :: rest => !(rest.any fun (b, m) => overlaps a n b m) && disjoint rest

/-- An image's manifest is well formed (R390). -/
def manifestOk (m : List Byte) : Bool :=
  let n := fieldN m 4 4
  let total := fieldN m 16 8
  let span := fieldN m 24 8
  let sh := (upFrom 0 n).map (shardOf m)
  fieldN m 0 4 = 1 && 1 ≤ n && n ≤ 65536 && fieldN m 8 8 ≠ 0 && m.length = 256 + 96 * n && leNat (sliceB m 56 200) = 0
    && ((upFrom 0 n).all fun i => leNat (sliceB m (256 + 96 * i + 20) 12) = 0)
    && (sh.all fun x => x.dataOff % 4096 = 0 && x.destOff % 64 = 0 && x.len % 64 = 0 && x.len ≥ 64
      && m.length + 29792 ≤ x.dataOff && x.dataOff + x.len ≤ total && x.destOff + x.len ≤ span)
    && disjoint (sh.map fun x => (x.dataOff, x.len)) && disjoint (sh.map fun x => (x.destOff, x.len))

/-- Free image bytes: the store less what the images and retired blocks take, in units of 1 MiB per copy (R386, R429). -/
def State.freeImage (s : State) : Nat :=
  let used := s.trust.images.foldl (fun a i => a + (i.total + 1048575) / 1048576 * 1048576) 0
  3552 * hbmGiB - used - s.svc.flTaken * 16777216

def State.findImage (s : State) (id : Nat) : Option Image := s.trust.images.find? fun x => x.id = id && x.cid.isNone

/-- IMAGE_WRITE at acceptance (R391). -/
def State.acceptImageWrite (s : State) (c : Cmd) : State :=
  match s.hostRead c.fn (c.arg 0) 256 with
  | none => s.complete c St.badArg 0 []
  | some h0 =>
    let hd := h0.map (·.1)
    let n := min (fieldN hd 4 4) 65536
    match s.hostRead c.fn (c.arg 0) (256 + 96 * n + 29792) with
    | none => s.complete c St.badArg 0 []
    | some b0 =>
      let b := b0.map (·.1)
      let m := b.take (256 + 96 * n)
      let id := fieldN m 8 8
      if c.arg 0 % 4096 ≠ 0 ∨ c.arg 1 ≠ fieldN m 16 8 ∨ fieldN hd 4 4 > 65536 ∨ !manifestOk m ∨ s.trust.images.any fun x => x.id = id then
        s.complete c St.badArg 0 []
      else
        let kh := sliceB m 40 16
        let sig := sliceB b (256 + 96 * n) 29792
        if !s.sigGood 255 kh m sig then s.complete c St.sigBad 0 []
        else
          let img : Image := ⟨id, c.arg 1, fieldN m 24 8, fieldN m 32 4, fieldN m 36 4, kh, 0, m, sig, (upFrom 0 n).map (shardOf m), [], some c.cid, []⟩
          let s := s.hold c
          { s with trust := { s.trust with images := s.trust.images ++ [img] } }

/-- Read the shards from the host; the first that does not match its hash. -/
def readShards (s : State) (fn base : Nat) : Nat → List Shard → List Shard × Option Nat
  | _, [] => ([], none)
  | i, x :: xs =>
    match s.hostRead fn (base + x.dataOff) x.len with
    | none => ([], some i)
    | some b =>
      let d := b.map (·.1)
      if shake256 64 d ≠ x.hash then ([], some i)
      else
        let (ys, e) := readShards s fn base (i + 1) xs
        ({ x with data := d } :: ys, e)

/-! ## Blocks of flash (R386, R428) -/

/-- The flash channel of an erase block, and the blocks of the system region, the first 64 GiB (log entry 78). -/
def flashChan (block : Nat) : Nat := block % 8

def sysBlocks : Nat := 2048

/-- An erase block holds data, or is the one that a channel fills. -/
def State.flashUsed (s : State) (block : Nat) : Bool :=
  block < sysBlocks || s.svc.flOpen.any (fun (x : Nat × Nat × Nat) => x.2.1 = block)
    || s.trust.images.any fun x => x.place.any fun (y : Nat × List Nat) => y.2.contains block

/-- The blocks of a channel that satisfy a test. -/
def flashBlocks (ch : Nat) (p : Nat → Bool) : List Nat := (upFrom 0 32768).filterMap fun i => if p (8 * i + ch) then some (8 * i + ch) else none

/-- Of some blocks, the first that no other is `before`. -/
def pickBlock (before : Nat → Nat → Bool) : List Nat → Option Nat
  | [] => none
  | b :: rest => some (rest.foldl (fun m x => if before x m then x else m) b)

/-- The free blocks of a channel. -/
def State.flashFree (s : State) (ch : Nat) : List Nat := flashBlocks ch fun b => !s.flashUsed b && !s.svc.flRetired.contains b

/-- The block that a new allocation takes: the free block of lowest erase count on the channel (R428). -/
def State.flashNext (s : State) (ch : Nat) : Option Nat :=
  pickBlock (fun x m => Tab.cnt s.svc.flErase x < Tab.cnt s.svc.flErase m) (s.flashFree ch)

/-- Units of 1 MiB are taken on a channel, first in the block that it fills (R386): the blocks that hold them. -/
def State.flashTake : Nat → Nat → Nat → State → State × List Nat
  | 0, _, _, s => (s, [])
  | fuel + 1, ch, n, s =>
    if n = 0 then (s, []) else
    match Tab.find s.svc.flOpen ch with
    | some (b, room) =>
      let k := min n room
      let s := { s with svc := { s.svc with flOpen := if room ≤ k then Tab.erase s.svc.flOpen ch else Tab.set s.svc.flOpen ch (b, room - k) } }
      let (s, bs) := State.flashTake fuel ch (n - k) s
      (s, if k = 0 then bs else b :: bs)
    | none =>
      match s.flashNext ch with
      | none => (s, [])
      | some b => State.flashTake fuel ch n { s with svc := { s.svc with flOpen := Tab.set s.svc.flOpen ch (b, 32) } }

/-- Both copies of an image's shards are allocated: copy 1 of shard i on channel i mod 8, copy 2 on (i + 4) mod 8 (R386). -/
def State.placeImage (s : State) (im : Image) : State × Image :=
  ((upFrom 0 im.shards.length).zip im.shards).foldl (fun (acc : State × Image) (x : Nat × Shard) =>
    (upFrom 0 2).foldl (fun (acc : State × Image) copy =>
      let n := (x.2.len + 1048575) / 1048576
      let (s, bs) := State.flashTake (2 * n + 2) ((x.1 + 4 * copy) % 8) n acc.1
      (s, { acc.2 with place := Tab.set acc.2.place (2 * x.1 + copy) bs })) acc) (s, im)

/-- COPIES_PROGRAMMED: an IMAGE_WRITE ends (R391), while the newel runs (R381). `programmed` false: both copies do not fit. -/
def State.opCopiesProgrammed (s : State) (id : Nat) (programmed : Bool) : State :=
  if !s.newel.running then s else
  match s.trust.images.find? fun x => x.id = id && x.cid.isSome with
  | none => s
  | some im =>
    match s.newel.out.find? fun c => some c.cid = im.cid with
    | none => s
    | some c =>
      let drop (s : State) : State := { s with trust := { s.trust with images := s.trust.images.filter fun x => x.id ≠ id } }
      match readShards s c.fn (c.arg 0) 0 im.shards with
      | (_, some i) => (drop s).finish c St.shardBad [i]
      | (sh, none) =>
        if !programmed || (drop s).freeImage < (im.total + 1048575) / 1048576 * 1048576 || ((drop s).trust.images.filter fun x => x.cid.isNone).length ≥ 4096 then
          (drop s).finish c St.flashFull []
        else
          let (s, im) := (drop s).placeImage { im with shards := sh }
          let s := { s with trust := { s.trust with images := s.trust.images ++ [{ im with cid := none, written := s.tread }] } }
          (s.logEntry 6 none 0 (leBytes 8 id ++ leBytes 1 0)).finish c St.ok [sh.length]

/-- IMAGE_ERASE (R393). -/
def State.acceptImageErase (s : State) (c : Cmd) : State :=
  let id := c.arg 0
  if (s.findImage id).isNone then s.complete c St.noImage 0 []
  else if (s.outOp 0x800).any fun d => d.arg 0 = id then s.complete c St.badArg 0 []
  else
    let s := { s with trust := { s.trust with images := s.trust.images.filter fun x => x.id ≠ id } }
    (s.logEntry 6 none 0 (leBytes 8 id ++ leBytes 1 1)).complete c St.ok 0 []

/-- IMAGE_LIST (R392). -/
def State.acceptImageList (s : State) (c : Cmd) : State :=
  if c.arg 0 % 64 ≠ 0 then s.complete c St.badArg 0 [] else
  let vis := s.trust.images.filter fun x => x.cid.isNone && (c.fn = 0 || !(s.keysFor (bits (s.pr (c.fn - 1) Reg.wngKeys) 0 8) x.keyHash).isEmpty)
  let n := min vis.length (c.arg 1 / 32)
  let ent (x : Image) : List Byte := leBytes 8 x.id ++ leBytes 8 x.total ++ sliceB x.keyHash 0 8 ++ leBytes 8 (x.written * 65536)
  let s := s.hostWrite c.fn (c.arg 0) (clean ((vis.take n).flatMap ent))
  s.complete c St.ok 0 [vis.length, n, s.freeImage]

/-! ## Attestation (R401, R402, R406 to R408) -/

/-- The identity seed (R401). -/
def idSeed : List Byte := (upFrom 0 96).map Config.identitySeed

/-- The identity public key, PK.seed and PK.root, that the key engine derives from the seed at every start-up (R401). -/
def idKey : List Byte := sliceB idSeed 64 32 ++ slh256f.root (sliceB idSeed 0 32) (sliceB idSeed 64 32)

/-- The body of the identity certificate (R402). -/
def certBody : List Byte :=
  leBytes 4 1 ++ leBytes 4 0x10 ++ leBytes 16 Config.serial.toNat ++ idKey ++ keyHash Config.deviceKey ++ List.replicate 24 0

/-- The certificate: body and signature. -/
def certificate : List Byte := certBody ++ (upFrom 128 29792).map Config.certByte

/-- The registers that are a wing's own protection set-up, by offset. -/
def wingProtOffs : List Nat := sortBy id ((wingRegRows.filter fun r => r.cls = .prot).flatMap fun r => (upFrom 0 r.n).map fun i => r.key + r.stride * i)

/-- Values of a wing's protection registers as R408 lays them out. -/
def State.wingSetup (s : State) (w : Nat) : List Byte := wingProtOffs.flatMap fun o => leBytes 8 (s.pr w o)

/-- The registers of the PF's own protection set-up: offset and bytes. -/
def pfProtRows : List (Nat × Nat) :=
  sortBy (·.1) ((pfRegRows.filter fun r => r.cls = .prot).flatMap fun r => (upFrom 0 r.n).map fun i => (r.key + r.stride * i, r.bytes))

/-- The set-up digest (R408): `none` for the module. -/
def State.setupDigest (s : State) (wing : Option Nat) : List Byte :=
  match wing with
  | some w => shake256 64 (s.wingSetup w)
  | none =>
    let own (l : List (Nat × Nat)) : List Byte := l.flatMap fun x => leBytes (max 8 x.2) (s.pf x.1)
    let lo := pfProtRows.filter fun x => x.1 < 0x600000
    let hi := pfProtRows.filter fun x => 0x600000 ≤ x.1
    shake256 64 (own lo ++ (upFrom 0 32).flatMap s.wingSetup ++ own hi)

/-- SVC_TRUST and SVC_DEBUG. -/
def State.svcDebug (s : State) : Nat := s.trust.dbgFirst * 65536 + sat 16 s.trust.dbgCount

/-- The 512 bytes of a report (Table 17.7); WNG_WEP.EPOCH and WNG_LEP.EPOCH are given. -/
def State.report (s : State) (c : Cmd) (scope : Bool) (wepoch lepoch : Nat) : List Byte :=
  let w := c.wing
  let ld := (s.wing w).load
  let z (n : Nat) : Nat := if scope then 0 else n
  let b := leBytes 4 1 ++ leBytes 4 (1 * 65536 + 0x10 * 256 + b2n scope * 16 + b2n s.trust.full * 8 + b2n s.trust.dbgSeen * 4 + s.boot.slot * 2)
    ++ leBytes 16 Config.serial.toNat ++ leBytes 8 s.stamp ++ (upFrom 0 4).flatMap (fun i => leBytes 8 (c.arg i))
    ++ sliceB (s.fwDigest s.boot.slot) 0 64 ++ s.trust.chainBytes ++ leBytes 4 s.trust.seq ++ leBytes 4 s.trust.log.length
    ++ leBytes 8 s.svcDebug ++ leBytes 4 (z w) ++ leBytes 4 (z wepoch) ++ leBytes 4 (z lepoch) ++ leBytes 4 0
    ++ s.setupDigest (if scope then none else some w)
    ++ leBytes 8 (z ld.okId) ++ (if scope then List.replicate 64 0 else sliceB ld.okDigest 0 64) ++ leBytes 8 (z ld.okBase)
    ++ leBytes 4 (z ld.okLab0) ++ leBytes 4 (z ld.okLab1)
  sliceB b 0 512

def spcImageWrite : CmdSpec := ⟨0x801, false, false, false, [0xFFFFFFFFFFFFFFFF, 0xFFFFFFFFFFFFFFFF]⟩
def spcImageErase : CmdSpec := ⟨0x802, false, false, false, [0xFFFFFFFFFFFFFFFF]⟩
def spcImageList : CmdSpec := ⟨0x803, false, true, false, [0xFFFFFFFFFFFFFFFF, 0xFFFFFFFF]⟩
def spcAttest : CmdSpec := ⟨0x804, false, true, false, [0xFFFFFFFFFFFFFFFF, 0xFFFFFFFFFFFFFFFF, 0xFFFFFFFFFFFFFFFF,
  0xFFFFFFFFFFFFFFFF, 0xFFFFFFFFFFFFFFFF, 0xFFFFFFFF, 7, 0xFFFFFFFF]⟩
def spcFwStage : CmdSpec := ⟨0x900, false, false, false, [0xFFFFFFFFFFFFFFFF, 0xFFFFFFFF]⟩
def spcFwActivate : CmdSpec := ⟨0x901, false, false, false, []⟩

/-- ATTEST at acceptance (R406). -/
def State.acceptAttest (s : State) (c : Cmd) : State :=
  let fl := c.arg 6
  let need := 50368 + (if bit fl 2 then 29920 else 0)
  if c.fn ≠ 0 ∧ (bit fl 0 ∨ bit fl 1) then s.complete c St.denied 0 []
  else if c.arg 4 % 64 ≠ 0 ∨ c.arg 5 < need then s.complete c St.badArg 0 []
  else s.hold c

/-- REPORT_FORMED: the oldest queued report is formed, signed with the identity key and written (R406, R407), while the newel runs. -/
def State.opReportFormed (s : State) (wepoch lepoch : Nat → Nat) : State :=
  if !s.newel.running then s else
  match s.outOp 0x804 with
  | [] => s
  | c :: _ =>
    let fl := c.arg 6
    let r := s.report c (bit fl 0) (wepoch c.wing) (lepoch c.wing)
    let (n, s) := s.free
    let sig := slh256f.sign idSeed ctxAtt r ((upFrom 0 32).map (Config.signRandom n))
    let a := r ++ sig ++ (if bit fl 2 then certificate else [])
    let ents := if bit fl 1 then (s.trust.log.drop (c.arg 7)).take ((c.arg 5 - a.length) / 64) else []
    let b := a ++ ents.flatten
    (s.hostWrite c.fn (c.arg 4) (clean b)).finish c St.ok [b.length, ents.length, s.trust.seq]

/-! ## Flash upkeep (R428, R429) -/

/-- The data of a block moves to another. -/
def State.flashMove (s : State) (old new : Nat) : State :=
  let swap (l : List Nat) : List Nat := l.map fun b => if b = old then new else b
  { s with
    svc := { s.svc with flOpen := s.svc.flOpen.filter fun (x : Nat × Nat × Nat) => x.2.1 ≠ old }
    trust := { s.trust with images := s.trust.images.map fun (x : Image) => { x with place := x.place.map fun (y : Nat × List Nat) => (y.1, swap y.2) } } }

/-- A copy that cannot be relocated is dropped (R429): marked as 4 × shard + 2 × copy + 1. -/
def Image.dropCopy (x : Image) (k : Nat) : Image := { x with lost := (2 * k + 1) :: x.lost, place := Tab.erase x.place k }

/-- A block is retired (R429): its readable data moves to a spare block first, and a copy that cannot move is dropped; the capacity comes from
the system region's own reserve, the spare region, or the free part of the image store. -/
def State.flashRetire (s : State) (block : Nat) (copyLost : Option (Nat × Nat × Nat)) : State :=
  if s.svc.flRetired.contains block || block ≥ 262144 then s else
  let s := match copyLost with
    | some (id, shard, copy) => { s with trust := { s.trust with images := s.trust.images.map fun (x : Image) =>
        if x.id = id && ((Tab.find x.place (2 * shard + copy)).getD []).contains block then x.dropCopy (2 * shard + copy) else x } }
    | none => s
  let v := s.svc
  let v := { v with flRetired := block :: v.flRetired }
  let v := if block < sysBlocks then { v with flSys := v.flSys - 1 }
    else if v.flSpare > 0 then { v with flSpare := v.flSpare - 1 } else { v with flTaken := v.flTaken + 1 }
  let s := { s with svc := v }
  match (if block < sysBlocks then none else s.flashNext (flashChan block)) with
  | some b => s.flashMove block b
  | none =>
    if block < sysBlocks then s
    else { s with trust := { s.trust with images := s.trust.images.map fun (x : Image) =>
      (x.place.filter fun (y : Nat × List Nat) => y.2.contains block).foldl (fun (x : Image) y => x.dropCopy y.1) x } }

/-- A block of flash that holds no data is erased: its count rises (R428), and at 3,000 it is retired (R429). -/
def State.flashErased (s : State) (block : Nat) : State :=
  let s := { s with svc := { s.svc with flErase := Tab.bump s.svc.flErase block 1 } }
  if Tab.cnt s.svc.flErase block ≥ 3000 then s.flashRetire block none else s

/-- A block whose page needed more than half of the correction is rewritten to a fresh block and erased (R428). -/
def State.flashRewrite (s : State) (block : Nat) : State :=
  let s := { s with svc := { s.svc with flRefreshed := min 262143 (s.svc.flRefreshed + 1) } }
  if block < sysBlocks || !s.flashUsed block then s
  else match s.flashNext (flashChan block) with
    | some b => (s.flashMove block b).flashErased block
    | none => s

/-- Wear levelling of a channel (R428): when the highest and lowest counts in use differ by more than 200, the data of the lowest-count block
moves to the free block of highest count. -/
def State.flashLevel (s : State) (ch : Nat) : State :=
  let cnt (b : Nat) : Nat := Tab.cnt s.svc.flErase b
  let used := flashBlocks ch fun b => b ≥ sysBlocks && s.flashUsed b && !s.svc.flRetired.contains b
  match pickBlock (fun x m => cnt x < cnt m) used, pickBlock (fun x m => cnt m < cnt x) used, pickBlock (fun x m => cnt m < cnt x) (s.flashFree ch) with
  | some cold, some top, some hot => if cnt top > cnt cold + 200 then (s.flashMove cold hot).flashErased cold else s
  | _, _, _ => s

/-- FLASH: one thing that the task does in a slice. -/
def State.opFlash (s : State) (op : FlashOp) : State :=
  match op with
  | .rewrite block => s.flashRewrite block
  | .retire block copyLost => s.flashRetire block copyLost
  | .eraseDone block => if s.flashUsed block && sysBlocks ≤ block then s else s.flashErased block
  | .fwCopy slot copy =>
    let k := 2 * (slot % 2) + copy % 2
    let o := 2 * (slot % 2) + (1 - copy % 2)
    match Tab.find s.trust.fw o with
    | some f => if s.fwPasses o then { s with trust := { s.trust with fw := Tab.set s.trust.fw k f } } else s
    | none => s
  | .level channel => s.flashLevel channel
  | .passEnd =>
    let mend (x : Image) : Image :=
      { x with lost := x.lost.filter fun k => k % 2 = 1 || x.lost.any fun j => j / 4 = k / 4 && j / 2 ≠ k / 2 }
    ({ s with trust := { s.trust with images := s.trust.images.map mend } }).bgEnd 10

end Sys2Proof.Machine
end

