-- ==== Sys2Proof/Machine/Boot.lean ====
section
/-!
DEFINITION. Power, the reset inputs, start-up, the device reset, functions and configuration requests (spec/21_startup_reset.md, spec/22
R472, R479, spec/20 R441 to R443).
-/
namespace Sys2Proof.Machine

/-! ## Resets of the whole module (Table 21.2) -/

/-- Parts of the start-up state that lie in flash, fuses or the input side. -/
def Boot.keep (b : Boot) (cause : Nat) : Boot :=
  { cause := cause, active := b.active, rails := b.rails, perst := b.perst, modRst := b.modRst, switchOpen := b.switchOpen
    tripped := b.tripped, romKeyOk := b.romKeyOk, minSvn := b.minSvn }

/-- Flash and fuse state of the service unit. -/
def Svc.keep (v : Svc) : Svc :=
  { repairs := v.repairs, fuses := v.fuses, flSpare := v.flSpare, flSys := v.flSys, flTaken := v.flTaken
    flRetired := v.flRetired, flErase := v.flErase, flOpen := v.flOpen }

/-- Firmware copies and images; an IMAGE_WRITE in progress leaves nothing (R391). -/
def Trust.keepFlash (t : Trust) : Trust := { fw := t.fw, images := t.images.filter fun x => x.cid.isNone }

/-- A cold reset: every register, memory and state takes its reset value; flash, fuses and the straps stay. -/
def State.coldReset (s : State) : State :=
  { pending := s.pending, fresh := s.fresh, host := s.host, hostBad := s.hostBad
    boot := s.boot.keep 0, svc := s.svc.keep, trust := s.trust.keepFlash, board := { sbAddr := s.board.sbAddr, i3c := s.board.i3c } }

/-- A unit word behind the discard of a UNIT_SET that had not taken effect (Table 21.2): it keeps the state that it has. -/
def UnitSt.drop (u : UnitSt) : UnitSt := if u.ackd then { u with want := u.hw, ackd := false, since := none } else u

/-- A warm device reset (Table 21.2); before the start-up that follows a cold reset has begun, that start-up is still a cold one. -/
def State.warmReset (s : State) : State :=
  let s := s.galLose
  { pending := s.pending, fresh := s.fresh, host := s.host, hostBad := s.hostBad, mem := s.mem
    boot := { s.boot.keep (if s.boot.st = 0 then s.boot.cause else 1) with hbmInit := s.boot.hbmInit }
    pci := { errSeen := s.pci.errSeen, errCount := s.pci.errCount }
    gal := { s.gal with lines := [], ptrs := [] }
    hbm := { s.hbm with ueTread := [] }
    units := s.units.map fun (x : Nat × UnitSt) => if x.1 / 1024 < 3 then (x.1, x.2.drop) else (x.1, { unitDefault x.1 with ce := x.2.ce, ue := x.2.ue })
    power := { idleCnt := s.power.idleCnt }
    ports := s.ports.map fun (x : Nat × PortSt) => (x.1, { trains := x.2.trains })
    phys := s.phys, board := s.board
    svc := { s.svc.keep with listFull := s.svc.listFull, ecal := s.svc.ecal, galSpares := s.svc.galSpares, flRefreshed := s.svc.flRefreshed }
    trust := { s.trust with images := s.trust.images.filter fun x => x.cid.isNone, held := false }
    newel := { restarts := s.newel.restarts } }

/-- The device reset at action 3 (R467, R384, Table 21.2). -/
def State.deviceReset (s : State) (pre : State → Nat → State) : State :=
  let due (c : Cmd) : Bool := c.op = 0x602 && s.isDue c
  let was := s
  let s := s.asEnded fun s => (s.newel.out.filter fun c => !due c).foldl (fun s c => s.finish c St.aborted []) s
  let s := (upFrom 0 32).foldl (fun s w => s.wingReset pre w false) s
  let s := { s with wings := s.wings.map fun (x : Nat × Wing) =>
    (x.1, { x.2 with pwr := [], pwe := [], conflict := false, fltSent := false
                     acc := x.2.acc.clear }) }
  let s := { s with acct := { s.acct with own := s.acct.own.clear, input := 0 }, units := s.units.map fun (x : Nat × UnitSt) => (x.1, x.2.drop) }
  let s := s.galFlush
  let s := (upFrom 0 9).foldl (fun s p => (s.modUnit (unitKey 3 p) fun u => { u with want := 4, ackd := false }).setHw (unitKey 3 p) 4 false) s
  let s := (upFrom 0 2).foldl (fun s p => ((s.modUnit (unitKey 4 p) fun u => { u with want := 4, ackd := false }).setHw (unitKey 4 p) 4 false).cxlEnable p false) s
  let s := { (s.fabReset) with
    power := { s.power with bcap := 0, bcapNext := none }
    svc := { s.svc with bg := [], bgFrom := s.tread % 2 ^ 47, serdes := [], taps := [], tapsDone := [], bist := 0, tsExcl := 0, vmExcl := 0, repl := [] }
    trust := { s.trust with images := s.trust.images.filter fun x => x.cid.isNone, held := false }
    newel := { s.newel with running := false, cause := 3, activating := none } }
  { (s.logEntry 3 none 0 [1]).alert 3 with
    pfw := [], pfe := [], time := { tread := was.time.tread, phase := was.time.phase, stepped := was.time.stepped, stepNow := was.time.stepNow }
    boot := { was.boot with st := 6, cause := 2, flr := [] } }

/-- The power stages turn off (R472, R479): nothing is kept but what flash and fuses hold. -/
def State.railsOff (s : State) : State := { s.coldReset with boot := { s.coldReset.boot with rails := false } }

/-! ## Power and reset inputs (R456, R457, R472, R479) -/

/-- POWER_ON: a cold reset, unless the thermal latch holds the rails off. The row stands for the whole of power-on: at its end every rail is good
and the straps SB_ADDR and the sideband's mode are sampled (R450, R458, log entry 79). -/
def State.opPowerOn (s : State) (sbAddr : Nat) (i3c : Bool) : State :=
  if s.boot.tripped then s
  else { s.coldReset with boot := { s.coldReset.boot with rails := true, switchOpen := false }, board := { sbAddr := sbAddr, i3c := i3c } }

/-- RESET_INPUT_ASSERT: an assertion below 100 µs may or may not reset (R457): the choice is a free value. -/
def State.opResetInput (s : State) (perst ge100us : Bool) : State :=
  let pin (s : State) : State := { s with boot := if perst then { s.boot with perst := true } else { s.boot with modRst := true } }
  if s.boot.st = 0 then pin s
  else
    let (n, s) := s.free
    if ge100us || n % 2 = 1 then pin s.warmReset else s

/-- The log's entry at the beginning of start-up (Table 17.6): RESET, or COLD, which is the first of all (R403). -/
def State.logStart (s : State) : State :=
  if s.boot.cause ≠ 0 then s.logEntry 3 none 0 [0] else s.logEntry 0 none 0 ((certBody.drop 16).take 48)

/-- START_UP_BEGIN: the rails are good and the inputs released (R457). -/
def State.opStartUp (s : State) : State :=
  if s.boot.st ≠ 0 || s.boot.tripped || s.boot.switchOpen then s else
  let r := s.logStart
  { r with boot := { s.boot with st := 1, rails := true, perst := false, modRst := false, startTread := s.tread, startMs := 0 } }

/-- INPUT_UNDERVOLTAGE (Table 22.3); an input below 40 V releases the thermal latch (R479). -/
def State.opUnder (s : State) (mv us : Nat) : State :=
  if mv < 40000 then { s.railsOff with boot := { s.railsOff.boot with tripped := false, switchOpen := false } }
  else if mv < 46000 ∧ us > 100 then s.railsOff
  else s

/-- INPUT_OVERVOLTAGE (Table 22.3). -/
def State.opOver (s : State) (mv us : Nat) : State :=
  if mv > 60000 ∧ us > 100 then { s.railsOff with boot := { s.railsOff.boot with switchOpen := true } } else s

/-- THERMAL_TRIP (R479). -/
def State.opTrip (s : State) (temp8 : Int) (analogue : Bool) : State :=
  if (temp8 ≥ 920 || analogue) && s.boot.rails then { s.railsOff with boot := { s.railsOff.boot with tripped := true } } else s

/-! ## Start-up (R459 to R464) -/

/-- BOOT_ROM (R461): `bad` marks copies whose flash pages no longer read as written. -/
def State.opBootRom (s : State) (bad : Nat) : State :=
  if s.boot.st ≠ 1 then s else
  let mark (x : Nat × FwCopy) : Nat × FwCopy := if bit bad x.1 then (x.1, { x.2 with readable := false }) else x
  -- the main PLL has locked: power is measured from here on (R57)
  let s := { s with trust := { s.trust with fw := s.trust.fw.map mark }, power := { s.power with measuring := true } }
  if !s.boot.romKeyOk then { s with boot := { s.boot with st := 2, failed := 15 } }
  else
    let order := fwOrder s.boot.active
    match order.find? fun k => s.fwPasses k with
    | none => { s with boot := { s.boot with st := 2, failed := 15 } }
    | some k =>
      { s with boot := { s.boot with st := 3, slot := k / 2, copy := k % 2, failed := failedBefore order k } }

/-- One repair applied at start-up (R146, R147, R432). -/
def State.applyRepair (s : State) (cold : Bool) (r : Repair) : State :=
  match r.kind with
  | 0 => { s with hbm := { s.hbm with spares := Tab.bump s.hbm.spares (bits r.loc 0 7 * 16 + bits r.loc 7 4) 1 } }
  | 1 =>
    let sl := bits r.loc 0 5
    { s with gal := { s.gal with spared := s.gal.spared ++ [sl * 65536 + bits r.loc 5 12 * 16 + bits r.loc 17 4] }
             svc := { s.svc with galSpares := Tab.bump s.svc.galSpares sl 1 } }
  | 2 =>
    let old := s.physOf r.loc
    let s := { s with phys := Tab.set s.phys r.loc r.spare }
    let s := s.modUnit (unitKey 0 r.spare) fun u => { u with hw := if u.hw = 5 then 0 else u.hw, want := if u.hw = 5 then 0 else u.want }
    s.modUnit (unitKey 0 old) fun u => { u with hw := if u.hw = 1 then 1 else 4, want := if u.hw = 1 then 1 else 4 }
  | _ => if cold && s.hbm.gone.length < 4096 then { s with hbm := { s.hbm with gone := s.hbm.gone ++ [r.loc] } } else s

/-- MEMORY_INIT (R463): `trainFail` are the channels that fail training. -/
def State.opMemoryInit (s : State) (trainFail : List Nat) : State :=
  if s.boot.st ≠ 3 then s else
  let b := s.boot
  -- a cold start that a warm reset cut short before this state is made good here
  let cold := b.cause = 0 || !b.hbmInit
  let s := trainFail.foldl (fun s ch =>
    if (s.unit (unitKey 2 ch)).hw = 3 then s
    else (s.modUnit (unitKey 2 ch) fun u => { u with want := 1 }).setHw (unitKey 2 ch) 1 false) s
  let s := { s with svc := { s.svc with repairs := s.svc.repairs.filter (!·.fused), galSpares := [] }
                    hbm := { s.hbm with spares := [] }, gal := { s.gal with spared := [], lines := [], ptrs := [], stale := [] }, phys := [] }
  let s := (s.svc.fuses ++ s.svc.repairs).foldl (fun s r => s.applyRepair cold r) s
  let s := s.zero 0 sramEnd
  let s := if cold then s.zero hbmBase (384 * hbmGiB) else s
  let s := { s with svc := { s.svc with listFull := s.svc.repairs.length ≥ 16384 } }
  { s with boot := { b with st := 4, hbmInit := true } }

/-- A unit word set by the start-up self-test (R464). -/
def State.setBoot (s : State) (key st : Nat) : State := (s.modUnit key fun u => { u with want := st }).setHw key st false

/-- ACC_STATIC in mW: the mean input power of the last 2,500 treads measured; with none measured it stays (R464). -/
def State.idlePower (s : State) : Nat :=
  let (x, n) := s.power.sum 2500
  if n = 0 then s.acct.static else x / n / 1000 % 2 ^ 32

/-- The events of start-up go to the PF's event ring (R370). -/
def State.sendBoot (s : State) : State :=
  s.boot.events.foldl (fun s e => e.fns.foldl (fun s g => s.writeEvt g e.body e.cls) s) { s with boot := { s.boot with events := [] } }

/-- STARTUP_SELFTEST (R464): the outcome of the scans and checks. Its events wait for the event ring where the PF has not enabled it yet. -/
def State.opSelftest (s : State) (coreFail sliceFail : List Nat) (sensorBad monBad pllDev16 : Nat) : State :=
  if s.boot.st ≠ 4 then s else
  let b := s.boot
  let s := ((s.excludeSensors sensorBad).excludeMonitors monBad).judgePll pllDev16
  -- every failing physical core enters FAULT first, then mapped ones are replaced
  let fails := sortBy id coreFail
  let s := fails.foldl (fun s p => s.setBoot (unitKey 0 p) 1) s
  let s := fails.foldl (fun s p =>
    match s.logicalOf p with
    | none => s
    | some n =>
      match s.sparesOf n with
      | [] => s
      | q :: _ => ({ s with phys := Tab.set s.phys n q }.setBoot (unitKey 0 q) 0).addRepair 2 n q) s
  let s := sliceFail.foldl (fun s x => s.setBoot (unitKey 1 x) 1) s
  let s := if s.boot.cause = 0 then (upFrom 0 32).foldl (fun s x => if sliceFail.contains x then s else s.setBoot (unitKey 1 x) 0) s else s
  let s := { s with
    acct := { s.acct with static := s.idlePower }
    boot := { b with st := 5, startMs := (if treadReached b.startTread s.tread then treadDiff b.startTread s.tread else 0) / 25, events := s.boot.events ++ s.newel.evq }
    newel := { s.newel with running := true, evq := [] } }
  if bit (s.fnSt 0).ctrl 0 then s.sendBoot else s

/-! ## The output signals (Table 22.2, R471) -/

/-- An output that is high impedance (`none`) while a main rail is down, else at a level. -/
def State.drives (s : State) (level : Bool) : Option Bool := if s.boot.rails then some level else none

/-- PWRGD: high while every main rail is within its limits. -/
def State.pwrgd (s : State) : Option Bool := s.drives s.boot.rails

/-- THERMTRIP_N, the one output that is driven without the rails: low after a thermal trip, else left to its pull-up (R479). -/
def State.thermtripN (s : State) : Option Bool := if s.boot.tripped then some false else none

/-- ALERT_N, open drain, on SMBus: low until ALERTS reads 0 (R450, R451). -/
def State.alertN (s : State) : Option Bool := if s.boot.rails && !s.board.i3c && s.board.alerts ≠ 0 then some false else none

/-- The sideband's address: the SMBus address and the I3C static address (R450). -/
def State.sbAddress (s : State) : Nat := 0x58 + s.board.sbAddr % 4

/-- CXL_PERSTn_N: low while CXL_PORTn.EN is 0 or a main rail is down, high once EN has landed at 1. -/
def State.cxlPerstN (s : State) (p : Nat) : Bool := s.boot.rails && bit (s.pf (Reg.cxlPort + 0x100 * p)) 63

/-- The power states of Table 22.4. -/
inductive PowerMode
  | off | held | start | idle | run
deriving DecidableEq, Repr

/-- The power state of the module (R474); a newel restart in state DEVICE is none of them. -/
def State.powerMode (s : State) : Option PowerMode :=
  if !s.boot.rails then some .off
  else match s.boot.st with
    | 0 | 2 => some .held
    | 1 | 3 | 4 => some .start
    | 5 => some (if (upFrom 0 32).any fun w => (s.job w).fl.fstate = 2 then .run else .idle)
    | _ => none

/-! ## Functions and configuration space (R441 to R443, R460) -/

/-- Wing resets by FLR are requested (R443, R356, R468). -/
def State.requestFlr (s : State) (ws : List Nat) (clk : Nat) : State :=
  { s with boot := { s.boot with flr := s.boot.flr ++ ws.map fun w => (w, s.nextEff clk) } }

/-- VF_FLR. -/
def State.opVfFlr (s : State) (w clk : Nat) : State :=
  if s.fnExists (w + 1) && !s.board.pinsTaken then (s.at_ clk).requestFlr [w] clk else s

/-- VF_ENABLE_CHANGE: NumVFs and VF Enable; each VF that disappears is reset as by FLR (R442). -/
def State.opVfEnable (s : State) (n : Nat) (en : Bool) (clk : Nat) : State :=
  if n > 32 || s.boot.st < 3 || s.board.pinsTaken then s else
  let s := s.at_ clk
  let old := if s.pci.vfEnable then s.pci.numVFs else 0
  let new := if en then n else 0
  let s := { s with pci := { s.pci with numVFs := n, vfEnable := en } }
  s.requestFlr (upFrom new (old - new)) clk

/-- Pending vectors of a function whose mask or enable changed are sent (R340). -/
def State.sendPend (s : State) (fn : Nat) : State :=
  let p := (s.fnSt fn).pend
  if p = 0 then s else (upFrom 0 16).foldl (fun s v => if bit p v then s.sendVec fn v else s) s

/-- The capabilities of the PF and of a VF (Table 20.2, R440). -/
def hasCap (fn : Nat) (c : PciCap) : Bool :=
  match c with
  | .pciExpress | .msix | .aer => true
  | .powerManagement | .sriov | .ari | .deviceSerial | .dataLinkFeature | .phys16 | .phys32 | .phys64 | .phys128 | .laneMargining => fn = 0
  | .flr => fn ≠ 0
  | .ats | .pri | .pasid | .tph | .resizableBar | .ide | .acs | .other => false

/-- Bytes of the PF's BAR0, and of each VF's (R444). -/
def barSize : Nat := 0x2000000
def vfBarSize : Nat := 0x20000

/-- A dword of a base address register at 0 that is 64-bit and not prefetchable, with every other BAR unimplemented (R444). The address bits
below the size read 0, as PCI Express has it (log entry 16). -/
def barValue (base size n : Nat) : Nat :=
  if n = 0 then base / size * size % 2 ^ 32 + 4 else if n = 1 then base / 2 ^ 32 % 2 ^ 32 else 0

/-- A dword of that register is written. -/
def barWrite (base n v : Nat) : Nat :=
  if n = 0 then base / 2 ^ 32 * 2 ^ 32 + v / 16 * 16 % 2 ^ 32 else if n = 1 then v % 2 ^ 32 * 2 ^ 32 + base % 2 ^ 32 else base

/-- The value of a configuration field (R441; the fields of a VF that the spec does not state: log entry 16). -/
def State.cfgValue (s : State) (fn : Nat) (f : CfgField) : Nat :=
  match f with
  | .vendorId => if fn = 0 then Config.vendorId.toNat else 0xFFFF
  | .deviceId => if fn = 0 then 0x0940 else 0xFFFF
  | .revisionId => 0x10
  | .classCode => 0x120000
  | .subsystemVendorId => Config.vendorId.toNat
  | .totalVFs => if fn = 0 then 32 else 0
  | .initialVFs => if fn = 0 then 32 else 0
  | .firstVFOffset => if fn = 0 then 1 else 0
  | .vfStride => if fn = 0 then 1 else 0
  | .vfDeviceId => if fn = 0 then 0x0941 else 0
  | .numVFs => if fn = 0 then s.pci.numVFs else 0
  | .vfEnable => if fn = 0 then b2n s.pci.vfEnable else 0
  | .powerState => if fn = 0 then (if s.pci.d3hot then 3 else 0) else 0
  | .msixEnable => b2n (s.fnSt fn).msixEn
  | .functionMask => b2n (s.fnSt fn).fnMask
  | .capability c => b2n (hasCap fn c)
  | .bar n => if fn = 0 then barValue s.pci.bar0 barSize n.val else 0
  | .vfBar n => if fn = 0 then barValue s.pci.vfBar0 vfBarSize n.val else 0

/-- The effect of a configuration write. -/
def State.cfgWrite (s : State) (fn : Nat) (f : CfgField) (v : Nat) : State :=
  match f with
  | .numVFs => if fn = 0 then s.opVfEnable v s.pci.vfEnable s.time.phase else s
  | .vfEnable => if fn = 0 then s.opVfEnable s.pci.numVFs (v % 2 = 1) s.time.phase else s
  | .powerState => if fn = 0 then (if v % 4 = 3 then { s with pci := { s.pci with d3hot := true } }
      else if v % 4 = 0 then { s with pci := { s.pci with d3hot := false } } else s) else s
  | .msixEnable => (s.modFn fn fun x => { x with msixEn := v % 2 = 1 }).sendPend fn
  | .functionMask => (s.modFn fn fun x => { x with fnMask := v % 2 = 1 }).sendPend fn
  | .bar n => if fn = 0 then { s with pci := { s.pci with bar0 := barWrite s.pci.bar0 n.val v } } else s
  | .vfBar n => if fn = 0 then { s with pci := { s.pci with vfBar0 := barWrite s.pci.vfBar0 n.val v } } else s
  | _ => s

/-- CONFIG_REQUEST: Retry Status before MEMORY (R460); an absent VF does not answer. While the pins are taken the host link is down (R455). -/
def State.opConfig (s : State) (fn : Nat) (f : CfgField) (write : Option Nat) : State :=
  if s.boot.st < 3 || s.board.pinsTaken then { s with ans := { s.ans with cfg := none } }
  else if !s.fnExists fn then { s with ans := { s.ans with cfg := some 0xFFFFFFFF } }
  else
    let s := match write with
      | some v => s.cfgWrite fn f v
      | none => s
    { s with ans := { s.ans with cfg := some (s.cfgValue fn f) } }

/-- PF_D3HOT and PF_D0_RETURN (R443). -/
def State.opD3 (s : State) (d3 : Bool) : State := if s.boot.st < 3 || s.board.pinsTaken then s else { s with pci := { s.pci with d3hot := d3 } }

/-- Wing resets by FLR that are due. -/
def State.flrDue (s : State) : List (Nat × Nat) := s.boot.flr.filter fun x => treadReached x.2 s.tread

/-- Wings whose reset is due by FLR or WING_RESET (R356). -/
def State.resetWings (s : State) : List Nat :=
  (upFrom 0 32).filter fun w => (s.flrDue.any fun x => x.1 = w) || (s.outOf 0x601 w).any s.isDue

/-- The commands that a reset of the coming boundary ends complete before it (R384); `t` is the tread that it begins. -/
def State.abortAhead (s : State) (t : Nat) : State :=
  let n := { s with time := { s.time with tread := t } }
  if s.boot.st ≠ 5 then s
  else if (n.outOp 0x602).any n.isDue then
    (s.newel.out.filter fun c => !(c.op = 0x602 && n.isDue c)).foldl (fun s c => s.finish c St.aborted []) s
  else n.resetWings.foldl (fun s w => s.abortWing w (fun c => c.op = 0x601 && c.wing = w && n.isDue c) fun c => opScoped c.op) s

/-- Action 3 of Table 2.2: a device reset that is due, else the wing resets that are due, in READY (R356, R468). -/
def State.resetAction (s : State) (pre : State → Nat → State) : State :=
  if s.boot.st ≠ 5 then s
  else if (s.outOp 0x602).any s.isDue then s.deviceReset pre
  else
    { s.resetWings.foldl (fun r w => r.wingReset pre w (s.flrDue.any fun x => x.1 = w)) s with
      pfw := s.pfw, pfe := s.pfe, time := s.time, boot := { s.boot with flr := s.boot.flr.filter fun x => !treadReached x.2 s.tread } }

end Sys2Proof.Machine
end

