-- ==== Sys2Proof/Machine/Links.lean ====
section
/-!
DEFINITION. The CXL ports, the sideband and the test access port (spec/20_host_links.md).
-/
namespace Sys2Proof.Machine

/-! ## CXL (R446 to R448, R135, R137) -/

/-- CXL_LINK_UP: the link of a port in TRAIN comes up, or the partner is rejected. -/
def State.opCxlUp (s : State) (p : Nat) (x : CxlPartner) : State :=
  let c := s.cxlPort p
  if c.st ≠ 1 || s.board.pinsTaken then s
  else if !x.type3Direct then { s with cxl := Tab.set s.cxl p { c with st := 3, size := 0 } }
  else { s with cxl := Tab.set s.cxl p { c with
    st := 2, size := min (x.capacity / 0x10000000) 8192, speed := x.speed % 8, width := min x.width 16 } }

/-- CXL_LINK_DOWN. -/
def State.opCxlDown (s : State) (p : Nat) : State := if (s.cxlPort p).st ≤ 1 then s else s.cxlLost p 1

/-- The completion timeout of a CXL port in clk of 940 MHz: CTO in µs, at least 50 (R448). -/
def State.cxlCto (s : State) (p : Nat) : Nat := max 50 (bits (s.pf (Reg.cxlCto + 0x100 * p)) 0 16) * 940

/-- CXL_COMPLETION_TIMEOUT: the read of a line that has been open for `openClk` clk is delivered poisoned and counted once its window has closed
(R448); a line in the gallery has no read open. -/
def State.opCxlTimeout (s : State) (p addr openClk : Nat) : State :=
  let c := s.cxlPort p
  let here := match s.region addr with | .cxl q _ => q = p | _ => false
  if c.st ≠ 2 || !here || (s.gal.locate addr).isSome || openClk < s.cxlCto p then s
  else
    let l := addr / 256
    let s := { s with cxl := Tab.set s.cxl p { c with timeouts := sat 16 (c.timeouts + 1), timed := l :: c.timed, gone := l :: c.gone } }
    s.memRecord 2 3 0 0 (unitKey 4 p) (l * 256)

/-- CXL_READ_COMPLETION: a late completion is discarded and counted; a poisoned one poisons the line (R136). -/
def State.opCxlCompletion (s : State) (p addr : Nat) (poison : Bool) : State :=
  let c := s.cxlPort p
  let l := addr / 256
  let here := match s.region addr with | .cxl q _ => q = p | _ => false
  if c.gone.contains l then
    { s with cxl := Tab.set s.cxl p { c with late := sat 16 (c.late + 1), gone := c.gone.erase l } }
  else if poison && here && c.st = 2 && (s.gal.locate addr).isNone then
    { s with mem := { s.mem with errs := (upFrom (l * 64) 64).foldl (fun e w => setErr e w 127) s.mem.errs } }
  else s

/-! ## The sideband (R450 to R452) -/

/-- The sideband is alive: the rails are up (R458), and no TAP instruction has taken its pins (R455). -/
def State.sbLive (s : State) : Bool := s.boot.rails && !s.board.pinsTaken

/-- The answer to a sideband transaction; none is a NACK. -/
def State.sbAnswer (s : State) (b : Option (List Byte)) : State := { s with ans := { s.ans with sb := if s.sbLive then b else none } }

/-- IDENT, or a command code that is not assigned (R451). -/
def State.opIdent (s : State) (unassigned : Bool) : State :=
  s.sbAnswer (if unassigned then none else some (leBytes 16 Config.serial.toNat ++ [0x10] ++ leBytes 2 1 ++ leBytes 1 s.boot.slot))

def State.opStateRead (s : State) : State :=
  s.sbAnswer (some (leBytes 4 (s.boot.st + s.time.lock * 16 + b2n (s.ready && bit (s.fnSt 0).ctrl 0) * 64 + b2n s.trust.dbgSeen * 128)))

def State.opTemp (s : State) : State :=
  s.sbAnswer (some (leBytes 4 (ofSigned 16 s.power.temp8 + popCount64 s.svc.tsExcl * 65536)))

def State.opPower (s : State) (mv ma : Nat) : State :=
  s.sbAnswer (some (leBytes 2 (mv / 10) ++ leBytes 2 (ma / 10) ++ leBytes 2 s.power.avgW ++ leBytes 2 s.capW))

def State.opAlerts (s : State) : State := s.sbAnswer (some (leBytes 4 s.board.alerts))

/-- ALERT_CLR: a write of another length than 4 is answered with NACK. -/
def State.opAlertClr (s : State) (b : List Byte) : State :=
  if !s.sbLive || b.length ≠ 4 then s.sbAnswer none
  else ({ s with board := { s.board with alerts := s.board.alerts &&& (0xFFFFFFFF - leNat b) } }).sbAnswer (some [])

/-- BCAP: a write takes effect at the next boundary (R452). -/
def State.opBcap (s : State) (write : Option (List Byte)) : State :=
  match write with
  | none => s.sbAnswer (some (leBytes 2 (s.power.bcapNext.getD s.power.bcap)))
  | some b => if !s.sbLive || b.length ≠ 2 then s.sbAnswer none
    else ({ s with power := { s.power with bcapNext := some (leNat b) } }).sbAnswer (some [])

/-- SVC_BIST. -/
def State.svcBist (s : State) : Nat := b2n s.svc.inWin * 2 ^ 31 + s.svc.bist

def State.opBist (s : State) : State := s.sbAnswer (some (leBytes 4 s.svcBist))

/-! ## The test access port (R405, R453, R455) -/

/-- The debug port is used: DEBUG_SEEN with its entry (R405). -/
def State.debugUse (s : State) : State := s.debugFirst fun s => s.logEntry 4 none 0 []

/-- TAP_TLR_EXIT (R405). -/
def State.opTlrExit (s : State) (clk : Nat) : State :=
  if !s.tapLive then s else
  let s := s.at_ clk
  if s.trust.dbgSeen then { s with trust := { s.trust with dbgCount := sat 16 (s.trust.dbgCount + 1) } }
  else s.debugUse

/-- TAP_TLR_RETURN: after an instruction that took the pins, a warm device reset (R455). -/
def State.opTlrReturn (s : State) : State :=
  if !s.tapLive then s else
  let used := s.board.pinsUsed
  let s := { s with board := { s.board with tapIr := 1, pinsTaken := false, pinsUsed := false } }
  if used then s.warmReset else s

/-- An instruction that leaves the pins to their functions; what the data register captures. Like every use of the port it sets DEBUG_SEEN
(R454). -/
def State.tapSelect (s : State) (code capture : Nat) : State :=
  if !s.tapLive then s else
  let s := s.debugUse
  { s with board := { s.board with tapIr := code, tapDr := capture, pinsTaken := false }, ans := { s.ans with tap := capture } }

/-- The identification code (Table 20.7). -/
def idcode : Nat := 2 ^ 28 + 0x0940 * 2 ^ 12 + Config.jep106.toNat * 2 + 1

/-- SAMPLE/PRELOAD: what the pins show is open. -/
def State.opSample (s : State) (preload : Nat) : State :=
  if !s.tapLive then s else
  let (n, s) := s.free
  let s := s.tapSelect 2 n
  { s with board := { s.board with bsr := preload } }

/-- What the data register of an instruction that takes the pins captures (Table 20.7): the boundary register what the pins show, which is
open; the 1-bit register of CLAMP and HIGHZ a 0 (IEEE 1149.1, log entry 79). -/
def State.tapCapture (s : State) (drive : Option Nat) : Nat × State := if drive.isSome then s.free else (0, s)

/-- An instruction that takes the pins: the host, hall, twin and CXL links drop (R455). `drive`: what Update-DR puts into the boundary register,
where the instruction selects it. -/
def State.tapPins (s : State) (code : Nat) (drive : Option Nat) : State :=
  if !s.tapLive then s else
  let s := (upFrom 0 9).foldl (fun s p => s.portDrop p) s.debugUse
  let s := (upFrom 0 2).foldl (fun s p => s.opCxlDown p) s
  let (x, s) := s.tapCapture drive
  { s with
    board := { s.board with tapIr := code, tapDr := x, bsr := drive.getD s.board.bsr, pinsTaken := true, pinsUsed := true }
    ans := { s.ans with tap := x } }

/-- What the pins are driven with by EXTEST and CLAMP: the boundary register; by HIGHZ nothing (R453, R455). -/
def State.pinDrive (s : State) : Option Nat := if s.board.pinsTaken && s.board.tapIr ≠ 7 then some s.board.bsr else none

end Sys2Proof.Machine
end

