-- ==== Sys2Proof/Machine/Variants.lean ====
section
/-!
DEFINITION. Weight epochs, adapters and learned prefixes (spec/10_variants_epochs.md R216 to R229): the commands and the actions 4h to 4j.
-/
namespace Sys2Proof.Machine

def State.modVr (s : State) (w : Nat) (f : Variants → Variants) : State := s.modJob w fun j => { j with vr := f j.vr }

/-! ## Weight epochs (R217, R219) -/

/-- `e` is ahead of the present epoch by 1 to 2^31 − 1, modulo 2^32. -/
def epochAhead (now e : Nat) : Bool := let d := (e + 2 ^ 32 - now) % 2 ^ 32; 1 ≤ d && d < 2 ^ 31

/-- V of the wing in MiB. -/
def State.bankSize (s : State) (w : Nat) : Nat := bits (s.wr w Reg.wngWbank) 0 27

/-- The status with which EPOCH_FLIP is refused, if it is. -/
def State.flipRefusal (s : State) (w e : Nat) : Option Nat :=
  if s.bankSize w = 0 then some St.badArg
  else if !epochAhead (s.job w).vr.wep e then some St.badEpoch
  else if (s.job w).vr.pend.isSome then some St.flipPending
  else none

def spcEpochFlip : CmdSpec := ⟨0x300, true, true, false, [0xFFFFFFFF, 1, 0xFFFFFFFF]⟩

/-- EPOCH_FLIP at acceptance. -/
def State.cmdEpochFlip (s : State) (c : Cmd) : State :=
  match (if (s.wing c.wing).load.bad then some St.shardBad else s.flipRefusal c.wing (c.arg 0)) with
  | some st => s.complete c st 0 []
  | none => (s.modVr c.wing fun v => { v with
      pend := some ⟨c.arg 0, if bit (c.arg 1) 0 then some (c.arg 2) else none, c.eff, some c.cid⟩ }).hold c

/-- The new value of WNG_STEP that falls due: a write wins over ADVANCE entries (R230). -/
def State.stepNext (s : State) (w : Nat) : Option Nat :=
  let x := (s.job w).trn
  let now := s.we w Reg.wngStep
  let new := if x.stepW then s.wr w Reg.wngStep else (now + x.advance) % 2 ^ 32
  if new = now then none else some new

/-- WNG_STEP is about to become the step that a pending flip waits for, or by several ADVANCE entries to pass it: a change that was held and later
ones take effect together (log entry 82). -/
def State.stepFlip (s : State) (w : Nat) : Bool :=
  match (s.job w).vr.pend.bind fun f => f.atStep with
  | some t =>
    if (s.job w).trn.stepW then s.stepNext w = some t
    else let d := (t + 2 ^ 32 - s.we w Reg.wngStep) % 2 ^ 32; 1 ≤ d && d ≤ (s.job w).trn.advance
  | none => false

/-- The condition of NEXT: the boundary is late enough and no entry of the wing still runs. -/
def State.flipReady (s : State) (w : Nat) (f : Flip) : Bool := treadReached f.eff s.tread && !s.wingBusy w

/-- The flip lands: EPOCH becomes E and BANK toggles. -/
def State.flipLand (s : State) (w e : Nat) : State := s.modVr w fun v => { v with wep := e, bank := 1 - v.bank, pend := none }

/-- A MODEL_LOAD completes with OK: its log entry, and what ATTEST reports of it (R397, Table 17.6, Table 17.7). -/
def State.loadDone (s : State) (w : Nat) (c : Cmd) : State :=
  match s.trust.images.find? (fun (x : Image) => x.id = c.arg 0) with
  | none => s.finish c St.ok c.aux
  | some im =>
    let d := shake256 64 (im.manifest ++ im.sig)
    let s := s.modWing w fun x => { x with load := { x.load with
      succeeded := true, okId := im.id, okDigest := d, okBase := c.arg 1, okLab0 := im.lab0, okLab1 := im.lab1 } }
    (s.logEntry 7 (some w) 0 (leBytes 8 im.id ++ d.take 40)).finish c St.ok c.aux

/-- 4j; a turn's flip lands only with its turn (R293), and a load's only after the load has succeeded (R397). -/
def State.flipAction (s : State) (w : Nat) : State :=
  match (s.job w).vr.pend with
  | none => s
  | some f =>
    if f.cid.isSome && f.cid ≠ (s.wing w).load.cid && s.flipReady w f && (f.atStep.isNone || s.stepFlip w) then
      let s := s.flipLand w f.e
      match f.cid.bind fun i => s.newel.out.find? fun c => c.cid = i with
      | some c => if c.op = 0x800 then s.loadDone w c else s.finish c St.ok []
      | none => s
    else s

/-- A change of WNG_STEP is held with the flip that waits for it (R219). -/
def State.stepHeld (s : State) (w : Nat) : Bool := s.stepFlip w

/-! ## Adapters (R221 to R225) -/

/-- WNG_MDL.RMAX as it acts. -/
def State.rmax (s : State) (w : Nat) : Nat := min (bits (s.wr w Reg.wngMdl) 0 9) 256

def spcAdapterLoad : CmdSpec := ⟨0x301, true, true, false, [0x1FF001F0FFF, 0xFFFFFFFFFFFFFFFF, 0x1FFF, 0xFFFFFFFF]⟩
def spcAdapterDrop : CmdSpec := ⟨0x302, true, true, false, [0xFFF]⟩

/-- A site of a directory is valid: reserved bytes 0, widths not 0, both matrices in the wing's HBM windows. -/
def State.siteOk (s : State) (w : Nat) (f : FmtInfo) (rank a : Nat) : Bool :=
  let d := s.peek w (s.bankNow w) a 32
  let k := fieldN d 18 2
  let n := fieldN d 16 2
  fieldN d 20 12 = 0 && k ≠ 0 && n ≠ 0 && s.mappedIn w (s.bankNow w) [1] (fieldN d 0 8) (f.rowsBytes rank k)
    && s.mappedIn w (s.bankNow w) [1] (fieldN d 8 8) (f.rowsBytes n rank)

/-- ADAPTER_LOAD at acceptance (R222). -/
def State.cmdAdapterLoad (s : State) (c : Cmd) : State :=
  let w := c.wing
  let s := (s.adpFetch w (bits (c.arg 0) 0 12)).fetchIn w (c.arg 1) (32 * min (c.arg 2) 4096)
  let h := bits (c.arg 0) 0 12
  let fmt := bits (c.arg 0) 16 5
  let rank := bits (c.arg 0) 32 9
  let sites := c.arg 2
  if h ≥ s.adpCount w ∨ (fmt ≠ 2 ∧ fmt ≠ 16) ∨ rank = 0 ∨ rank > s.rmax w ∨ sites = 0 ∨ sites > 4096 ∨ c.arg 3 % 2 ^ 31 ≥ 0x7F800000 then
    s.complete c St.badArg 0 []
  else if adpOldv (s.adpEnt w h) then s.complete c St.adapterBusy 0 []
  else
    let ok : Bool := match fmtInfo fmt with
      | some f => s.mappedIn w (s.bankNow w) [1] (c.arg 1) (32 * sites) && (upFrom 0 sites).all fun i => s.siteOk w f rank (c.arg 1 + 32 * i)
      | none => false
    if ok then s.hold c else s.complete c St.badArg 0 []

/-- An accepted load is published (R222): what the entry held before moves to OLD_GEN's fields, whether it was READY or not. -/
def State.adpPublish (s : State) (c : Cmd) : State :=
  let w := c.wing
  let h := bits (c.arg 0) 0 12
  if h ≥ s.adpCount w then s.finish c St.aborted []
  else
    let s := s.adpFetch w h
    let e := s.adpEnt w h
    let was := adpState e = 1
    let gen := if was then (if adpGenNo e = 65535 then 1 else adpGenNo e + 1) else 1
    let w0 := fieldN e 0 4
    let s := s.tabWrite w (s.adpAddr w h)
      (leBytes 4 (2 ^ 30 + b2n was * 2 ^ 29 + bits (c.arg 0) 16 5 * 2 ^ 24 + (bits (c.arg 0) 32 9 - 1) * 65536 + gen)
        ++ leBytes 4 (adpGenNo e * 65536 + bits w0 24 5 * 256 + bits w0 16 8) ++ leBytes 4 0 ++ sliceB e 8 4 ++ leBytes 8 (c.arg 1) ++ sliceB e 16 8
        ++ leBytes 4 (c.arg 3) ++ sliceB e 32 4 ++ leBytes 4 (c.arg 2) ++ sliceB e 40 4 ++ leBytes 16 0)
    s.finish c St.ok [gen]

/-- ADAPTER_DROP at acceptance. -/
def State.cmdAdapterDrop (s : State) (c : Cmd) : State :=
  let s := s.adpFetch c.wing (c.arg 0)
  let e := s.adpEnt c.wing (c.arg 0)
  if c.arg 0 ≥ s.adpCount c.wing ∨ adpState e ≠ 1 then s.complete c St.noAdapter 0 []
  else if adpPins e ≠ 0 ∨ adpOldPins e ≠ 0 then s.complete c St.adapterBusy 0 []
  else s.hold c

/-- A row with ASW moves its pin (R224). -/
def State.adpSwitch (s : State) (w slot : Nat) : State :=
  let r := s.rowBytes w slot
  let h := rwAdapter r
  let e := s.adpEnt w h
  if rwAsw r && !rwNoadapt r && h < s.adpCount w && adpOldv e && adpOldGen e = rwAgen r then
    let s := s.adpFetch w h
    let s := s.tabWrite w (s.adpAddr w h + 8) (leBytes 4 (adpPins e + 1) ++ leBytes 4 (adpOldPins e - 1))
    s.rowPut w slot 30 (leBytes 2 (adpGenNo e))
  else s

/-- An old generation with no pins is released. -/
def State.adpRelease (s : State) (w h : Nat) : State :=
  let e := s.adpEnt w h
  if adpOldv e && adpOldPins e = 0 then (s.adpFetch w h).tabWrite w (s.adpAddr w h) (leBytes 4 (fieldN e 0 4 - 2 ^ 29)) else s

/-- 4h. -/
def State.adpAction (s : State) (w : Nat) : State :=
  let s := (s.newel.out.filter fun c => c.wing = w && (c.op = 0x301 || c.op = 0x302) && s.isDue c).foldl (fun s c =>
    if c.op = 0x301 then s.adpPublish c
    else ((s.adpFetch w (c.arg 0)).tabWrite w (s.adpAddr w (c.arg 0)) (leBytes 4 (fieldN (s.adpEnt w (c.arg 0)) 0 4 % 2 ^ 29))).finish c St.ok []) s
  let s := (s.rowsIn w 1 ++ s.rowsIn w 2).foldl (fun s i => s.adpSwitch w i) s
  (upFrom 0 (s.adpCount w)).foldl (fun s h => s.adpRelease w h) s

/-! ## Learned prefixes (R226 to R228) -/

def spcPrefixRegister : CmdSpec := ⟨0x303, true, true, false, [0x1FFF3FFFFFFF]⟩
def spcPrefixDrop : CmdSpec := ⟨0x304, true, true, false, [0xFFFF]⟩

/-- STATE and PLEN of a prefix entry. -/
def State.setPfx (s : State) (w h st plen : Nat) : State := s.tabWrite w (s.pfxAddr w h) (leBytes 4 (st * 2 ^ 30 + plen))

/-- PREFIX_REGISTER at acceptance (R227). -/
def State.cmdPrefixRegister (s : State) (c : Cmd) : State :=
  let w := c.wing
  let h := bits (c.arg 0) 0 16
  let src := bits (c.arg 0) 16 14
  let plen := bits (c.arg 0) 32 13
  let s := (s.pfxFetch w h).seqFetch w src
  let row := s.rowBytes w src
  let p := s.ptRow w src
  let page (x : Nat) : Nat := (s.entOf w src p.sel x).2
  let share := (upFrom 0 (plen / 16)).map page
  if h ≥ s.pfxCount w ∨ plen = 0 ∨ plen > 4096 ∨ src ≥ s.seqCount w then s.complete c St.badArg 0 []
  else if s.pfxState w h ≠ 0 then s.complete c St.prefixBusy 0 []
  else if !(rwState row = 1 || (rwState row = 2 && p.place = 0)) then s.complete c St.slotBusy 0 []
  else if plen > rwPos row ∨ rwNoadapt row = false ∨ rwPfx row ≠ 0 then s.complete c St.badArg 0 []
  else
  let s := share.foldl (fun s i => s.pgFetch w i) (s.fetchIn w (s.ptEnt w src p.sel 0) (4 * ((plen + 15) / 16)))
  if share.any fun i => s.pgRefs w i ≥ 65535 then s.complete c St.refLimit 0 []
  else if plen % 16 ≠ 0 ∧ (s.freePages w).length < s.kvReserve w + 1 then s.complete c St.poolFull 0 []
  else
    let s := s.tabWrite w (s.pfxAddr w h) (leBytes 4 (2 ^ 30 + plen) ++ leBytes 4 (s.job w).vr.wep)
    let s := ((upFrom 0 share.length).zip share).foldl (fun s (x : Nat × Nat) =>
      (s.pgRef w x.2).tabWrite w (s.pfxAddr w h + 64 + 4 * x.1) (leBytes 4 x.2)) s
    let s := if plen % 16 = 0 then s else
      let (id, s) := s.pgAlloc w 3
      (s.tabWrite w (s.pfxAddr w h + 64 + 4 * (plen / 16)) (leBytes 4 id)).startCopy w 3 h (plen / 16) (page (plen / 16)) id 0
    s.hold c

/-- PREFIX_DROP at acceptance. -/
def State.cmdPrefixDrop (s : State) (c : Cmd) : State :=
  let h := c.arg 0
  let s := s.pfxFetch c.wing h
  if h ≥ s.pfxCount c.wing ∨ s.pfxState c.wing h = 0 then s.complete c St.noPrefix 0 []
  else if s.pfxState c.wing h = 1 then s.complete c St.prefixBusy 0 []
  else s.hold c

/-- 4i for one command: a registration whose copy has landed is published, a drop takes effect. -/
def State.pfxStep (s : State) (c : Cmd) : State :=
  let w := c.wing
  let h := bits (c.arg 0) 0 16
  if c.op = 0x303 then
    let cs := (s.job w).gen.copies.filter fun x => x.kind = 3 && x.slot = h
    if cs.any (!·.landed) then s
    else
      let s := cs.foldl (fun s x => (s.pgFetch w x.dst).setPage w x.dst 1 (s.pgRefs w x.dst)) (s.pfxFetch w h)
      let s := s.modGen w fun g => { g with copies := g.copies.filter fun x => !(x.kind = 3 && x.slot = h) }
      (s.setPfx w h 2 (s.pfxLen w h)).finish c St.ok []
  else
  let s := s.pfxFetch w h
  if s.pfxState w h ≠ 2 then s.finish c St.noPrefix []
  else
    let n := (s.pfxLen w h + 15) / 16
    let s := (upFrom 0 n).foldl (fun s i => s.pgUnref w (s.pfxPage w h i)) s
    (s.setPfx w h 0 0).finish c St.ok []

/-- 4i. -/
def State.pfxAction (s : State) (w : Nat) : State :=
  (s.newel.out.filter fun c => c.wing = w && (c.op = 0x303 || c.op = 0x304) && s.isDue c).foldl (fun s c => s.pfxStep c) s

/-- A write to WNG_ADP or WNG_PFX that lands sets every entry EMPTY (R228, R229). -/
def State.adpEmpty (s : State) (w : Nat) : State :=
  (upFrom 0 (s.adpCount w)).foldl (fun s h => if adpState (s.adpEnt w h) = 0 then s else s.tabWrite w (s.adpAddr w h) (leBytes 4 0)) s

def State.pfxEmpty (s : State) (w : Nat) : State :=
  (upFrom 0 (s.pfxCount w)).foldl (fun s h => if s.pfxState w h = 0 then s else s.setPfx w h 0 0) s

/-- A KV register write that lands: every page FREE, every slot free, every prefix EMPTY (R215, R228). -/
def State.kvClear (s : State) (w : Nat) : State :=
  let s := (upFrom 0 (s.kvFrames w)).foldl (fun s i => if s.peekN w (s.pstAddr w i) 4 = 0 then s else s.setPage w i 0 0) s
  (s.modGen w fun g => { g with cxlUsed := [], hostUsed := [] }).pfxEmpty w

end Sys2Proof.Machine
end

