-- ==== Sys2Proof/Machine/Train.lean ====
section
/-!
DEFINITION. The training step (spec/11_training.md R230, R231, R239 to R251): OPTIM functions, norm banks, votes, verdicts and the change of
WNG_STEP.
-/
namespace Sys2Proof.Machine

def State.trnBase (s : State) (w : Nat) : Nat := addrOf (s.wr w Reg.wngTrnArea) 20

/-- The module's own tables of the training area can be written: the area lies in the wing's HBM window. -/
def State.trnOk (s : State) (w : Nat) : Bool := s.mappedIn w (s.bankNow w) [1] (s.trnBase w) 0x60080

/-- Norm record of a layer in a bank (R243). -/
def State.normAddr (s : State) (w b l : Nat) : Nat := s.trnBase w + 0x20000 + 0x20000 * b + 32 * l

/-- Vote slot of a step (R246). -/
def State.voteAddr (s : State) (w step : Nat) : Nat := s.trnBase w + 0x60000 + 64 * (step % 2)

/-- An OPTIM word of an operation. -/
def isOptim (op c : Nat) : Bool := cwFunc c = 6 && bits (cwArg c 0) 0 4 = op

/-! ## UPDATE (R242, R249) -/

/-- Square root, rounded once (IEEE 754-2019). -/
def fsqrt : Fp → Fp
  | .nan _ => .nan false
  | .inf s => if s then .nan false else .inf false
  | .fin s m e =>
    if m = 0 then .fin s 0 0 else if s then .nan false else
    let (m2, e2) := if e % 2 = 0 then (m, e) else (2 * m, e - 1)
    let n := m2 * 2 ^ 200
    let r := isqrt n (Nat.log2 n / 2 + 1) 0
    rne32 (.fin false (2 * r + b2n (r * r ≠ n)) (e2 / 2 - 101))

/-- b^t in FP32 (R242): t − 1 products in some order, each rounded once, lie within t ulp of the power; inside that the pattern is open (log
entry 23). -/
def powFp (b t : Nat) : Fp :=
  let x := Fp.of32 b
  if t = 0 then Fp.ofInt 1 else if t = 1 then x
  else
    let ref := powDyadic 64 x t
    let cand := Fp.of32 (Config.power b t)
    if !ref.finite then ref
    else if cand.finite && (within cand ref t (ulpExp ref) || within cand ref t (-149)) then cand else rne32 ref

def fsub (a b : Fp) : Fp := fadd a b.negate

/-- A layer record (Table 11.4). -/
structure LayerRec where
  lr : Fp
  b1 : Nat
  b2 : Nat
  eps : Fp
  wd : Fp
  gscale : Fp
  lrs : Nat
  emode : Bool
deriving DecidableEq, Repr

def State.layerRec (s : State) (w l : Nat) : LayerRec :=
  let b := s.peek w (s.bankNow w) (s.trnBase w + 32 * l) 32
  let x := fieldN b 28 4
  ⟨Fp.of32 (fieldN b 0 4), fieldN b 4 4, fieldN b 8 4, Fp.of32 (fieldN b 12 4), Fp.of32 (fieldN b 16 4), Fp.of32 (fieldN b 20 4), bits x 26 6, bit x 25⟩

/-- What an UPDATE computes of one parameter before any conversion (R242): g, m, √v, and the exact x. -/
structure Upd where
  g : Fp
  m : Fp
  r : Fp
  x : Fp
deriving DecidableEq, Repr

def updateEl (l : LayerRec) (momentum : Bool) (c1 c2 g0 w m0 r0 e : Fp) : Upd :=
  let b1 := Fp.of32 l.b1
  let b2 := Fp.of32 l.b2
  let one := Fp.ofInt 1
  let g := fmul l.gscale g0
  let m := fadd (fmul b1 m0) (fmul (fsub one b1) g)
  let v := fadd (fmul (fmul b2 r0) r0) (fmul (fmul (fsub one b2) g) g)
  let d := if momentum then m else fdiv (fmul m c1) (fadd (fsqrt (fmul v c2)) l.eps)
  let u := fmul l.lr (fadd d (fmul l.wd w))
  ⟨g, m, fsqrt v, (w.add e).add (u.negate.shift (-(l.lrs : Int)))⟩

/-- One conversion of a value in a plain or tensor-scaled format, decoded again. -/
def conv (f : FmtInfo) (sexp : Int) (o : OutEl) : Fp :=
  match decodeBytes f sexp (encodeUnits f sexp [[o]]).1 with
  | x :: _ => x.1
  | [] => Fp.zero

/-- The rows of outputs that an UPDATE gathers: W, M, R, E and the gather copy. -/
structure UpdOut where
  w : List OutEl
  m : List OutEl
  r : List OutEl
  e : List OutEl
  c : List OutEl
deriving DecidableEq, Repr

/-- The parameters of an UPDATE in order, with the draws W, M, R of each (R80) and the partials of R245. -/
def Run.updateEls (core : Nat) (l : LayerRec) (momentum : Bool) (c1 c2 : Fp) (fw : FmtInfo) :
    Nat → List (El × El × El × El × El) → Run → UpdOut → Run × UpdOut
  | _, [], r, o => (r, o)
  | i, (g, w, m, rr, e) :: xs, r, o =>
    let u := updateEl l momentum c1 c2 g.1 w.1 m.1 rr.1 e.1
    let p := g.2 || w.2 || m.2 || rr.2 || e.2
    let (d0, r) := r.draw core (i % 64)
    let (d1, r) := r.draw core (i % 64)
    let (d2, r) := if momentum then (0, r) else r.draw core (i % 64)
    let w' := conv fw 0 ⟨u.x, false, .sr d0⟩
    let err := w'.negate.add u.x
    let r := r.setPart 0 (ffma w' w' (r.part 0))
    let r := r.setPart 1 (ffma u.g u.g (r.part 1))
    let dw := fsub w' w.1
    let r := r.setPart 2 (ffma dw dw (r.part 2))
    Run.updateEls core l momentum c1 c2 fw (i + 1) xs r
      { w := o.w ++ [⟨u.x, p, .sr d0⟩], m := o.m ++ [⟨u.m, p, .sr d1⟩], r := o.r ++ [⟨u.r, p, .sr d2⟩], e := o.e ++ [⟨err, p, .rne⟩],
        c := o.c ++ [⟨w', p, .rne⟩] }

/-- Elements written to blocks in list order, each in its own format (Table 11.5 accepts several for a role). -/
def State.putEach (s : State) (core : Nat) (g : Bool) : List (Nat × Nat) → List OutEl → State
  | [], _ => s
  | (k, b) :: ks, els =>
    match fmtInfo (blkFmt b) with
    | some f =>
      let n := f.elems (blkSpan b)
      (s.putUnits core g f [k] (f.units [els.take n])).putEach core g ks (els.drop n)
    | none => s.putEach core g ks els

/-- Elements written to the STORE blocks of a role. -/
def State.putOut (s : State) (core : Nat) (g : Bool) (use : Nat) (els : List OutEl) : State :=
  match s.runAt core g with
  | none => s
  | some r => s.putEach core g ((r.role use 1 0).map fun k => (k, r.blks.getD k 0)) els

/-- UPDATE. -/
def State.updateFn (s : State) (core : Nat) (g : Bool) (r : Run) : State :=
  let v := Tab.cnt r.work 1
  if v ≠ 1 then s.modRun core g fun r => { r with fstat := (if v = 2 then 1 else 2) * 2 ^ 30 }
  else
    let w := r.wing
    let momentum := bit (cwArg r.cfg 0) 4
    let s := s.fetchIn w (s.trnBase w + 32 * cwLayer r.cfg) 32
    let l := s.layerRec w (cwLayer r.cfg)
    let one := Fp.ofInt 1
    let t := (Tab.find (s.job w).trn.tAfter r.step).getD (s.job w).trn.t
    let c1 := fdiv one (fsub one (powFp l.b1 t))
    let c2 := fdiv one (fsub one (powFp l.b2 t))
    let (gs, n0, s) := s.operand core g r .vec (r.role 0 0 0)
    let (ws, n1, s) := s.operand core g r .vec (r.role 2 0 0)
    let (ms, n2, s) := s.operand core g r .vec (r.role 3 0 0)
    let (rs, n3, s) := if momentum then ([], 0, s) else s.operand core g r .vec (r.role 5 0 0)
    let (es, n4, s) := if l.emode then s.operand core g r .vec (r.role 6 0 0) else ([], 0, s)
    let s := s.inputs core g (n0 + n1 + n2 + n3 + n4)
    let el (xs : List PEl) (i : Nat) : El := PEl.vec (elAt xs i)
    let n := ws.length
    let ins := (upFrom 0 n).map fun i => (el gs i, el ws i, el ms i, el rs i, el es i)
    match s.runAt core g, fmtInfo 2 with
    | some r, some fw =>
      let (r, o) := Run.updateEls core l momentum c1 c2 fw 0 ins r ⟨[], [], [], [], []⟩
      let s := s.modRun core g fun _ => { r with fstat := min n (2 ^ 30 - 1) }
      let s := s.charge (some w) Acf.vecOps (20 * n)
      let s := (s.putOut core g 2 o.w).putOut core g 3 o.m
      let s := if momentum then s else s.putOut core g 5 o.r
      let s := if l.emode then s.putOut core g 6 o.e else s
      s.putOut core g 1 o.c
    | _, _ => s

/-! ## LOSS, VOTE, VERDICT, ADVANCE (Table 11.3) -/

/-- Number in `work` of the partial of LOSS. -/
def lossKey : Nat := 21

/-- LOSS: the values of the DATA blocks, in block order and element order. -/
def State.lossFn (s : State) (core : Nat) (g : Bool) (r : Run) : State :=
  let (xs, n, s) := s.operand core g r .vec (r.role 6 0 0)
  let s := (s.inputs core g n).charge (some r.wing) Acf.vecOps xs.length
  s.modRun core g fun r => { r with work := Tab.set r.work lossKey (xs.foldl (fun a x => fadd a (PEl.vec x).1) Fp.zero).bits32 }

/-- VOTE and VERDICT: each DATA block's record is kept in `work` from 64 on, eight numbers each: poisoned, then its six fields; the number
of records under 40. -/
def State.recordsFn (s : State) (core : Nat) (g : Bool) (r : Run) : State :=
  let ks := r.role 6 0 0
  let s := s.modRun core g fun r => { r with work := Tab.set r.work 40 ks.length }
  ((upFrom 0 ks.length).zip ks).foldl (fun s (x : Nat × Nat) =>
    let (b, s) := s.fnRead core g (s.halfBase core g 1 + blkLoff (r.blks.getD x.2 0)) 64
    let d := b.map (·.1)
    let p := b.any (·.2)
    let s := s.inputs core g (b2n p)
    let vals := [b2n p, fieldN d 0 4, fieldN d 4 1, fieldN d 8 4, fieldN d 12 4, fieldN d 16 4, fieldN d 20 4]
    s.modRun core g fun r => { r with work := ((upFrom 0 7).zip vals).foldl (fun (t : Tab Nat) y => Tab.set t (64 + 8 * x.1 + y.1) y.2) r.work }) s

/-- The records that a run kept. -/
def Run.records (r : Run) : List (Option (List Nat)) :=
  (upFrom 0 (Tab.cnt r.work 40)).map fun i =>
    if Tab.cnt r.work (64 + 8 * i) = 1 then none else some ((upFrom 1 6).map fun j => Tab.cnt r.work (64 + 8 * i + j))

/-! ## Votes and verdicts at 4k (R246 to R248, R250) -/

/-- A combined record: FLAGS, LOSS, VOTES, NFC, PZC; LOSS none while nothing is added. -/
structure Comb where
  flags : Nat
  loss : Option Fp
  votes : Nat
  nfc : Nat
  pzc : Nat
deriving DecidableEq, Repr

/-- One record read (R247): bits 3 and 4 are ignored; another step's or a poisoned one contributes only STALE. -/
def Comb.read (step : Nat) (c : Comb) (r : Option (List Nat)) : Comb :=
  match r with
  | some [st, fl, loss, votes, nfc, pzc] =>
    if st ≠ step then { c with flags := c.flags ||| 64 }
    else
      { flags := c.flags ||| (fl &&& 0xE7)
        loss := some (match c.loss with | some a => fadd a (Fp.of32 loss) | none => Fp.of32 loss)
        votes := sat 32 (c.votes + votes), nfc := sat 32 (c.nfc + nfc), pzc := sat 32 (c.pzc + pzc) }
  | _ => { c with flags := c.flags ||| 64 }

/-- A field of every record of a bank, by layer. -/
def State.bankField (s : State) (w b off : Nat) : List Nat :=
  let bs := s.peek w (s.bankNow w) (s.normAddr w b 0) 0x20000
  (upFrom 0 4096).map fun l => fieldN (bs.drop (32 * l)) off 4

/-- The module's local vote of a step (R246). -/
def State.localVote (s : State) (w step : Nat) : Comb :=
  let b := step % 2
  let nfc := (s.bankField w b 20).foldl (fun a x => sat 32 (a + x)) 0
  let pzc := (s.bankField w b 24).foldl (fun a x => sat 32 (a + x)) 0
  let loss := (s.bankField w b 28).foldl (fun (a : Option Fp) x => some (match a with | some y => fadd y (Fp.of32 x) | none => Fp.of32 x)) none
  ⟨b2n (nfc ≠ 0) + b2n (pzc ≠ 0) * 2 + (Tab.cnt (s.job w).trn.flags step &&& 0xA4), loss, 1, nfc, pzc⟩

/-- A vote falls due: its record is written. -/
def State.voteWrite (s : State) (w : Nat) (v : VoteDue) : State :=
  if !s.trnOk w then s else
  let c := v.recs.foldl (fun (c : Comb) r => c.read v.step r) (s.localVote w v.step)
  let body := leBytes 4 v.step ++ leBytes 4 c.flags ++ leBytes 4 (c.loss.getD Fp.zero).bits32 ++ leBytes 4 c.votes ++ leBytes 4 c.nfc
    ++ leBytes 4 c.pzc ++ leBytes 40 0
  ((s.fetchIn w (s.normAddr w (v.step % 2) 0) 0x20000).tabWrite w (s.voteAddr w v.step) body).modTrn w fun x => { x with voted := if x.voted.contains v.step then x.voted else x.voted ++ [v.step] }

/-- K of WNG_TRN_LW as it acts: a negative or non-finite value acts as +∞. -/
def lwK (v : Nat) : Fp := let k := bits v 0 32; if k ≥ 0x7F800000 ∧ k ≠ 0x80000000 then Fp.inf false else Fp.of32 k

/-- α as it acts: a value outside [0, 1] acts as 0. -/
def lwAlpha (v : Nat) : Fp := let a := bits v 32 32; if a ≤ 0x3F800000 then Fp.of32 a else Fp.zero

/-- The loss watch takes a loss (R250). -/
def State.lossWatch (s : State) (w : Nat) (loss : Fp) : State :=
  let x := (s.job w).trn
  if !x.seen then s.modTrn w fun x => { x with seen := true, mean := loss.bits32, var := 0 }
  else
    let a := lwAlpha (s.we w Reg.wngTrnLw)
    let mean := Fp.of32 x.mean
    let d := fsub loss mean
    let var := fmul (fsub (Fp.ofInt 1) a) (fadd (Fp.of32 x.var) (fmul a (fmul d d)))
    s.modTrn w fun x => { x with mean := (fadd mean (fmul a d)).bits32, var := var.bits32 }

/-- A verdict is formed from reasons; the first of a step stands (R248). -/
def State.verdictForm (s : State) (w step reasons : Nat) (loss : Option Fp) (lone : Bool) : State :=
  let x := (s.job w).trn
  if (Tab.find x.verdicts step).isSome then s
  else
    let apply := reasons = 0
    let t := if apply then (x.t + 1) % 2 ^ 32 else x.t
    let s := s.modTrn w fun x => { x with
      verdicts := Tab.set x.verdicts step (b2n apply), t := t, tAfter := Tab.set x.tAfter step t, reasons := reasons
      lastSkip := !apply, lone := x.lone || lone }
    let s := match loss with
      | some l => if apply then s.lossWatch w l else s
      | none => s
    if !apply || (lone && !x.lone) then s.trnIrq w else s

/-- A verdict falls due (R248). -/
def State.judge (s : State) (w : Nat) (v : VoteDue) : State :=
  let a := s.voteAddr w v.step
  let (bs, s) := if v.own && s.trnOk w then s.read (s.reqOf w) a 64 else ([], s)
  let own : Option (List Nat) :=
    let b := bs.map (·.1)
    if bs.isEmpty || bs.any (·.2) then none else some [fieldN b 0 4, fieldN b 4 1, fieldN b 8 4, fieldN b 12 4, fieldN b 16 4, fieldN b 20 4]
  let recs := if v.own then [own] else v.recs
  let c := recs.foldl (fun (c : Comb) r => c.read v.step r) ⟨0, none, 0, 0, 0⟩
  let x := (s.job w).trn
  let ctrl := s.we w Reg.wngTrnCtrl
  let loss := c.loss.getD Fp.zero
  let lossv := bit c.flags 7
  let bound := fmul (lwK (s.we w Reg.wngTrnLw)) (fsqrt (Fp.of32 x.var))
  let spike : Bool := bit ctrl 2 && lossv && x.seen && decide (x.t ≥ bits ctrl 16 16) && bound.lt (fsub loss (Fp.of32 x.mean))
  let reasons := (c.flags &&& 0x67) ||| (b2n (lossv && !loss.finite) * 8) ||| (b2n spike * 16)
  s.verdictForm w v.step reasons (if lossv then some loss else none) false

/-- VERDICT entries of the tread that ended which are not DONE, or still run, by core with the step latched (R248). -/
def State.failedVerdicts (s : State) (w t : Nat) : List (Nat × Nat) :=
  let late (core : Nat) (r : Option Run) : List (Nat × Nat) := match r with
    | some y => if y.wing = w && y.tread = t && isOptim 2 y.cfg then [(core, y.step)] else []
    | none => []
  ((s.ended.filter fun e => e.wing = w && e.tread = t && isOptim 2 e.cw && (e.status ≠ 0 || e.late)).map fun e => (e.core, e.step))
    ++ s.cores.flatMap fun x => late x.1 x.2.home ++ late x.1 x.2.guest

/-- ENTRY and LOSSV of Table 11.8 arise as an entry ends. -/
def State.endFlags (s : State) (e : Ended) : State :=
  let s := if [1, 2, 5, 6].contains e.status then s.trnFlag e.wing e.step 2 else s
  if e.status = 0 && isOptim 3 e.cw then s.trnFlag e.wing e.step 7 else s

/-- 4k for a wing (R231); `t` is the tread that ended. The flags of entries that ended stand before a record is written. -/
def State.voteAction (s : State) (w t : Nat) : State :=
  let s := (s.ended.filter fun e => e.wing = w).foldl (fun s e => s.endFlags e) s
  let x := (s.job w).trn
  let due (l : List VoteDue) : List VoteDue := sortBy (fun v => v.core) (l.filter fun v => treadReached v.due s.tread)
  let keep (l : List VoteDue) : List VoteDue := l.filter fun v => !treadReached v.due s.tread
  let s := (due x.votes).foldl (fun s v => s.voteWrite w v) s
  let bad := (s.failedVerdicts w t).map fun y => (y.1, (none : Option VoteDue), y.2)
  let good := (due x.judges).map fun v => (v.core, some v, v.step)
  let s := (sortBy (fun (y : Nat × Option VoteDue × Nat) => y.1) (good ++ bad)).foldl (fun s y =>
    match y.2.1 with
    | some v => s.judge w v
    | none => s.verdictForm w y.2.2 4 none true) s
  s.modTrn w fun x => { x with votes := keep x.votes, judges := keep x.judges }

/-! ## WNG_STEP at 4l (R231, R245, R253) -/

/-- ADVANCE entries that ended are counted before 4j, so that the flip sees the step that falls due. -/
def State.countAdvance (s : State) (w : Nat) : State :=
  let n := (s.ended.filter fun e => e.wing = w && e.status = 0 && isOptim 4 e.cw).length
  if n = 0 then s else s.modTrn w fun x => { x with advance := x.advance + n }

/-- 4l. `held`: the change waits for a pending flip (R219). -/
def State.stepAction (s : State) (w : Nat) (held : Bool) : State :=
  if held then s else
  match s.stepNext w with
  | none => s.modTrn w fun x => { x with advance := 0, stepW := false }
  | some n =>
    let s := s.modJob w fun j => { j with wr := Tab.set j.wr Reg.wngStep n, we := Tab.set j.we Reg.wngStep n }
    let s := s.stashStep w
    let s := if s.trnOk w then s.tabWrite w (s.normAddr w (n % 2) 0) (List.replicate 0x20000 0) else s
    s.modTrn w fun x => { x with
      advance := 0, stepW := false, late := false, lone := false, verdicts := Tab.erase x.verdicts n, tAfter := Tab.erase x.tAfter n, flags := Tab.erase x.flags n
      voted := x.voted.filter (· ≠ n) }

/-! ## The norm merge (R245) -/

/-- FP32 addition into a field of memory. -/
def State.addField (s : State) (w a v : Nat) : State :=
  (s.fetchIn w a 4).tabWrite w a (leBytes 4 (fadd (Fp.of32 (s.peekN w a 4)) (Fp.of32 v)).bits32)

/-- Saturating addition into a 32-bit field of memory. -/
def State.satField (s : State) (w a n : Nat) : State :=
  if n = 0 then s else (s.fetchIn w a 4).tabWrite w a (leBytes 4 (sat 32 (s.peekN w a 4 + n)))

/-- One ended entry's contributions. -/
def State.mergeOne (s : State) (e : Ended) : State :=
  let w := e.wing
  let now := s.we w Reg.wngStep
  let s := s.endFlags e
  match e.run with
  | none => s
  | some r =>
    let accs := (upFrom 0 5).filterMap fun k => (Tab.find r.work (partKey k)).map fun v => (k, v)
    let loss := Tab.find r.work lossKey
    if (accs.isEmpty && loss.isNone && r.nfCount = 0 && r.pznBlocks = 0) then s
    else if e.step ≠ now && (e.step + 1) % 2 ^ 32 ≠ now then s.trnLate w
    else if !s.trnOk w then s
    else
      let a := s.normAddr w (e.step % 2) (cwLayer r.cfg)
      let voted : Bool := (s.job w).trn.voted.contains e.step
      let was (off : Nat) : Bool := (s.bankField w (e.step % 2) off).any (· ≠ 0)
      let s := if voted && (r.nfCount ≠ 0 || r.pznBlocks ≠ 0) then s.fetchIn w (s.normAddr w (e.step % 2) 0) 0x20000 else s
      let arises : Bool := voted && ((r.nfCount ≠ 0 && !was 20) || (r.pznBlocks ≠ 0 && !was 24))
      let s := accs.foldl (fun s x => s.addField w (a + 4 * x.1) x.2) s
      let s := (s.satField w (a + 20) r.nfCount).satField w (a + 24) r.pznBlocks
      let s := match loss with | some v => s.addField w (a + 28) v | none => s
      if arises then s.trnLate w else s

/-- What the entries that ended in the tread just over bring: norm banks in ascending core order, votes and verdicts to come. -/
def State.mergeAll (s : State) : State :=
  (sortBy (fun (e : Ended) => e.core) s.ended).foldl (fun s e =>
    let s := s.mergeOne e
    match e.run with
    | some r =>
      let v : VoteDue := ⟨e.core, e.step, treadAdd s.tread 1, Tab.cnt r.work 40 = 0, r.records⟩
      if e.status = 0 && isOptim 1 e.cw then s.modTrn e.wing fun x => { x with votes := x.votes ++ [v] }
      else if e.status = 0 && !e.late && isOptim 2 e.cw then s.modTrn e.wing fun x => { x with judges := x.judges ++ [v] }
      else s
    | none => s) s

/-- What a merge has taken from ended entries. -/
def Ended.merged (e : Ended) : Ended := { e with run := e.run.map fun (r : Run) => { r with work := [], nfCount := 0, pznBlocks := 0 } }

/-- TRN_FORCE: a write of 1 to FORCE marks the current step at the next boundary (R253). -/
def State.opForce (s : State) (w value : Nat) : State := if bit value 1 then s.modTrn w fun x => { x with force := true } else s

/-- FORCE written in the tread that ended takes effect. -/
def State.takeForce (s : State) (w : Nat) : State :=
  if (s.job w).trn.force then (s.modTrn w fun x => { x with force := false }).trnFlag w (s.we w Reg.wngStep) 5 else s

end Sys2Proof.Machine
end

