-- ==== Sys2Proof/Machine/Turn.lean ====
section
/-!
DEFINITION. Layout tables and the receive path of delta records (spec/13_turn.md R279 to R284, R290 to R292).
-/
namespace Sys2Proof.Machine

def State.modTurn (s : State) (w : Nat) (f : Turn → Turn) : State := s.modJob w fun j => { j with turn := f j.turn }

/-! ## Layout tables (R281, R282) -/

/-- A layout entry (Table 13.2). -/
structure LayEnt where
  rsv : Bool
  role : Nat
  fmt : Nat
  pstart : Nat
  gaddr : Nat
  pcount : Nat
  wing : Nat
  naddr : Nat
deriving DecidableEq, Repr

def layDec (b : List Byte) : LayEnt :=
  let x := fieldN b 0 8
  let y := fieldN b 20 4
  ⟨bits x 52 12 ≠ 0 || bits y 5 27 ≠ 0, bits x 50 2, bits x 45 5, bits x 0 45, fieldN b 8 8, fieldN b 16 4, bits y 0 5, fieldN b 24 8⟩

/-- Bytes per 256 parameters of a generation format (Table 13.3); 0 for any other. -/
def genG (fmt : Nat) : Nat :=
  if fmt = 2 then 512 else if fmtBlock fmt then (match fmtInfo fmt with | some f => f.group | none => 0) else 0

/-- LB and NB of a range, and the length of a block. -/
def LayEnt.lb (c : LayEnt) : Nat := c.pcount / 256 * genG c.fmt
def LayEnt.nb (c : LayEnt) : Nat := (c.lb + 4095) / 4096
def LayEnt.blen (c : LayEnt) (b : Nat) : Nat := min 4096 (c.lb - 4096 * b)

/-- The local part of GADDR and NADDR. -/
def LayEnt.loc (c : LayEnt) : Nat := c.gaddr % 2 ^ 47
def LayEnt.nloc (c : LayEnt) : Nat := c.naddr % 2 ^ 47

/-- A global address names this module (R26). -/
def State.namesMe (s : State) (g : Nat) : Bool := g / 2 ^ 47 = s.me || g / 2 ^ 47 = 0x1FFFF

/-- An entry names this module and wing. -/
def State.layMine (s : State) (w : Nat) (c : LayEnt) : Bool := s.namesMe c.gaddr && c.wing = w

/-- The entries of a table at `base`. -/
def State.layEnts (s : State) (w base n : Nat) : List LayEnt :=
  (upFrom 0 n).map fun i => layDec (s.peek w (s.bankNow w) (base + 64 + 32 * i) 32)

/-- The entries of the wing's pending table; none when it holds none. -/
def State.pendEnts (s : State) (w : Nat) : List LayEnt := match (s.job w).turn.pend with | some (b, n) => s.layEnts w b n | none => []

def State.curEnts (s : State) (w : Nat) : List LayEnt := match (s.job w).turn.cur with | some (b, n) => s.layEnts w b n | none => []

/-- The containing REF of a COPY entry (R283). -/
def refOf (es : List LayEnt) (c : LayEnt) : Option LayEnt :=
  es.find? fun r => r.role = 1 && r.fmt = c.fmt && r.pstart ≤ c.pstart && c.pstart + c.pcount ≤ r.pstart + r.pcount

/-- A COPY entry is kept (R284). -/
def keptEnt (cur new : List LayEnt) (c : LayEnt) : Bool :=
  cur.any fun d => d.role = 2 && d.pstart = c.pstart && d.pcount = c.pcount && d.fmt = c.fmt && d.gaddr = c.gaddr && d.wing = c.wing &&
    (match refOf cur d, refOf new c with
    | some x, some y => x = y
    | _, _ => false)

/-- Offset of block `b` of a COPY entry within its REF (R287). -/
def refOff (r c : LayEnt) (b : Nat) : Nat := (c.pstart - r.pstart) / 256 * genG c.fmt + 4096 * b

/-- The COPY entries of a table that name this module and wing, with their numbers and where their blocks begin in the turn map (R291). -/
def State.myCopies (s : State) (w : Nat) (es : List LayEnt) : List (Nat × LayEnt × Nat) :=
  (((upFrom 0 es.length).zip es).foldl (fun (a : List (Nat × LayEnt × Nat) × Nat) x =>
    if x.2.role = 2 && s.layMine w x.2 then (a.1 ++ [(x.1, x.2, a.2)], a.2 + x.2.nb) else a) ([], 0)).1

/-- EXPECT of a table. -/
def State.expectOf (s : State) (w : Nat) (es : List LayEnt) : Nat := (s.myCopies w es).foldl (fun a x => a + x.2.1.nb) 0

/-- Starts of the weight banks. -/
def State.bank0 (s : State) (w : Nat) : Nat := bits (s.wr w Reg.wngWbank) 32 27 * 1048576
def State.bank1 (s : State) (w : Nat) : Nat := bits (s.wr w (Reg.wngWbank + 8)) 32 27 * 1048576

/-- The address in the other bank of one in bank 0. -/
def State.otherBank (s : State) (w a : Nat) : Nat := a + s.bank1 w - s.bank0 w

/-! ## LAYOUT_LOAD (R280, R283) -/

/-- Entry `i` fails a check of R283, given the entries before it. -/
def State.layBad (s : State) (w params : Nat) (es : List LayEnt) (i : Nat) (c : LayEnt) : Bool :=
  let v := s.bankSize w * 1048576
  let b0 := s.bank0 w
  let inBank := v ≠ 0 && b0 ≤ c.loc && c.loc + c.lb ≤ b0 + v
  c.rsv || c.role = 3 || (c.role ≠ 0 && (genG c.fmt = 0 || c.pstart % 256 ≠ 0 || c.pcount < 256 || c.pcount % 256 ≠ 0 || c.pstart + c.pcount > params))
    || (c.role = 1 && ((es.take i).any (fun d => d.role = 1 && overlaps d.pstart d.pcount c.pstart c.pcount) || c.naddr / 2 ^ 47 ≠ c.gaddr / 2 ^ 47))
    || (c.role = 2 && (refOf es c).isNone)
    || (c.role = 2 && s.layMine w c && (!inBank || (es.take i).any fun d => d.role = 2 && s.layMine w d && overlaps d.loc d.lb c.loc c.lb))
    || (c.role = 1 && s.layMine w c && (!inBank || c.nloc ≠ s.otherBank w c.loc))

/-- The first failing entry of a table; 0xFFFF for the header. -/
def State.layFail (s : State) (w base n : Nat) : Option Nat :=
  let h := s.peek w (s.bankNow w) base 64
  if bits (fieldN h 4 4) 17 15 ≠ 0 || n = 0 || bits (fieldN h 16 8) 45 19 ≠ 0 || fieldN h 24 40 ≠ 0 then some 0xFFFF
  else
    let es := s.layEnts w base n
    (((upFrom 0 es.length).zip es).find? fun x => s.layBad w (fieldN h 16 8) es x.1 x.2).map (·.1)

def State.turnMap (s : State) (w : Nat) : Nat := addrOf (s.wr w Reg.wngTurnMap) 6

/-- Bytes of the turn map. -/
def mapBytes (expect : Nat) : Nat := (expect + 511) / 512 * 64

/-- The turn map is zeroed. -/
def State.mapClear (s : State) (w : Nat) : State :=
  let n := mapBytes (s.job w).turn.expect
  if n = 0 || !s.mappedIn w (s.bankNow w) [1] (s.turnMap w) n then s else s.tabWrite w (s.turnMap w) (List.replicate n 0)

def spcLayoutLoad : CmdSpec := ⟨0x400, true, true, false, [0x7FFFFFFFFFC0]⟩

/-- LAYOUT_LOAD. -/
def State.cmdLayoutLoad (s : State) (c : Cmd) : State :=
  let w := c.wing
  let b := c.arg 0
  let tr := (s.job w).turn
  if tr.pend.isSome then s.complete c St.layoutPending 0 []
  else if !s.mappedIn w (s.bankNow w) [1] b 64 then s.complete c St.badArg 0 []
  else
    let n := bits (s.peekN w (b + 4) 4) 0 17
    let s := (s.fetchIn w b 64).fetchIn w (b + 64) (32 * n)
    if s.peekN w b 4 ≠ (tr.lep + 1) % 2 ^ 32 then s.complete c St.badEpoch 0 []
    else if !s.mappedIn w (s.bankNow w) [1] b (64 + 32 * n) then s.complete c St.badArg 0 []
    else
      let ex := s.expectOf w (s.layEnts w b n)
      if ex ≠ 0 && !s.mappedIn w (s.bankNow w) [1] (s.turnMap w) (mapBytes ex) then s.complete c St.badArg 0 []
      else match s.layFail w b n with
        | some i => s.complete c St.badLayout (i % 65536) []
        | none =>
          let s := s.modTurn w fun t => { t with
            pend := some (b, n), expect := ex % 2 ^ 32, landed := 0, failed := [], dup := 0, stale := 0, pzn := 0, rawreq := 0, raws := [], checks := [] }
          (s.mapClear w).complete c St.ok 0 [ex % 2 ^ 32]

/-! ## Blocks and the turn map (R290, R291) -/

def State.turnBit (s : State) (w i : Nat) : Bool := bit (s.peekN w (s.turnMap w + i / 8) 1) (i % 8)

/-- The port logic may write a block’s new bytes: their place lies in the wing’s HBM window and is not read-only to it (R171, R339). -/
def State.blockOk (s : State) (w : Nat) (c : LayEnt) (b : Nat) : Bool :=
  let a := s.otherBank w (c.loc + 4096 * b)
  s.mappedIn w (s.bankNow w) [1] a (c.blen b) && !s.barred w a (c.blen b)

/-- A block lands: its new bytes are written in the other bank, its bit is set. One whose write is refused is dropped and counted in STALE (Table
15.1, log entry 83). -/
def State.blockLand (s : State) (w idx : Nat) (c : LayEnt) (b : Nat) (new : List Byte) : State :=
  let a := s.otherBank w (c.loc + 4096 * b)
  if !s.blockOk w c b then (s.refuse w a false).modTurn w fun t => { t with stale := sat 16 (t.stale + 1) } else
  let s := (s.write (s.reqOf w) a (clean new)).fetchIn w (s.turnMap w + idx / 8) 1
  let s := s.tabWrite w (s.turnMap w + idx / 8) (leBytes 1 (s.peekN w (s.turnMap w + idx / 8) 1 ||| 2 ^ (idx % 8)))
  s.modTurn w fun t => { t with
    landed := (t.landed + 1) % 2 ^ 32, raws := t.raws.filter fun x => x.idx ≠ idx, failed := t.failed.filter (· ≠ idx), checks := Tab.erase t.checks idx }

/-- A block is to be requested raw: in map order, once; a failed block is requested no more. The first CHECK received for it is kept until it lands
(R292). -/
def State.wantRaw (s : State) (w idx entry block : Nat) (check : Option Nat) : State :=
  s.modTurn w fun t =>
    let t := match check with
      | some c => { t with checks := if (Tab.find t.checks idx).isSome then t.checks else Tab.set t.checks idx c }
      | none => t
    if t.failed.contains idx || t.raws.any fun x => x.idx = idx then t
    else { t with raws := insertBy (fun x => x.idx) ⟨idx, entry, block, 0, false⟩ t.raws }

/-- The first 8 bytes of SHAKE256 over bytes, in output order (R288). -/
def shakeCheck (bs : List Byte) : Nat := leNat (shake256 8 bs)

/-- The new bytes of a MAP record: the map, then the nonzero bytes of the delta (R288). -/
def applyMap (map : List Byte) : Nat → List Byte → List Byte → List Byte
  | _, [], _ => []
  | i, o :: os, body =>
    if bit (map.getD (i / 8) 0).toNat (i % 8) then (o ^^^ body.headD 0) :: applyMap map (i + 1) os (body.drop 1)
    else o :: applyMap map (i + 1) os body

/-- The old bytes of a block; none when they read poisoned. -/
def State.oldBlock (s : State) (w : Nat) (c : LayEnt) (b : Nat) : Option (List Byte) × State :=
  let (o, s) := s.read (s.reqOf w) (c.loc + 4096 * b) (c.blen b)
  (if o.any (·.2) then none else some (o.map (·.1)), s)

/-- Arrival of a delta record (Table 13.5). -/
def State.deltaIn (s : State) (r : RecIn) : State :=
  let w := r.dwing
  let tr := (s.job w).turn
  let h := fieldN r.bytes 16 4
  let coding := bits h 22 2
  let entry := bits h 0 17
  let b0 := fieldN r.bytes 20 4
  let check := fieldN r.bytes 24 8
  let run := if coding = 2 then check % 65536 else 1
  let stale (s : State) : State := s.modTurn w fun t => { t with stale := sat 16 (t.stale + 1) }
  match tr.pend with
  | none => stale s
  | some (base, n) =>
    let s := (s.fetchIn w (base + 64 + 32 * entry) 32).fetchIn w (base + 8) 8
    let es := s.layEnts w base n
    match (s.myCopies w es).find? fun x => x.1 = entry with
    | none => stale s
    | some (_, c, off) =>
      if coding = 3 || fieldN r.bytes 0 4 ≠ (tr.lep + 1) % 2 ^ 32 || fieldN r.bytes 8 8 ≠ s.peekN w (base + 8) 8 || b0 + run - 1 ≥ c.nb then stale s
      else
        let s := s.fetchIn w (s.turnMap w + (off + b0) / 8) ((off + b0 + run - 1) / 8 - (off + b0) / 8 + 1)
        let todo := (upFrom b0 run).filter fun b => !s.turnBit w (off + b)
        let body := r.bytes.drop 32
        let keep : Option Nat := if coding = 2 then none else some check
        let ask (s : State) (k : Option Nat) : State := todo.foldl (fun s b => s.wantRaw w (off + b) entry b k) s
        if todo.isEmpty then s.modTurn w fun t => { t with dup := sat 16 (t.dup + 1) }
        else if r.pzn then ask (s.modTurn w fun t => { t with pzn := sat 16 (t.pzn + 1) }) none
        else if coding ≠ 1 && fieldN r.bytes 4 4 ≠ tr.lep then ask s keep
        else if coding = 1 then
          let new := sliceB body 0 (c.blen b0)
          if shakeCheck new = check then s.blockLand w (off + b0) c b0 new else ask s keep
        else todo.foldl (fun s b =>
          match s.oldBlock w c b with
          | (none, s) => s.wantRaw w (off + b) entry b keep
          | (some old, s) =>
            if coding = 2 then s.blockLand w (off + b) c b old
            else
              let new := applyMap (sliceB body 0 64) 0 old (body.drop 64)
              if shakeCheck new = check then s.blockLand w (off + b) c b new else s.wantRaw w (off + b) entry b keep) s

/-! ## Raw requests (R291, R292) -/

/-- Owner number of the requests of a raw block. -/
def rawOwn (w idx : Nat) : Nat := 2 ^ 50 + w * 2 ^ 42 + idx

/-- The owner's side: NEW while its pending epoch is the one asked for, REF once it is current, poison otherwise; none when refused. A wing with no
layout in force, as after its reset (R298), has no current epoch to serve. -/
def State.rawServe (s : State) (w addr n epoch : Nat) : Option (List PByte) × State :=
  let tr := (s.job w).turn
  if !s.mappedIn w (s.bankNow w) [1, 2] addr n then (none, s.refuse w addr false)
  else if tr.pend.isSome && epoch = (tr.lep + 1) % 2 ^ 32 then
    let a := s.otherBank w addr
    if s.mappedIn w (s.bankNow w) [1, 2] a n then
      let (d, s) := s.read (s.reqOf w) a n
      (some d, s)
    else (none, s.refuse w a false)
  else if tr.cur.isSome && epoch = tr.lep then
    let (d, s) := s.read (s.reqOf w) addr n
    (some d, s)
  else (some (List.replicate n (0, true)), s)

/-- RAWREQ. -/
def State.opRawreq (s : State) (p : Nat) (f : Frame) (clk : Nat) : State :=
  s.reqRow p f clk 8 fun s =>
    match s.rawServe f.dwing f.addr f.rlen f.epoch with
    | (some d, s) => s.respond p f 0 d
    | (none, s) => s.respond p f 1 []

/-- A raw result: the block lands, or the attempt failed (R292). -/
def State.rawResult (s : State) (w idx : Nat) (data : List PByte) (fault : Bool) : State :=
  match (s.job w).turn.raws.find? fun x => x.idx = idx && x.out with
  | none => s
  | some x =>
    match (s.myCopies w (s.pendEnts w)).find? fun y => y.1 = x.entry with
    | none => s
    | some (_, c, _) =>
      let new := data.map (·.1)
      let ok : Bool := !fault && !data.any (·.2) && (match Tab.find (s.job w).turn.checks idx with | some k => shakeCheck new = k | none => true)
      if ok && s.blockOk w c x.block then s.blockLand w idx c x.block new else
      let s := if ok then s.refuse w (s.otherBank w (c.loc + 4096 * x.block)) false else s
      if x.tries + 1 ≥ 4 then
        s.modTurn w fun t => { t with raws := t.raws.filter fun y => y.idx ≠ idx, failed := t.failed ++ [idx] }
      else s.modTurn w fun t => { t with
        raws := t.raws.map fun y => if y.idx = idx then { y with tries := y.tries + 1, out := false } else y }

/-- Raw requests whose answers are all there give their results. -/
def State.rawSettle (s : State) : State :=
  let owns := ((s.fab.reqs.filter fun x => 2 ^ 50 ≤ x.own && x.own < orphan).map (·.own)).eraseDups
  (owns.filter s.reqsDone).foldl (fun s own =>
    let (rs, s) := s.takeReqs own
    s.rawResult ((own - 2 ^ 50) / 2 ^ 42) ((own - 2 ^ 50) % 2 ^ 42) (rs.flatMap (·.data)) (rs.any (·.fault))) s

/-- Raw requests of the wing that are not answered. -/
def State.rawOut (s : State) (w : Nat) : Nat :=
  ((s.fab.reqs.filter fun x => x.own / 2 ^ 42 = 2 ^ 8 + w && !x.done).map (·.own)).eraseDups.length

/-- The table that raw requests of a wing belong to is gone: their answers are discarded. -/
def State.orphanRaws (s : State) (w : Nat) : State :=
  { s with fab := { s.fab with reqs := (s.fab.reqs.filter fun x => !(x.own / 2 ^ 42 = 2 ^ 8 + w && x.done)).map fun x =>
      if x.own / 2 ^ 42 = 2 ^ 8 + w then { x with own := orphan } else x } }

/-- RAW_REQUEST_ISSUE: the first waiting block in map order, when fewer than 64 are out. A REF whose GADDR names no module is refused (R26),
which is a failed attempt. -/
def State.opRawIssue (s : State) (w : Nat) : State :=
  let tr := (s.job w).turn
  match tr.raws.find? fun x => !x.out with
  | none => s
  | some x =>
    let es := s.pendEnts w
    match es[x.entry]?, s.rawOut w < 64 && !(s.wing w).quiet with
    | some c, true =>
      match refOf es c with
      | none => s
      | some r =>
        let s := match tr.pend with | some (base, _) => s.fetchIn w (base + 64 + 32 * x.entry) 32 | none => s
        let s := s.modTurn w fun t => { t with
          rawreq := (t.rawreq + 1) % 2 ^ 32, raws := t.raws.map fun y => if y.idx = x.idx then { y with out := true } else y }
        let a := r.loc + refOff r c x.block
        let n := c.blen x.block
        let ep := (tr.lep + 1) % 2 ^ 32
        if !s.namesMe r.gaddr && s.hallCount ≤ r.gaddr / 2 ^ 47 then (s.refuse w a true).rawResult w x.idx [] true
        else if s.namesMe r.gaddr then
          match s.rawServe r.wing a n ep with
          | (some d, s) => s.rawResult w x.idx d false
          | (none, s) => s.rawResult w x.idx [] true
        else
          (s.remote w r.wing 2047 (rawOwn w x.idx) 0 (r.gaddr / 2 ^ 47) a n (bits (s.we w Reg.wngTurnCtrl) 0 3) 8 ep none).rawSettle
    | _, _ => s

/-- LANDING_TREAD_SWEEP (R292): every block neither landed, failed nor requested. -/
def State.opSweep (s : State) (w : Nat) : State :=
  match (s.job w).turn.land with
  | some l =>
    if l.t ≠ s.tread then s
    else
      (s.myCopies w (s.pendEnts w)).foldl (fun s x =>
        (upFrom 0 x.2.1.nb).foldl (fun s b => if s.turnBit w (x.2.2 + b) then s else s.wantRaw w (x.2.2 + b) x.1 b none) s)
        ((s.at_ 32).fetchIn w (s.turnMap w) (mapBytes (s.job w).turn.expect))
  | none => s

end Sys2Proof.Machine
end

