-- ==== Sys2Proof/Machine/Exchange.lean ====
section
/-!
DEFINITION. The collective exchange (spec/12_exchange.md): the exchange table, ROUTE and REDUCE functions, arrival of records, rings and the
closing of rounds at 4m.
-/
namespace Sys2Proof.Machine

def State.modXch (s : State) (w : Nat) (f : Exchange → Exchange) : State := s.modJob w fun j => { j with xch := f j.xch }

/-! ## The exchange table (R254, Tables 12.1 and 12.2) -/

def State.xchCount (s : State) (w : Nat) : Nat := min (bits (s.wr w Reg.wngXch) 51 13) 4096
def State.xchAddr (s : State) (w x : Nat) : Nat := addrOf (s.wr w Reg.wngXch) 8 + 256 * x

/-- The fields of an entry that the rules use. -/
structure XchEnt where
  kind : Nat
  carry : Bool
  fmt : Nat
  dl : Nat
  cmode : Nat
  ktop : Nat
  nsrc : Nat
  q : Nat
  d1 : Nat
  d0 : Nat
  lg : Nat
  a0 : Nat
  a1 : Nat
  a2 : Nat
  state : Nat
  round : Nat
  step : Nat
  lep : Nat
  deadline : Nat
deriving DecidableEq, Repr

def xchDec (b : List Byte) : XchEnt :=
  let w0 := fieldN b 0 4
  let w4 := fieldN b 4 4
  let w8 := fieldN b 8 4
  let s0 := fieldN b 64 4
  { kind := bits w0 30 2, carry := bit w0 29, fmt := bits w0 24 5, dl := bits w0 12 12, cmode := bits w0 10 2, ktop := bits w0 4 6
    nsrc := bits w4 16 16, q := bits w4 0 16, d1 := bits w8 16 16, d0 := bits w8 0 16, lg := bits (fieldN b 12 4) 0 4
    a0 := fieldN b 16 8 % 2 ^ 47, a1 := fieldN b 24 8 % 2 ^ 47, a2 := fieldN b 32 8 % 2 ^ 47
    state := bits s0 30 2, round := bits s0 0 16, step := fieldN b 68 4, lep := fieldN b 72 4, deadline := fieldN b 80 8 % treadMod }

/-- The entry of an XID with one of the given kinds; none when it is at or above COUNT, of another kind, or when the table does not lie in the
wing's HBM window. -/
def State.xchEnt (s : State) (w x kind : Nat) : Option XchEnt :=
  if x < s.xchCount w && s.mappedIn w (s.bankNow w) [1] (s.xchAddr w x) 256 then
    let e := xchDec (s.peek w (s.bankNow w) (s.xchAddr w x) 256)
    if e.kind = kind then some e else none
  else none

/-- The read of an exchange entry by an arrival or an entry's function. -/
def State.xchSee (s : State) (w x : Nat) : State := if x < s.xchCount w then s.fetchIn w (s.xchAddr w x) 256 else s

/-- Length of a GRAD shard, its chunks, and the elements of a chunk. -/
def XchEnt.len (e : XchEnt) : Nat := e.d1 * 65536 + e.d0
def XchEnt.chunksN (e : XchEnt) : Nat := (e.len + 8191) / 8192
def XchEnt.chunkLen (e : XchEnt) (c : Nat) : Nat := min 8192 (e.len - 8192 * c)

/-- Body bytes of a contribution (Table 12.6). -/
def contribBody (cmode ktop : Nat) : Nat := if cmode = 0 then 32768 else if cmode = 1 then 1152 else 160 * ktop

/-- Bytes of a ring slot (R256). -/
def XchEnt.slot (e : XchEnt) : Nat := (64 + contribBody e.cmode e.ktop + 63) / 64 * 64

/-- ROWB of a row of `h` elements (R254). -/
def rowB (fmt h : Nat) : Nat :=
  match fmtInfo fmt with
  | some f => (if f.kind ≥ 2 then h / 256 * f.group else f.bytesFor h) / 8 * 8 + (if (if f.kind ≥ 2 then h / 256 * f.group else f.bytesFor h) % 8 = 0 then 0 else 8)
  | none => 0

def XchEnt.rowb (e : XchEnt) : Nat := rowB e.fmt e.d0

/-- Fields of the status part. -/
def State.xchSet (s : State) (w x off n v : Nat) : State := s.tabWrite w (s.xchAddr w x + off) (leBytes n v)

/-- Add to a 32-bit count of the status part. -/
def State.xchAdd (s : State) (w x off n : Nat) : State :=
  if n = 0 then s else s.xchSet w x off 4 ((s.peekN w (s.xchAddr w x + off) 4 + n) % 2 ^ 32)

def State.xchState (s : State) (w x state round : Nat) : State := s.xchSet w x 64 4 (state * 2 ^ 30 + round)

def State.xchLate (s : State) (w x n : Nat) : State := if n = 0 then s else (s.xchAdd w x 92 n).modXch w fun e => { e with grown := true }
def State.xchStale (s : State) (w x n : Nat) : State := if n = 0 then s else (s.xchAdd w x 96 n).modXch w fun e => { e with grown := true }

/-- A record is counted in WNG_XCH_DROP (R256). -/
def State.xchDrop (s : State) (w : Nat) : State := s.modXch w fun e => { e with drop := (e.drop + 1) % 2 ^ 32 }

/-- PROD and CONS of ring `r`. -/
def State.ringPtr (s : State) (w x r : Nat) : Nat × Nat :=
  let v := s.peekN w (s.xchAddr w x + 128 + 4 * r) 4
  (bits v 16 16, bits v 0 16)

def State.setRing (s : State) (w x r prod cons : Nat) : State := s.xchSet w x (128 + 4 * r) 4 (prod % 65536 * 65536 + cons % 65536)

/-- Records that a ring holds. -/
def State.ringHeld (s : State) (w x r : Nat) : Nat := let (p, c) := s.ringPtr w x r; (p + 65536 - c) % 65536

/-- Address of the slot that a pointer of ring (parity, share) names (R270). -/
def XchEnt.slotAddr (e : XchEnt) (p share ptr : Nat) : Nat := e.a2 + ((p * e.q + share) * 2 ^ e.lg + ptr % 2 ^ e.lg) * e.slot

/-- The port logic writes into a wing's memory; bytes outside its HBM window, or read-only to the wing, are refused. -/
def State.portWrite (s : State) (w a : Nat) (bs : List PByte) : State :=
  if s.mappedIn w (s.bankNow w) [1] a bs.length && !s.barred w a bs.length then s.write (s.reqOf w) a bs else s.refuse w a false

/-- The port logic may write a range of a wing's memory: it lies in its HBM window and is not read-only to it. -/
def State.portOk (s : State) (w a n : Nat) : Bool := s.mappedIn w (s.bankNow w) [1] a n && !s.barred w a n

/-- A record whose place the port logic is refused: WNG_FLT counts the refusal, and the record is dropped and counted in STALE (Table 15.1, log
entry 83). -/
def State.recRefused (s : State) (w x a : Nat) : State := (s.refuse w a false).xchStale w x 1

/-! ## Arrival of token and return records (R262, R264) -/

/-- A record's stamp lies before an entry's deadline (R34). -/
def State.inTime (s : State) (e : XchEnt) : Bool := !treadReached e.deadline s.tread

/-- The row of a record is in a format of the entry's: the one named where that is known, and by its length in any case. -/
def recRowOk (r : RecIn) (e : XchEnt) : Bool :=
  (match r.fmt with | some f => f = e.fmt | none => true) && r.bytes.length = 16 + e.rowb

/-- A token record at an inbox. -/
def State.tokenIn (s : State) (r : RecIn) : State :=
  let w := r.dwing
  let h0 := fieldN r.bytes 0 8
  let h8 := fieldN r.bytes 8 8
  let x := bits h8 40 12
  let s := s.xchSee w x
  match s.xchEnt w x 1 with
  | none => s.xchDrop w
  | some e =>
    let le := bits h8 0 12
    let sr := bits h8 12 12
    let slot := bits h8 24 16
    if e.state ≠ 1 || bits h0 48 16 ≠ e.round || !s.inTime e then s.xchLate w x 1
    else if le ≥ e.d1 || sr ≥ e.nsrc || slot ≥ e.q || !recRowOk r e then s.xchStale w x 1
    else
      let i := (le * e.nsrc + sr) * e.q + slot
      let row := (r.bytes.drop 16).map fun b => (b, r.pzn)
      if !s.portOk w (e.a0 + i * e.rowb) row.length then s.recRefused w x (e.a0 + i * e.rowb)
      else if !s.portOk w (e.a1 + 8 * i) 8 then s.recRefused w x (e.a1 + 8 * i) else
      let s := s.portWrite w (e.a0 + i * e.rowb) row
      let s := s.portWrite w (e.a1 + 8 * i) (clean (leBytes 8 (2 ^ 63 + bits h0 0 48)))
      (s.xchAdd w x 88 1).xchAdd w x 100 (b2n r.pzn)

/-- A return record at its origin. -/
def State.returnIn (s : State) (r : RecIn) : State :=
  let w := r.dwing
  let h := fieldN r.bytes 0 8
  let x := bits h 48 12
  let s := s.xchSee w x
  match s.xchEnt w x 2 with
  | none => s.xchDrop w
  | some e =>
    let orow := bits h 0 16
    let j := bits h 16 3
    if e.state ≠ 1 || bits h 32 16 ≠ e.round || !s.inTime e then s.xchLate w x 1
    else if orow ≥ e.d1 || j ≥ e.q || !recRowOk r e then s.xchStale w x 1
    else
      let row := (r.bytes.drop 16).map fun b => (b, r.pzn)
      if !s.portOk w (e.a0 + (orow * e.q + j) * e.rowb) row.length then s.recRefused w x (e.a0 + (orow * e.q + j) * e.rowb) else
      let s := s.portWrite w (e.a0 + (orow * e.q + j) * e.rowb) row
      (s.xchAdd w x 88 1).xchAdd w x 100 (b2n r.pzn)

/-! ## Arrival of contributions (R270, R271) -/

/-- What Table 12.7 does with a contribution. -/
inductive RingMove
  | drop (late : Bool)
  | enter (parity : Nat) (carried late : Bool)
deriving DecidableEq, Repr

/-- The first row of Table 12.7 that matches. A record that no row matches is dropped as STALE. -/
def State.ringMove (s : State) (w : Nat) (e : XchEnt) (b : List Byte) : RingMove :=
  let h0 := fieldN b 0 4
  let chunk := bits (fieldN b 8 4) 0 20
  let step := fieldN b 16 4
  let lep := fieldN b 20 4
  let r := e.step
  let next := (r + 1) % 2 ^ 32
  if chunk ≥ e.chunksN || bits (fieldN b 4 4) 16 16 ≥ e.nsrc || bits (fieldN b 12 4) 0 14 ≠ e.chunkLen chunk || bits h0 18 2 ≠ e.cmode
      || bits h0 12 6 ≠ e.ktop then .drop false
  else if e.state = 0 && lep = (s.job w).turn.lep then .enter (step % 2) false false
  else if lep ≠ e.lep then .drop false
  else if step = r && e.state = 1 && s.inTime e then .enter (r % 2) false false
  else if step = next then .enter (next % 2) false false
  else if step < r && e.state = 1 && s.inTime e then (if e.carry then .enter (r % 2) true true else .drop true)
  else if step ≤ r && (e.state = 2 || !s.inTime e) then (if e.carry then .enter (next % 2) true true else .drop true)
  else .drop false

/-- The ring that a contribution would enter: XID, parity and share. -/
def State.ringOf (s : State) (r : RecIn) : Option (Nat × Nat × Nat) :=
  let x := bits (fieldN r.bytes 0 4) 20 12
  match s.xchEnt r.dwing x 3 with
  | none => none
  | some e => match s.ringMove r.dwing e r.bytes with
    | .enter p _ _ => some (x, p, if e.q = 0 then 0 else bits (fieldN r.bytes 8 4) 0 20 % e.q)
    | .drop _ => none

/-- A contribution is taken: it enters its ring or is dropped. `false`: its ring is full. -/
def State.contribIn (s : State) (r : RecIn) : State × Bool :=
  let w := r.dwing
  let x := bits (fieldN r.bytes 0 4) 20 12
  let s := s.xchSee w x
  match s.xchEnt w x 3 with
  | none => (s.xchDrop w, true)
  | some e =>
    match s.ringMove w e r.bytes with
    | .drop late => ((if late then s.xchLate w x 1 else s.xchStale w x 1).xchAdd w x 100 (b2n r.pzn), true)
    | .enter p carried late =>
      let share := if e.q = 0 then 0 else bits (fieldN r.bytes 8 4) 0 20 % e.q
      let (prod, cons) := s.ringPtr w x (p * 16 + share)
      if (prod + 65536 - cons) % 65536 ≥ 2 ^ e.lg then (s, false)
      else
        let pre := sliceB r.bytes 0 32 ++ leBytes 8 s.stamp ++ leBytes 1 (b2n r.pzn + 2 * b2n carried) ++ List.replicate 23 0
        let slot := clean (pre ++ sliceB r.bytes 32 (contribBody e.cmode e.ktop))
        if !s.portOk w (e.slotAddr p share prod) slot.length then (s.recRefused w x (e.slotAddr p share prod), true) else
        let s := s.portWrite w (e.slotAddr p share prod) slot
        let s := s.setRing w x (p * 16 + share) (prod + 1) cons
        let s := if late then s.xchLate w x 1 else s.xchAdd w x 88 1
        (s.xchAdd w x 100 (b2n r.pzn), true)

/-! ## Placing message records (R321) -/

/-- Kinds of message records: 0 token, 1 return, 2 contribution, 3 delta. -/
def State.placeRec (s : State) (kind : Nat) (r : RecIn) : State × Bool :=
  if kind = 0 then (s.tokenIn r, true) else if kind = 1 then (s.returnIn r, true) else if kind = 3 then (s.deltaIn r, true)
  else s.contribIn r

/-- Records that wait for the same ring keep their order. -/
def State.ringWaits (s : State) (kind : Nat) (r : RecIn) (before : List (Nat × RecIn)) : Bool :=
  kind = 2 && match s.ringOf r with
    | some y => before.any fun z => z.1 = 2 && z.2.dwing = r.dwing && s.ringOf z.2 = some y
    | none => false

def State.hold_ (s : State) (w : Nat) : List (Nat × RecIn) := (Tab.find s.fab.holds w).getD []

def State.setHold (s : State) (w : Nat) (l : List (Nat × RecIn)) : State :=
  { s with fab := { s.fab with holds := if l.isEmpty then Tab.erase s.fab.holds w else Tab.set s.fab.holds w l } }

/-- The hold of a wing has room for a record. -/
def State.holdRoom (s : State) (w n : Nat) : Bool := (s.hold_ w).foldl (fun a x => a + x.2.bytes.length) 0 + n ≤ 16384

/-- A record leaves the receive buffer of its port; one of this module's own (port 9) never was in one. -/
def State.leave (s : State) (r : RecIn) : State := if r.port = 9 then s else s.recordGone r

/-- One record at the head of its VC: placed, moved to the hold, or (`false`) left where it is. -/
def State.takeRec (s : State) (kind : Nat) (r : RecIn) : State × Bool :=
  if kind = transitKind then (s.transit r.port (frameOf (r.bytes.take 32) (r.bytes.drop 32)), true) else
  let (s1, ok) := if s.ringWaits kind r (s.hold_ r.dwing) then (s, false) else s.placeRec kind r
  if ok then (s1.leave r, true)
  else if s.holdRoom r.dwing r.bytes.length then ((s.setHold r.dwing (s.hold_ r.dwing ++ [(kind, r)])).leave r, true)
  else (s, false)

/-- Records of one input VC. -/
def sameVc (a b : RecIn) : Bool := a.port = b.port && a.vc = b.vc

/-- A record arrives whole: behind one that waits on its VC it waits too. -/
def State.arrive (s : State) (kind : Nat) (r : RecIn) : State :=
  let wait (s : State) : State := { s with fab := { s.fab with heads := s.fab.heads ++ [(kind, r)] } }
  if s.fab.heads.any fun x => sameVc x.2 r then wait s
  else
    let (s1, ok) := s.takeRec kind r
    if ok then s1 else wait (if r.port = 9 then s else s.perr r.port Perr.holdwait 1)

/-- Records that stand at the heads of input VCs are tried again, in order; one behind another that still waits keeps its place. `gone`: records
placed in this pass; one that comes to the head behind them and cannot be placed counts in HOLDWAIT (R321). -/
def retryHeads : List (Nat × RecIn) → List (Nat × RecIn) → List RecIn → State → State
  | [], kept, _, s => { s with fab := { s.fab with heads := kept } }
  | (k, r) :: rest, kept, gone, s =>
    if kept.any fun x => sameVc x.2 r then retryHeads rest (kept ++ [(k, r)]) gone s
    else
      let (s1, ok) := s.takeRec k r
      if ok then retryHeads rest kept (gone ++ [r]) s1
      else retryHeads rest (kept ++ [(k, r)]) gone (if r.port ≠ 9 && gone.any fun x => sameVc x r then s.perr r.port Perr.holdwait 1 else s)

/-- The first record of a hold that can be placed. -/
def State.holdStep (s : State) (w : Nat) : List (Nat × RecIn) → List (Nat × RecIn) → Option State
  | _, [] => none
  | before, (k, r) :: rest =>
    if s.ringWaits k r before then s.holdStep w (before ++ [(k, r)]) rest
    else
      let (s1, ok) := s.placeRec k r
      if ok then some (s1.setHold w (before ++ rest)) else s.holdStep w (before ++ [(k, r)]) rest

/-- HOLD_PLACE: a record waiting in the hold is placed once its ring has room; records at the heads of VCs follow. -/
def State.opHoldPlace (s : State) (w clk : Nat) : State :=
  let s1 := s.at_ clk
  match s1.holdStep w [] (s1.hold_ w) with
  | some s2 => retryHeads s2.fab.heads [] [] s2
  | none =>
    let s2 := retryHeads s1.fab.heads [] [] s1
    if s2.fab.heads = s1.fab.heads then s else s2

/-- A row of a message record for this module at an UP hall port; T brings mirror records only (R327). -/
def State.recRow (s : State) (r : RecIn) (clk : Nat) (f : State → State) : State :=
  if r.port ≥ 8 || (s.port r.port).st ≠ 2 then s else f ((s.at_ clk).chargeRecord r)

/-- TOKEN_RECORD, RETURN_RECORD, CONTRIBUTION_RECORD and DELTA_RECORD. -/
def State.opRecord (s : State) (kind : Nat) (r : RecIn) (clk : Nat) : State := s.recRow r clk fun s => s.arrive kind r

/-- A record of a wing for a wing of this module, which passes no port (port 9 stands for that). -/
def State.ownRec (s : State) (w dwing : Nat) (fmt : Option Nat) (body : List PByte) : RecIn :=
  ⟨9, s.me, w, dwing, body.any (·.2), 0, 0, body.map (·.1), 0, 0, [], fmt⟩

/-- A record that an entry sends: to another module in frames, to its own wing by the receive path. -/
def State.sendRec (s : State) (r : Run) (typ kind dst : Nat) (body : List PByte) : State :=
  if dst = s.me then s.arrive kind (s.ownRec r.wing r.wing (some (cwFmtY r.cfg)) body)
  else (s.sendRecord typ r.wing r.wing dst (s.queueOf r.wing 0) r.rank body).1

/-- The records packed in the payload of TOKEN frames (Table 12.5), each with its kind. Nothing in a record tells a return from a token: one whose bytes
8 to 15 are 0 and whose OXID names a TRET exchange is taken as a return (DESIGN CHOICE, log entry 70). The row of a record has the length of the
entry that it names; bytes behind a record of no entry are one record with it. -/
def State.unpack (s : State) (w : Nat) : Nat → List Byte → List (Nat × List Byte)
  | 0, _ => []
  | f + 1, bs =>
    if bs.length < 16 then []
    else
      let back := fieldN bs 8 8 = 0 && (s.xchEnt w (bits (fieldN bs 0 8) 48 12) 2).isSome
      let ent := if back then s.xchEnt w (bits (fieldN bs 0 8) 48 12) 2 else s.xchEnt w (bits (fieldN bs 8 8) 40 12) 1
      let kind := if back then 1 else 0
      match ent with
      | some e => (kind, bs.take (16 + e.rowb)) :: s.unpack w f (bs.drop (16 + e.rowb))
      | none => [(kind, bs)]

/-- The record that the receiver joined (R317) is handled as one unit by the receive path of its type: TOKEN, CONTRIB, DELTA. -/
def State.deliverMsg (s : State) (typ : Nat) (r : RecIn) : State :=
  let s := s.chargeRecord r
  if typ = 4 then
    -- the frames leave the buffer with the last record that they carry
    match (s.unpack r.dwing r.bytes.length r.bytes).reverse with
    | [] => s.recordGone r
    | (k, b) :: more =>
      (more.reverse.foldl (fun s x => s.arrive x.1 { r with bytes := x.2, lens := [] }) s).arrive k { r with bytes := b }
  else s.arrive (if typ = 5 then 2 else 3) r

/-! ## ROUTE (R258 to R260) -/

/-- A ROUTE or REDUCE function row: a wing in quiesce issues no new record (R349). -/
def isReduce (op c : Nat) : Bool := cwFunc c = 5 && bits (cwArg c 0) 0 4 = op
def isRoute (c : Nat) : Bool := cwFunc c = 3

/-- The numbers of a list in an order that a number picks: every order is some number's. -/
def pickOrder : Nat → Nat → List Nat → List Nat
  | 0, _, _ => []
  | f + 1, v, l =>
    match l[v % l.length]? with
    | some x => x :: pickOrder f (v / l.length) (l.erase x)
    | none => []

/-- Experts from the largest logit down, the lower number first among equals. -/
def rankLogits : List (Nat × Fp) → List (Nat × Fp) → List (Nat × Fp)
  | [], acc => acc
  | x :: xs, acc =>
    rankLogits xs ((acc.takeWhile fun y => !(y.2.lt x.2)) ++ x :: (acc.dropWhile fun y => !(y.2.lt x.2)))

/-- A choice of a row: expert and gate; `none` for the expert when it is dropped. -/
structure Choice where
  expert : Option Nat
  slot : Nat
  gate : Fp
deriving DecidableEq, Repr

/-- Slots of a row's choices in ascending j: quota counters by expert, dropped and moved counts (R259 steps 5 and 6). -/
def assignSlots (caps : Nat) (next : Bool) (rank chosen : List Nat) :
    List (Nat × Fp) → List Nat → Tab Nat → Nat → Nat → List Choice × Tab Nat × Nat × Nat
  | [], _, q, d, m => ([], q, d, m)
  | (x, g) :: xs, moved, q, d, m =>
    let go (e : Option Nat) (slot : Nat) (mv : List Nat) (q : Tab Nat) (d m : Nat) : List Choice × Tab Nat × Nat × Nat :=
      let (r, q, d, m) := assignSlots caps next rank chosen xs mv q d m
      (⟨e, slot, g⟩ :: r, q, d, m)
    if Tab.cnt q x < caps then go (some x) (Tab.cnt q x) moved (Tab.bump q x 1) d m
    else if !next then go none 0 moved q (d + 1) m
    else
      match rank.find? fun e => !chosen.contains e && !moved.contains e && Tab.cnt q e < caps with
      | some e => go (some e) (Tab.cnt q e) (moved ++ [e]) (Tab.bump q e 1) d (m + 1)
      | none => go none 0 moved q (d + 1) m

/-- FP32 softmax: each element less the largest, EXP, divided by the sum in order. -/
def softmax32 (all_ : List Fp) (xs : List Fp) : List Fp :=
  let top := all_.foldl rowMax (Fp.inf true)
  let ex (x : Fp) : Fp := stageExp (fadd x top.negate)
  let sum := all_.foldl (fun a x => fadd a (ex x)) Fp.zero
  xs.map fun x => fdiv (ex x) sum

/-- The gates of the chosen logits (R259 step 3). -/
def gatesOf (gmode : Nat) (all_ chosen : List Fp) : List Fp :=
  match gmode with
  | 0 => softmax32 chosen chosen
  | 1 => softmax32 all_ chosen
  | _ => chosen.map fun x => fdiv (Fp.ofInt 1) (fadd (Fp.ofInt 1) (stageExp x.negate))

/-- A row converted to a format, as the bytes of a record's row (R260). `i`: index of its first element. A tensor-scaled format has no scale record
here: the model encodes with scale 2^0 and counts no saturation (DESIGN CHOICE, log entry 74). -/
def Run.rowBytes (r : Run) (core i fmt : Nat) (els : List El) : List PByte × Run :=
  match fmtInfo fmt with
  | none => ([], r)
  | some f =>
    let (os, r) := r.ready core (fun _ => cwGrad r.cfg) i 0 els
    let (bs, st) := encodeUnits f 0 (f.units [os])
    let n := rowB fmt els.length
    (bs ++ List.replicate (n - bs.length) (0, false), { r with nfCount := r.nfCount + st.nonFinite, nf := r.nf || st.nonFinite ≠ 0, vanished := r.vanished + st.vanished })

/-- The entry has been refused a write of its function. -/
def State.refused (s : State) (core : Nat) (g : Bool) : Bool := match s.runAt core g with | some r => r.fault | none => false

/-- The TRET round that a ROUTE opens (R260). -/
def State.tretOpen (s : State) (core : Nat) (g : Bool) (r : Run) (k : Nat) : State :=
  let w := r.wing
  let x := bits (cwArg r.cfg 1) 16 12
  let s := s.xchSee w x
  match s.xchEnt w x 2 with
  | none => s
  | some e =>
    let s := s.fnWrite core g r e.a0 (List.replicate (r.rows * k * e.rowb) 0)
    if s.refused core g then s else
    (s.xchState w x 1 (bits (cwArg r.cfg 0) 16 16)).xchSet w x 80 8 (treadAdd r.tread e.dl)

/-- Send one token record of a row for a route entry (Table 12.5). -/
def tokenBody (r : Run) (me row j rte : Nat) (rowBs : List PByte) : List PByte :=
  let h0 := bits (cwArg r.cfg 0) 16 16 * 2 ^ 48 + row % 65536 * 2 ^ 32 + j * 2 ^ 29 + bits (cwArg r.cfg 1) 16 12 * 2 ^ 17 + me
  let h8 := bits rte 17 12 * 2 ^ 40 + bits rte 41 16 * 2 ^ 24 + bits (cwArg r.cfg 1) 0 12 * 2 ^ 12 + bits rte 29 12
  clean (leBytes 8 h0 ++ leBytes 8 h8) ++ rowBs

/-- Send packed token records: those bound for one module go in one train of frames (Table 12.5); those for this module arrive at once. -/
def State.sendTokens (s : State) (r : Run) (recs : List (Nat × List PByte)) : State :=
  let s := (recs.filter fun x => x.1 = s.me).foldl (fun s x => s.sendRec r 4 0 x.1 x.2) s
  let away := recs.filter fun x => x.1 ≠ s.me
  (away.map (·.1)).eraseDups.foldl (fun s d =>
    (s.sendRecord 4 r.wing r.wing d (s.queueOf r.wing 0) r.rank ((away.filter fun x => x.1 = d).flatMap (·.2))).1) s

/-- Bytes of one block of the work half. -/
def State.blkBytes (s : State) (core : Nat) (g : Bool) (r : Run) (k : Nat) : List PByte × State :=
  let b := r.blks.getD k 0
  s.fnRead core g (s.halfBase core g 1 + blkLoff b) (blkLen b)

/-- The route entry number `i` of a block's bytes, with its poison. -/
def entry8 (bs : List PByte) (i : Nat) : Nat × Bool := let e := (bs.drop (8 * i)).take 8; (leNat (e.map (·.1)), e.any (·.2))

/-- What ROUTE keeps row by row: quota counters, counts, route entries, gates and records. -/
structure RouteAcc where
  q : Tab Nat
  dropped : Nat
  moved : Nat
  route : List PByte
  gates : List El
  recs : List (Nat × List PByte)
deriving DecidableEq, Repr

/-- One row of a ROUTE without REPLAY (R259). -/
def State.routeRow (s : State) (core : Nat) (g : Bool) (map : List PByte) (row : Nat) (x : List El) (logits : List El) (a : RouteAcc) :
    RouteAcc × State :=
  match s.runAt core g with
  | none => (a, s)
  | some r =>
    let c := r.cfg
    let k := bits (cwArg c 0) 0 3 + 1
    let num := (upFrom 0 logits.length).zip (logits.map (·.1))
    let open_ := num.any fun y => match y.2 with | .nan _ => true | _ => false
    let (v, s) := if open_ then s.free else (0, s)
    let rank := if open_ then pickOrder num.length v (num.map (·.1)) else (rankLogits num []).map (·.1)
    let chosen := rank.take k
    let lg (e : Nat) : Fp := (logits.getD e (Fp.zero, false)).1
    let gates := gatesOf (bits (cwArg c 0) 3 2) (logits.map (·.1)) (chosen.map lg)
    let p := logits.any (·.2)
    let (cs, q, d, m) := assignSlots (bits (cwArg c 2) 0 16) (bit (cwArg c 0) 5) rank chosen (chosen.zip gates) [] a.q a.dropped a.moved
    let (rb, r) := r.rowBytes core (row * x.length) (cwFmtY c) x
    let s := s.modRun core g fun _ => r
    let ents := cs.map fun y => match y.expert with
      | some e => let (me, mp) := entry8 map e; (2 ^ 63 + y.slot * 2 ^ 41 + me % 2 ^ 41, mp)
      | none => (0, false)
    let recs := ((upFrom 0 ents.length).zip ents).filterMap fun y =>
      if bit y.2.1 63 then some (bits y.2.1 0 17, tokenBody r s.me row y.1 y.2.1 rb) else none
    ({ q := q, dropped := d, moved := m, route := a.route ++ ents.flatMap (fun y => (leBytes 8 y.1).map fun b => (b, y.2 || p))
       gates := a.gates ++ gates.map (fun y => (y, p)), recs := a.recs ++ recs }, s)

/-- Write raw bytes into the first bytes of an output block. -/
def State.putBytes (s : State) (core : Nat) (g : Bool) (r : Run) (k : Option Nat) (bs : List PByte) : State :=
  match k with
  | none => s
  | some k => let b := r.blks.getD k 0; s.fnPut core g (s.halfBase core g 1 + blkLoff b) (bs.take (blkLen b))

/-- ROUTE. -/
def State.routeFn (s : State) (core : Nat) (g : Bool) (r : Run) : State :=
  let c := r.cfg
  let k := bits (cwArg c 0) 0 3 + 1
  let s := s.tretOpen core g r k
  if s.refused core g then s else
  let ka := r.role 0 0 0
  let fx := (r.roleFmt ka).getD ⟨0, none, 0, 8, 0, 0⟩
  let (xs, nx, s) := s.operand core g r (takeFor (cwPass c) 2) ka
  let (vs, _, s) := s.operand core g r .vec ka
  let h := cwK c
  let row (m : Nat) : List El := (upFrom 0 h).map fun i => PEl.vec (matAt fx vs h m i)
  let data := r.role 6 0 0
  if bit (cwArg c 0) 6 then
    let (rt, s) := match data.head? with
      | some b => s.blkBytes core g r b
      | none => ([], s)
    let s := s.inputs core g (nx + b2n (rt.any (·.2)))
    let (recs, s) := (upFrom 0 r.rows).foldl (fun (acc : List (Nat × List PByte) × State) m =>
      match acc.2.runAt core g with
      | none => acc
      | some r =>
        let ents := (upFrom 0 k).map fun j => (j, entry8 rt (m * k + j))
        let (rb, r) := r.rowBytes core (m * h) (cwFmtY c) (row m)
        (acc.1 ++ ents.filterMap (fun y => if bit y.2.1 63 then some (bits y.2.1 0 17, tokenBody r s.me m y.1 y.2.1 (rb.map fun b => (b.1, b.2 || y.2.2))) else none),
          acc.2.modRun core g fun _ => r)) ([], s)
    s.sendTokens r recs
  else
    let kb := r.role 1 0 0
    let fb := (r.roleFmt kb).getD ⟨0, none, 0, 8, 0, 0⟩
    let (ws, nw, s) := s.operand core g r (takeFor (cwPass c) 3) kb
    let (map, s) := match data.head? with
      | some b => s.blkBytes core g r b
      | none => ([], s)
    let s := s.inputs core g (nx + nw + b2n (map.any (·.2)))
    let n := cwN c
    let logits := product (cwPass c) r.rows h n (fun _ _ => (Fp.zero, false)) (fun m i => matAt fx xs h m i) fun i j => statAt fb ws h n i j
    let s := s.charge (some r.wing) Acf.products (r.rows * h * n * cwPass c)
    let (a, s) := ((upFrom 0 logits.length).zip logits).foldl (fun (acc : RouteAcc × State) (y : Nat × List El) =>
      acc.2.routeRow core g map y.1 (row y.1) y.2 acc.1) (⟨[], 0, 0, [], [], []⟩, s)
    let st := r.role 6 1 0
    let s := s.putBytes core g r st.head? a.route
    let s := match (st.drop 1).head?, s.runAt core g with
      | some kg, some r =>
        (match r.roleFmt [kg] with
        | some f =>
          let (os, r) := r.ready core (fun _ => (cwRnd c || cwGrad c) && f.code ≠ 1) 0 0 a.gates
          (s.modRun core g fun _ => r).putUnits core g f [kg] (f.units [os])
        | none => s)
      | _, _ => s
    let s := s.modRun core g fun r => { r with fstat := sat 16 a.dropped * 65536 + sat 16 a.moved }
    s.sendTokens r a.recs

/-! ## TOPEN, TCLOSE, RETURN, COMBINE (R261, R263 to R265) -/

def redXid (c : Nat) : Nat := bits (cwArg c 1) 0 12

/-- Rows of a TIN inbox. -/
def XchEnt.rowsN (e : XchEnt) : Nat := e.d1 * e.nsrc * e.q

/-- Rows whose tag says filled. -/
def State.filled (s : State) (w : Nat) (e : XchEnt) : Nat :=
  ((upFrom 0 e.rowsN).filter fun i => bit (s.peekN w (e.a1 + 8 * i) 8) 63).length

/-- A round of an exchange opens: what belongs to the former one is forgotten. -/
def State.roundNew (s : State) (w x : Nat) : State :=
  s.modXch w fun e => { e with opens := Tab.bump e.opens x 1, missing := Tab.erase e.missing x, shares := e.shares.filter fun y => y.1 ≠ x }

/-- TOPEN. -/
def State.topenFn (s : State) (core : Nat) (g : Bool) (r : Run) : State :=
  let w := r.wing
  let x := redXid r.cfg
  let s := s.xchSee w x
  match s.xchEnt w x 1 with
  | none => s
  | some e =>
    let s := if e.state = 1 then (s.fetchIn w e.a1 (8 * e.rowsN)).xchSet w x 108 4 (s.filled w e) else s
    let s := s.fnWrite core g r e.a1 (List.replicate (8 * e.rowsN) 0)
    if s.refused core g then s else
    ((s.xchState w x 1 (bits (cwArg r.cfg 0) 16 16)).xchSet w x 80 8 (treadAdd r.tread e.dl)).roundNew w x

/-- Mark a closing entry that ran after the deadline: under 41 in `work` the round it closes, counted from 1. -/
def State.closing (s : State) (core : Nat) (g : Bool) (r : Run) : State :=
  let n := Tab.cnt (s.job r.wing).xch.opens (redXid r.cfg)
  s.modRun core g fun y => { y with work := Tab.set y.work 41 (n + 1) }

/-- TCLOSE. -/
def State.tcloseFn (s : State) (core : Nat) (g : Bool) (r : Run) : State :=
  let w := r.wing
  let x := redXid r.cfg
  let s := s.xchSee w x
  match s.xchEnt w x 1 with
  | none => s
  | some e =>
    if !treadReached e.deadline r.tread then s else
    let ws := bits (cwArg r.cfg 2) 0 10
    let sh := bits (cwArg r.cfg 2) 16 10
    let s := s.fetchIn w e.a1 (8 * e.rowsN)
    let rows := (upFrom 0 e.rowsN).filter fun i => i % ws = sh && s.peekN w (e.a1 + 8 * i) 8 = 0
    let s := rows.foldl (fun s i => s.fnWrite core g r (e.a0 + i * e.rowb) (List.replicate e.rowb 0)) s
    if s.refused core g then s else
    (s.modRun core g fun y => { y with fstat := rows.length }).closing core g r

/-- Element `i` of row `m` where each row takes ROWB bytes. -/
def rowEl (f : FmtInfo) (xs : List PEl) (h m i : Nat) : PEl :=
  elAt xs (m * (if f.kind ≥ 2 then f.pitch h else rowB f.code h * 8 / f.ebits) + i)

/-- RETURN. -/
def State.returnFn (s : State) (core : Nat) (g : Bool) (r : Run) : State :=
  let w := r.wing
  let x := redXid r.cfg
  let s := s.xchSee w x
  match s.xchEnt w x 1 with
  | none => s
  | some e =>
    let ks := r.role 0 0 0
    let fx := (r.roleFmt ks).getD ⟨0, none, 0, 8, 0, 0⟩
    let (xs, nx, s) := s.operand core g r .vec ks
    let s := s.inputs core g nx
    let ws := bits (cwArg r.cfg 2) 0 10
    let sh := bits (cwArg r.cfg 2) 16 10
    let s := s.fetchIn w e.a1 (8 * e.rowsN)
    let rows := (upFrom 0 e.rowsN).filterMap fun i =>
      let t := s.peekN w (e.a1 + 8 * i) 8
      if i % ws = sh && bit t 63 then some (i, t) else none
    let s := rows.foldl (fun (s : State) (y : Nat × Nat) =>
      match s.runAt core g with
      | none => s
      | some r =>
        let els := (upFrom 0 e.d0).map fun i => PEl.vec (rowEl fx xs e.d0 y.1 i)
        let (rb, r) := r.rowBytes core (y.1 * e.d0) (cwFmtY r.cfg) els
        let hd := bits y.2 32 16 + bits y.2 29 3 * 2 ^ 16 + e.round * 2 ^ 32 + bits y.2 17 12 * 2 ^ 48
        (s.modRun core g fun _ => r).sendRec r 4 1 (bits y.2 0 17) (clean (leBytes 8 hd ++ leBytes 8 0) ++ rb)) s
    s.modRun core g fun y => { y with fstat := rows.length }

/-- COMBINE, over the rows that its gate array holds, at most PCAP: the word's M is 0 (DESIGN CHOICE, log entry 74). -/
def State.combineFn (s : State) (core : Nat) (g : Bool) (r : Run) : State :=
  let s := s.xchSee r.wing (redXid r.cfg)
  match s.xchEnt r.wing (redXid r.cfg) 2 with
  | none => s
  | some e =>
    let ks := r.role 0 0 0
    let fx := (r.roleFmt ks).getD ⟨0, none, 0, 8, 0, 0⟩
    let (xs, nx, s) := s.operand core g r .vec ks
    let (gs, ng, s) := s.operand core g r .vec (r.role 6 0 0)
    let s := s.inputs core g (nx + ng)
    let (bias, mulb, s) := s.sideStreams core g r 0
    let (tp, s) := s.tops r 2 0
    let h := e.d0
    let count := min e.d1 (gs.length / e.q)
    let rows := (upFrom 0 count).map fun m => (upFrom 0 h).map fun i =>
      (upFrom 0 e.q).foldl (fun (a : El) j =>
        let y := PEl.vec (rowEl fx xs h (m * e.q + j) i)
        let t := PEl.vec (elAt gs (m * e.q + j))
        (ffma t.1 y.1 a.1, a.2 || y.2 || t.2)) (Fp.zero, false)
    let s := s.charge (some r.wing) Acf.vecOps (count * h * e.q)
    let (out, s) := s.epilogue core g (cwAcc r.cfg) (fun col => bias.getD col (Fp.zero, false)) (fun i => PEl.vec (elAt mulb i)) (topAt tp) h 0 rows
    s.putRows core g 2 0 out

/-! ## SEND (R266 to R268) -/

/-- The larger magnitude first: NaN above infinity above every finite one; the lower index among equals. -/
def magKey (x : Fp) : Nat := match x with | .nan _ => 2 ^ 32 | y => y.bits32 % 2 ^ 31

/-- The indices of the `k` elements of largest magnitude, ascending. -/
def topK (k : Nat) (xs : List Fp) : List Nat :=
  let order := sortBy (fun (y : Nat × Nat) => 2 ^ 33 - y.2) ((upFrom 0 xs.length).zip (xs.map magKey))
  sortBy (fun i => i) ((order.take k).map (·.1))

/-- One block of 256 elements coded: body parts (scale or indices; bits or values) and the decoded values. -/
def codeBlock (cmode ktop : Nat) (xs : List Fp) : List Byte × List Byte × List Fp :=
  match cmode with
  | 1 =>
    if xs.any fun x => !x.finite then (leBytes 4 0x7FC00000, List.replicate 32 0, xs)
    else
      let sum := xs.foldl (fun a x => fadd a (if x.neg then x.negate else x)) Fp.zero
      let sc := rne32 (sum.shift (-8))
      let bitsN := ((upFrom 0 xs.length).zip xs).foldl (fun a y => a + (if y.2.neg then 0 else 2 ^ y.1)) 0
      (leBytes 4 sc.bits32, leBytes 32 bitsN, xs.map fun x => if x.neg then sc.negate else sc)
  | _ =>
    let ks := topK ktop xs
    (ks.flatMap fun i => leBytes 1 i, ks.flatMap fun i => leBytes 4 (xs.getD i Fp.zero).bits32,
      ((upFrom 0 xs.length).zip xs).map fun y => if ks.contains y.1 then y.2 else Fp.zero)

/-- A chunk coded: body and decoded values; a SIGN block with a non-finite value leaves no error memory. -/
def codeChunk (cmode ktop : Nat) (xs : List Fp) : List Byte × List Fp :=
  let full := xs ++ List.replicate (8192 - xs.length) Fp.zero
  if cmode = 0 then (full.flatMap fun x => leBytes 4 x.bits32, full)
  else
    let bs := (chunks 256 33 full).map (codeBlock cmode ktop)
    (bs.flatMap (·.1) ++ bs.flatMap (·.2.1), bs.flatMap (·.2.2))

/-- SEND. -/
def State.sendFn (s : State) (core : Nat) (g : Bool) (r : Run) : State :=
  let c := r.cfg
  let cm := bits (cwArg c 0) 4 2
  let kt := bits (cwArg c 0) 6 6
  let (gs, ng, s) := s.operand core g r .vec (r.role 0 0 0)
  let (es, ne, s) := if cm = 0 then ([], 0, s) else s.operand core g r .vec (r.role 6 0 0)
  let s := s.inputs core g (ng + ne)
  let xs : List El := ((upFrom 0 gs.length).zip gs).map fun y =>
    let a := PEl.vec y.2
    let e := if cm = 0 then (Fp.zero, false) else PEl.vec (elAt es y.1)
    (fadd a.1 e.1, a.2 || e.2)
  let bad := (xs.filter fun x => !x.1.finite).length
  let s := s.modRun core g fun r => { r with nfCount := r.nfCount + bad, nf := r.nf || bad ≠ 0 }
  let parts := chunks 8192 (xs.length / 8192 + 1) xs
  let lep := (s.job r.wing).turn.lep
  let (err, s) := ((upFrom 0 parts.length).zip parts).foldl (fun (acc : List El × State) (y : Nat × List El) =>
    let vals := y.2.map (·.1)
    let (body, d) := codeChunk cm kt vals
    let p := y.2.any (·.2)
    let hd := leBytes 4 (redXid c * 2 ^ 20 + cm * 2 ^ 18 + kt * 2 ^ 12) ++ leBytes 4 (bits (cwArg c 1) 16 16 * 65536)
      ++ leBytes 4 ((bits (cwArg c 3) 0 20 + y.1) % 2 ^ 20) ++ leBytes 4 vals.length ++ leBytes 4 r.step ++ leBytes 4 lep ++ leBytes 8 0
    let blockBad (i : Nat) : Bool := cm = 1 && ((vals.drop (i / 256 * 256)).take 256).any fun x => !x.finite
    let e' := ((upFrom 0 vals.length).zip y.2).map fun z =>
      (if blockBad z.1 then Fp.zero else fadd z.2.1 (d.getD z.1 Fp.zero).negate, z.2.2)
    (acc.1 ++ e', acc.2.sendRec r 5 2 (bits (cwArg c 2) 0 17) ((hd ++ body).map fun b => (b, p)))) ([], s)
  let s := s.modRun core g fun r => { r with fstat := parts.length }
  let s := s.charge (some r.wing) Acf.vecOps xs.length
  if cm = 0 then s else
  match s.runAt core g with
  | none => s
  | some r =>
    let (os, r) := r.ready core (fun _ => bit (cwArg c 0) 12) 0 0 err
    (s.modRun core g fun _ => r).putOut core g 6 os

/-! ## OPEN, ACCUM, CLOSE (R269, R272, R273) -/

/-- Missing contributions of the chunks of one share. -/
def State.missOf (s : State) (w : Nat) (e : XchEnt) (share : Nat) : Nat :=
  ((upFrom 0 e.chunksN).filter fun c => c % e.q = share).foldl (fun a c => a + (e.nsrc - bits (s.peekN w (e.a1 + 4 * c) 4) 0 16)) 0

/-- A GRAD round ends with a missing count. -/
def State.gradClosed (s : State) (w x miss : Nat) : State :=
  let s := s.xchSet w x 104 4 (miss % 2 ^ 32)
  if miss = 0 then s else s.modXch w fun e => { e with missed := true }

/-- OPEN. -/
def State.openFn (s : State) (core : Nat) (g : Bool) (r : Run) : State :=
  let w := r.wing
  let x := redXid r.cfg
  let s := s.xchSee w x
  match s.xchEnt w x 3 with
  | none => s
  | some e =>
    let s := if e.state = 1 then
        let p := e.step % 2
        let s := (upFrom 0 (min e.q 16)).foldl (fun s sh =>
          let n := s.ringHeld w x (p * 16 + sh)
          if n = 0 then s else (s.xchLate w x n).setRing w x (p * 16 + sh) (s.ringPtr w x (p * 16 + sh)).1 (s.ringPtr w x (p * 16 + sh)).1) s
        (s.fetchIn w e.a1 (4 * e.chunksN)).gradClosed w x ((upFrom 0 e.q).foldl (fun a sh => a + s.missOf w e sh) 0)
      else s
    let s := s.fnWrite core g r e.a1 (List.replicate (4 * e.chunksN) 0)
    if s.refused core g then s else
    let s := (s.xchSet w x 68 4 r.step).xchSet w x 72 4 (s.job w).turn.lep
    ((s.xchSet w x 80 8 (treadAdd r.tread e.dl)).xchState w x 1 0).roundNew w x

/-- The decoded value of each element of a contribution body; none where TOPK does not keep it. -/
def contribVals (cmode ktop n : Nat) (body : List PByte) : List (Option El) :=
  let f32 (bs : List PByte) : El := (Fp.of32 (leNat (bs.map (·.1))), bs.any (·.2))
  match cmode with
  | 0 => ((chunks 4 8193 body).take n).map fun b => some (f32 b)
  | 1 =>
    let sc := (chunks 4 33 (body.take 128)).map f32
    (upFrom 0 n).map fun i =>
      let x := sc.getD (i / 256) (Fp.zero, false)
      let b := body.getD (128 + i / 8) (0, false)
      some (if bit b.1.toNat (i % 8) then x.1 else x.1.negate, x.2 || b.2)
  | _ =>
    let vals := (chunks 4 (32 * ktop + 1) (body.drop (32 * ktop))).map f32
    (upFrom 0 n).map fun i =>
      let b := i / 256
      ((upFrom 0 ktop).find? fun j => (body.getD (b * ktop + j) (0, false)).1.toNat = i % 256).map fun j =>
        let v := vals.getD (b * ktop + j) (Fp.zero, false)
        (v.1, v.2 || (body.getD (b * ktop + j) (0, false)).2)

/-- The entry’s function may not write a range: the access is refused and the entry stops (R171, R339). -/
def State.fnBar (s : State) (core : Nat) (g : Bool) (r : Run) (a n : Nat) : Option State :=
  if s.mappedIn r.wing r.bank [1, 2] a n && !s.barred r.wing a n then none
  else some ((s.refuse r.wing a false).modRun core g fun r => { r with fault := true })

/-- One record of a ring added into the accumulator (R272). An element formed non-finite counts (R84), and so does a poisoned input (R85). -/
def State.addRecord (s : State) (core : Nat) (g : Bool) (r : Run) (e : XchEnt) (slotA : Nat) : State :=
  let q := s.entryReq r false
  let (b, s) := s.read q slotA (64 + contribBody e.cmode e.ktop)
  let c := bits (fieldN (b.map (·.1)) 8 4) 0 20
  let n := e.chunkLen c
  let pzn := bit (fieldN (b.map (·.1)) 40 1) 0
  let vs := contribVals e.cmode e.ktop n (b.drop 64)
  let (cnt, _, s) := s.readN q (e.a1 + 4 * c) 4
  let base := e.a0 + 4 * 8192 * c
  match (s.fnBar core g r base (4 * n)).or (s.fnBar core g r (e.a1 + 4 * c) 4) with
  | some s => s
  | none =>
  let (old, s) := s.read q base (4 * n)
  let first := bits cnt 0 16 = 0
  let els : List El := ((chunks 4 (n + 1) old).zip vs).map fun y =>
    let a : El := (Fp.of32 (leNat (y.1.map (·.1))), y.1.any (·.2))
    match y.2 with
      | some v => if first then v else (fadd a.1 v.1, a.2 || v.2)
      | none => if first then (Fp.zero, false) else a
  let s := s.write q base (els.flatMap fun z => (leBytes 4 z.1.bits32).map fun x => (x, z.2 || pzn))
  let nf := ((els.zip vs).filter fun y => y.2.isSome && !y.1.1.finite).length
  let s := s.modRun core g fun r => { r with nfCount := r.nfCount + nf, nf := r.nf || nf ≠ 0 }
  let s := s.inputs core g (b2n (pzn || b.any (·.2)) + b2n (!first && old.any (·.2)))
  let bad := bit cnt 31 || pzn
  (s.write q (e.a1 + 4 * c) (clean (leBytes 4 (sat 16 (bits cnt 0 16 + 1) + b2n bad * 2 ^ 31)))).charge (some r.wing) Acf.vecOps n

/-- Consume records of ring (parity of R, share) from CONS on, while the entry is refused no write. -/
def State.consume (s : State) (core : Nat) (g : Bool) (r : Run) (e : XchEnt) (x p share : Nat) : Nat → State
  | 0 => s
  | n + 1 =>
    let (prod, cons) := s.ringPtr r.wing x (p * 16 + share)
    if prod = cons then s
    else
      let s := s.addRecord core g r e (e.slotAddr p share cons)
      if s.refused core g then s else (s.setRing r.wing x (p * 16 + share) prod (cons + 1)).consume core g r e x p share n

/-- ACCUM: as many records as the budget allows, which the spec does not count: any number of those the ring holds. -/
def State.accumFn (s : State) (core : Nat) (g : Bool) (r : Run) : State :=
  let x := redXid r.cfg
  let share := bits (cwArg r.cfg 1) 16 4
  let s := s.xchSee r.wing x
  match s.xchEnt r.wing x 3 with
  | none => s
  | some e =>
    if e.state ≠ 1 then s else
    let held := s.ringHeld r.wing x (e.step % 2 * 16 + share)
    let (v, s) := s.free
    let n := v % (held + 1)
    (s.consume core g r e x (e.step % 2) share n).modRun core g fun y => { y with fstat := n }

/-- CLOSE. -/
def State.closeFn (s : State) (core : Nat) (g : Bool) (r : Run) : State :=
  let w := r.wing
  let x := redXid r.cfg
  let share := bits (cwArg r.cfg 1) 16 4
  let s := s.xchSee w x
  match s.xchEnt w x 3 with
  | none => s
  | some e =>
    if !treadReached e.deadline r.tread then s.accumFn core g r
    else
      let held := if e.state = 1 then s.ringHeld w x (e.step % 2 * 16 + share) else 0
      let s := s.consume core g r e x (e.step % 2) share held
      if s.refused core g then s else
      let s := s.fetchIn w e.a1 (4 * e.chunksN)
      let empty := (upFrom 0 e.chunksN).filter fun c => c % e.q = share && bits (s.peekN w (e.a1 + 4 * c) 4) 0 16 = 0
      let miss := s.missOf w e share
      let s := empty.foldl (fun s c => s.fnWrite core g r (e.a0 + 32768 * c) (List.replicate (4 * e.chunkLen c) 0)) s
      if s.refused core g then s else
      let s := s.modXch w fun y => { y with missing := Tab.bump y.missing x miss }
      (s.modRun core g fun y => { y with fstat := held }).closing core g r

/-- The record-sending rows wait while the wing is in quiesce (R349). -/
def State.sendRow (s : State) (core : Nat) (g : Bool) (is : Nat → Bool) (body : State → Run → State) : State :=
  match s.runAt core g with
  | some r => if (s.wing r.wing).quiet then s else s.fnRow core g is body
  | none => s

/-! ## The boundary (Table 12.8) and registers (R276, R278) -/

/-- A TRET round whose DEADLINE has come closes. -/
def State.tretClose (s : State) (w x : Nat) : State :=
  match s.xchEnt w x 2 with
  | some e => if e.state = 1 && treadReached e.deadline s.tread then (s.xchSee w x).xchState w x 2 e.round else s
  | none => s

/-- The end of a closing entry: its share is done; the last one of the round closes it. -/
def State.shareDone (s : State) (e : Ended) : State :=
  let w := e.wing
  let x := redXid e.cw
  let tin := isReduce 5 e.cw
  match e.run with
  | none => s
  | some r =>
    let ok := e.status = 0 && (tin || isReduce 3 e.cw) && Tab.cnt r.work 41 = Tab.cnt (s.job w).xch.opens x + 1
    if !ok then s else
    let share := if tin then bits (cwArg e.cw 2) 16 10 else bits (cwArg e.cw 1) 16 4
    let s := s.modXch w fun y => { y with shares := if y.shares.contains (x, share) then y.shares else y.shares ++ [(x, share)] }
    match s.xchEnt w x (if tin then 1 else 3) with
    | none => s
    | some t =>
      let n := if tin then bits (cwArg e.cw 2) 0 10 else t.q
      let all_ := (upFrom 0 n).all fun i => (s.job w).xch.shares.contains (x, i)
      if t.state ≠ 1 || !all_ then s
      else if tin then (((s.xchSee w x).fetchIn w t.a1 (8 * t.rowsN)).xchState w x 2 t.round).xchSet w x 108 4 (s.filled w t)
      else ((s.xchSee w x).xchState w x 2 0).gradClosed w x (Tab.cnt (s.job w).xch.missing x)

/-- 4m for a wing. -/
def State.xchAction (s : State) (w : Nat) : State :=
  let s := (s.ended.filter fun e => e.wing = w).foldl (fun s e => s.shareDone e) s
  let s := (upFrom 0 (s.xchCount w)).foldl (fun s x => s.tretClose w x) s
  let y := (s.job w).xch
  let c := s.we w Reg.wngXchCtrl
  let s := if (y.grown || y.missed) && bit c 3 then s.fire (w + 1) (bits c 4 4) else s
  s.modXch w fun y => { y with grown := false, missed := false }

/-- WNG_XCH lands: every status part IDLE with zero counts, every pointer 0. -/
def State.xchClear (s : State) (w : Nat) : State :=
  let s := s.modXch w fun y => { y with opens := [], missing := [], shares := [] }
  (upFrom 0 (s.xchCount w)).foldl (fun s x =>
    if s.mappedIn w (s.bankNow w) [1] (s.xchAddr w x) 256 then s.tabWrite w (s.xchAddr w x + 64) (List.replicate 192 0) else s) s

/-- A GRAD exchange is OPEN on a layout epoch (R276). -/
def State.gradOpen (s : State) (w e : Nat) : Bool :=
  (upFrom 0 (s.xchCount w)).any fun x => match s.xchEnt w x 3 with | some y => y.state = 1 && y.lep = e | none => false

/-- LEPOCH of the record in the slot that a pointer of ring `r` names. -/
def State.slotLep (s : State) (w : Nat) (e : XchEnt) (r ptr : Nat) : Nat := s.peekN w (e.slotAddr (r / 16) (r % 16) ptr + 20) 4

/-- One ring at a landing: records of layout epoch `lep` leave it and count in STALE; the others keep their order from CONS on (R276). -/
def State.ringDiscard (s : State) (w x : Nat) (e : XchEnt) (lep r : Nat) : State :=
  let (prod, cons) := s.ringPtr w x r
  let held := (upFrom 0 ((prod + 65536 - cons) % 65536)).map fun i => (cons + i) % 65536
  let place (i : Nat) : Nat := e.slotAddr (r / 16) (r % 16) i
  let s := held.foldl (fun s i => s.fetchIn w (place i + 20) 4) s
  let kept := held.filter fun i => s.slotLep w e r i ≠ lep
  if kept.length = held.length then s
  else
    let (slots, s) := kept.foldl (fun (acc : List (List PByte) × State) i =>
      let (b, s) := acc.2.read (s.reqOf w) (place i) e.slot
      (acc.1 ++ [b], s)) ([], s)
    let s := ((upFrom 0 slots.length).zip slots).foldl (fun (s : State) (y : Nat × List PByte) => s.portWrite w (place ((cons + y.1) % 65536)) y.2) s
    (s.xchStale w x (held.length - kept.length)).setRing w x r (cons + kept.length) cons

/-- At a landing the records of the former layout epoch held in rings are discarded (R276). -/
def State.gradDiscard (s : State) (w : Nat) : State :=
  let lep := (s.job w).turn.lep
  (upFrom 0 (s.xchCount w)).foldl (fun s x =>
    match s.xchEnt w x 3 with
    | none => s
    | some e => ((upFrom 0 e.q) ++ (upFrom 16 e.q)).foldl (fun s r => s.ringDiscard w x e lep r) (s.xchSee w x)) s

end Sys2Proof.Machine
end

