-- ==== Sys2Proof/Machine/Landing.lean ====
section
/-!
DEFINITION. The coding of deltas, DELTA SEND, the landing of a turn (spec/13_turn.md R285 to R289, R293 to R297) and the twin mirror
(spec/14_hall_fabric.md R327 to R333).
-/
namespace Sys2Proof.Machine

/-! ## Coding (R288, R289) -/

/-- Coding of a block (0 MAP, 1 RAW, 2 SAME) and its body; poisoned bytes make it RAW. -/
def codeDelta (kept : Bool) (new old : List PByte) : Nat × List PByte :=
  let n := new.map (·.1)
  let d := (n.zip (old.map (·.1))).map fun x => x.1 ^^^ x.2
  let nz := (d.filter (· ≠ 0)).length
  if new.any (·.2) || old.any (·.2) then (1, n.map fun b => (b, true))
  else if !kept then (1, clean n)
  else if nz = 0 then (2, [])
  else if 64 + nz < n.length then
    (0, clean (leBytes 64 (((upFrom 0 d.length).zip d).foldl (fun a x => a + (if x.2 = 0 then 0 else 2 ^ x.1)) 0) ++ d.filter (· ≠ 0)))
  else (1, clean n)

/-- A delta record (Table 13.4), its body padded to a multiple of 8. -/
def deltaBytes (epoch base layId coding entry block check : Nat) (body : List PByte) : List PByte :=
  clean (leBytes 4 epoch ++ leBytes 4 base ++ leBytes 8 layId ++ leBytes 4 (coding * 2 ^ 22 + entry) ++ leBytes 4 block ++ leBytes 8 check)
    ++ body ++ List.replicate ((8 - body.length % 8) % 8) (0, false)

/-! ## DELTA SEND (R287) -/

def isDelta (c : Nat) : Bool := cwFunc c = 9

/-- What a DELTA entry keeps block by block: SAME blocks not sent yet and the first of them, and records sent. -/
structure DeltaAcc where
  same : Nat
  first : Nat
  sent : Nat
deriving DecidableEq, Repr

/-- DELTA SEND. -/
def State.deltaFn (s : State) (core : Nat) (g : Bool) (r : Run) : State :=
  let w := r.wing
  let tr := (s.job w).turn
  let c := bits (cwArg r.cfg 1) 0 17
  let stop (s : State) (k : Nat) : State := s.modRun core g fun y => { y with fstat := k * 2 ^ 28 }
  match tr.pend with
  | none => stop s 1
  | some (base, _) =>
    let es := s.pendEnts w
    match es[c]? with
    | none => stop s 2
    | some e =>
      if e.role ≠ 2 then stop s 2 else
      match refOf es e with
      | none => stop s 3
      | some rf =>
        if !s.layMine w rf then stop s 3 else
        let s := (s.fetchIn w (base + 64 + 32 * c) 32).fetchIn w (base + 8) 8
        let kept := keptEnt (s.curEnts w) es e
        let layId := s.peekN w (base + 8) 8
        let ep := (tr.lep + 1) % 2 ^ 32
        let q := s.queueOf w (bits (s.we w Reg.wngTurnCtrl) 0 3)
        let send (s : State) (coding b check : Nat) (body : List PByte) : State :=
          let rec_ := deltaBytes ep tr.lep layId coding c b check body
          if s.namesMe e.gaddr then s.arrive 3 (s.ownRec w e.wing none rec_)
          else (s.sendRecord 6 w e.wing (e.gaddr / 2 ^ 47) q r.rank rec_).1
        let b0 := cwArg r.cfg 2
        let nb := bits (cwArg r.cfg 3) 0 22
        let flush (a : DeltaAcc) (s : State) : DeltaAcc × State :=
          if a.same = 0 then (a, s) else (⟨0, 0, a.sent + 1⟩, send s 2 a.first a.same [])
        -- a GADDR that names no module is refused (R26)
        if !s.namesMe e.gaddr && s.hallCount ≤ e.gaddr / 2 ^ 47 then
          (s.refuse w e.loc true).modRun core g fun y => { y with fault := true }
        else
        let (a, s) := (upFrom b0 (min (b0 + nb) e.nb - b0)).foldl (fun (acc : DeltaAcc × State) b =>
          match acc.2.runAt core g with
          | none => acc
          | some y =>
            if y.fault then acc else
            let n := e.blen b
            let oa := rf.loc + refOff rf e b
            let na := rf.nloc + refOff rf e b
            let ok (x : Nat) : Bool := acc.2.mappedIn w r.bank [1, 2] x n
            if !ok oa || !ok na then
              (acc.1, (acc.2.refuse w (if ok oa then na else oa) false).modRun core g fun y => { y with fault := true })
            else
              let (old, s) := acc.2.read (acc.2.entryReq r false) oa n
              let (new, s) := s.read (s.entryReq r false) na n
              let s := s.inputs core g (b2n (old.any (·.2) || new.any (·.2)))
              let (coding, body) := codeDelta kept new old
              if coding = 2 then
                let (a, s) := if acc.1.same = 65535 then flush acc.1 s else (acc.1, s)
                ({ a with same := a.same + 1, first := if a.same = 0 then b else a.first }, s)
              else
                let (a, s) := flush acc.1 s
                ({ a with sent := a.sent + 1 }, send s coding b (shakeCheck (new.map (·.1))) body)) (⟨0, 0, 0⟩, s)
        let (a, s) := flush a s
        s.modRun core g fun y => { y with fstat := min a.sent (2 ^ 28 - 1) }

/-! ## TURN_LAND and TURN_ABORT (R293, R294, R297) -/

def spcTurnLand : CmdSpec := ⟨0x401, true, true, false, [0xFFFFFFFFFFFF, 0x10003FFFF, 0xFFFFFFFF]⟩
def spcTurnAbort : CmdSpec := ⟨0x402, true, true, false, []⟩

/-- TURN_LAND at acceptance. Failed blocks get four fresh attempts. -/
def State.cmdTurnLand (s : State) (c : Cmd) : State :=
  let w := c.wing
  let tr := (s.job w).turn
  let t := c.arg 0
  let h := bits (c.arg 1) 0 16
  let seq := bits (c.arg 1) 16 2
  let flip := bit (c.arg 1) 32
  let snap : Bool := s.seqCount w = 0 || s.mappedIn w (s.bankNow w) [1] (addrOf (s.wr w Reg.wngTurnSnap) 6) (16 + 4 * s.seqCount w)
  if tr.pend.isNone then s.complete c St.noLayout 0 []
  else if tr.land.isSome then s.complete c St.landPending 0 []
  else if !treadReached (treadAdd c.at_ 2) t then s.complete c St.treadPast 0 []
  else if seq = 3 || h = 0 || !snap then s.complete c St.badArg 0 []
  else match (if !flip then none else if (s.wing w).load.bad then some St.shardBad else s.flipRefusal w (c.arg 2)) with
    | some st => s.complete c st 0 []
    | none =>
      let s := s.modTurn w fun x => { x with land := some ⟨t, h, flip, c.arg 2, seq, c.cid⟩, failed := [] }
      (if flip then s.modVr w fun v => { v with pend := some ⟨c.arg 2, none, t, none⟩ } else s).hold c

/-- TURN_ABORT at acceptance. -/
def State.cmdTurnAbort (s : State) (c : Cmd) : State :=
  if (s.job c.wing).turn.pend.isNone then s.complete c St.noLayout 0 [] else s.hold c

/-- An outstanding TURN_LAND ends; a flip that it carries ends with it. -/
def State.turnEnd (s : State) (w status : Nat) : State :=
  match (s.job w).turn.land with
  | none => s
  | some l =>
    let s := (s.modTurn w fun t => { t with land := none }).modVr w fun v =>
      { v with pend := match v.pend with | some f => if f.cid.isNone then none else some f | none => none }
    match s.newel.out.find? fun c => c.cid = l.cid with
    | some c => s.finish c status []
    | none => s

/-- TURN_ABORTs whose boundary has come. -/
def State.turnAborts (s : State) (w : Nat) : State :=
  ((s.outOf 0x402 w).filter s.isDue).foldl (fun s c =>
    if (s.job w).turn.pend.isNone then s.finish c St.aborted []
    else
      let s := (((s.mapClear w).turnEnd w St.aborted).orphanRaws w).modTurn w fun t => { t with pend := none, raws := [], failed := [], checks := [] }
      s.finish c St.ok []) s

/-- Any GRAD exchange of the wing is OPEN. -/
def State.gradAny (s : State) (w : Nat) : Bool :=
  (upFrom 0 (s.xchCount w)).any fun x => match s.xchEnt w x 3 with | some y => y.state = 1 | none => false

/-- What happens to a landing window at a boundary (R294). -/
inductive TurnStep
  | wait | land | bad | timeout
deriving DecidableEq, Repr

def State.turnStep (s : State) (w : Nat) : TurnStep :=
  let tr := (s.job w).turn
  match tr.land with
  | none => .wait
  | some l =>
    if !tr.failed.isEmpty then .bad
    else if treadReached (treadAdd l.t l.h) s.tread then .timeout
    else if treadReached l.t s.tread && tr.landed = tr.expect && !(s.xchAction w).gradAny w && !(l.wflip && s.wingBusy w) then .land
    else .wait

/-- The sequence policy that acts at 4b and 4f of a boundary. -/
def State.turnPolicy (s : State) (w : Nat) (k : TurnStep) : Nat :=
  match k, (s.job w).turn.land with
  | .land, some l => l.seq
  | _, _ => 0

/-- 4j of a landing. -/
def State.turnFlip (s : State) (w : Nat) (k : TurnStep) : State :=
  match k, (s.job w).turn.land with
  | .land, some l => if l.wflip then s.flipLand w l.e else s
  | _, _ => s

/-- The snapshot of R296. -/
def State.snapshot (s : State) (w : Nat) : State :=
  let n := s.seqCount w
  if n = 0 then s else
  s.portWrite w (addrOf (s.wr w Reg.wngTurnSnap) 6) (clean (leBytes 8 (s.tread * 65536) ++ leBytes 4 (s.job w).vr.wep
    ++ leBytes 4 (s.job w).turn.lep ++ (upFrom 0 n).flatMap fun i =>
      leBytes 4 (rwState (s.rowBytes w i) * 2 ^ 28 + rwLen (s.rowBytes w i) % 2 ^ 21)))

/-- The turn's part of 4n. -/
def State.turnAction (s : State) (w : Nat) (k : TurnStep) : State :=
  match k, (s.job w).turn.land with
  | .land, some l =>
    let s := ((s.gradDiscard w).mapClear w).orphanRaws w
    let s := s.modTurn w fun t => { t with cur := t.pend, pend := none, lep := (t.lep + 1) % 2 ^ 32, raws := [], checks := [] }
    (s.snapshot w).turnEnd w (if l.t = s.tread then St.ok else St.landLate)
  | .bad, _ => s.turnEnd w St.blockBad
  | .timeout, _ => s.turnEnd w St.landTimeout
  | _, _ => s

/-! ## Mirroring, the sender (R328, R329, R331) -/

def State.modMir (s : State) (w : Nat) (f : Mirror → Mirror) : State := s.modJob w fun j => { j with mir := f j.mir }

/-- A mirror descriptor (Table 14.8). -/
structure MirDesc where
  src : Nat
  refa : Nat
  tdst : Nat
  nblk : Nat
  twing : Nat
deriving DecidableEq, Repr

def State.mirCount (s : State) (w : Nat) : Nat := bits (s.wr w Reg.wngMir) 48 12

/-- A descriptor of the wing's mirror table; one outside the wing's HBM window names no blocks (log entry 32). -/
def State.mirDesc (s : State) (w i : Nat) : MirDesc :=
  let a := addrOf (s.wr w Reg.wngMir) 5 + 32 * i
  let b := if s.mappedIn w (s.bankNow w) [1] a 32 then s.peek w (s.bankNow w) a 32 else []
  ⟨fieldN b 0 8 % 2 ^ 47, fieldN b 8 8 % 2 ^ 47, fieldN b 16 8 % 2 ^ 47, fieldN b 24 4, fieldN b 28 4 % 32⟩

/-- Send a record on T (R327, R329, R348); `true` when it was queued. A record that cannot go counts in UNREACH for each of its frames (R325). -/
def State.sendT (s : State) (w twing dst q addr nblk : Nat) (body : List PByte) : State × Bool :=
  let p := s.wingPool 8 4 w
  let m := let m := min 4096 (64 * p - 32); m - m % 8
  let k := let m := if m = 0 then 4096 else m; max 1 ((body.length + m - 1) / m)
  if !s.inHall then (s, false)
  else if !s.portOpen 8 || m = 0 then (s.perr 8 Perr.unreach k, false)
  else
    let cs := (upFrom 0 k).map fun i => (body.drop (i * m)).take m
    let rid := s.fab.nextRid
    let s := { s with fab := { s.fab with nextRid := rid + 1 } }
    let fs := ((upFrom 0 cs.length).zip cs).map fun (i, c) =>
      QFrame.mk { typ := 7, vc := 0, pzn := c.any (·.2), first := i = 0, last := i + 1 = cs.length, prio := q, dst := dst, src := s.me
                  dwing := twing, swing := w, lenw := (c.length + 7) / 8, pool := w, tag := 0, status := 0, addr := addr, epoch := nblk
                  rlen := 0, rsv := false, payload := c.map (·.1) } q w 2046 rid none
    (s.modPort 8 fun x => { x with txq := x.txq ++ fs }, true)

/-- The twin's module number, as T hears it. -/
def State.twin (s : State) : Nat := (s.port 8).neigh

/-- A mirror record of the wing's round. -/
def State.mirSend (s : State) (w : Nat) (twing addr nblk coding entry block check : Nat) (body : List PByte) : State × Bool :=
  let m := (s.job w).mir
  s.sendT w twing s.twin (s.queueOf w (bits (s.wr w Reg.wngMir) 60 3)) addr nblk
    (deltaBytes m.round ((m.round + 2 ^ 32 - 1) % 2 ^ 32) 0 coding entry block check body)

/-- The SAME blocks not sent yet go out as one record; `b`: the block behind the last of them. -/
def State.mirFlush (s : State) (w i b : Nat) : State :=
  let m := (s.job w).mir
  if m.same = 0 then s
  else
    let d := s.mirDesc w i
    let b0 := b - m.same
    (s.mirSend w d.twing (d.tdst + 4096 * b0) d.nblk 2 i b0 m.same []).1.modMir w fun y => { y with same := 0 }

/-- The first descriptor from `i` on that holds blocks. -/
def State.mirFrom (s : State) (w i : Nat) : Option Nat := (upFrom i (s.mirCount w - i)).find? fun k => (s.mirDesc w k).nblk ≠ 0

/-- MIRROR_BLOCK. -/
def State.opMirBlock (s : State) (w : Nat) : State :=
  let m := (s.job w).mir
  if !m.run || (s.wing w).quiet then s else
  match s.mirFrom w m.desc with
  | none => s
  | some i =>
    let s := s.fetchIn w (addrOf (s.wr w Reg.wngMir) 5 + 32 * i) 32
    let d := s.mirDesc w i
    let b := m.block
    let read (s : State) (a : Nat) : List PByte × State :=
      if s.mappedIn w (s.bankNow w) [1, 2] a 4096 then s.read (s.reqOf w) a 4096 else (List.replicate 4096 (0, true), s.refuse w a false)
    let (new, s) := read s (d.src + 4096 * b)
    let (old, s) := read s (d.refa + 4096 * b)
    let (coding, body) := codeDelta (!m.dirty) new old
    let s :=
      if coding = 2 then
        (if (s.job w).mir.same = 65535 then s.mirFlush w i b else s).modMir w fun y => { y with same := y.same + 1 }
      else ((s.mirFlush w i b).mirSend w d.twing (d.tdst + 4096 * b) d.nblk coding i b (shakeCheck (new.map (·.1))) body).1
    let s := if s.mappedIn w (s.bankNow w) [1, 2] (d.refa + 4096 * b) 4096 && !s.barred w (d.refa + 4096 * b) 4096 then s.write (s.reqOf w) (d.refa + 4096 * b) new
      else s.refuse w (d.refa + 4096 * b) false
    let last : Bool := b + 1 ≥ d.nblk
    let s := if last then s.mirFlush w i (b + 1) else s
    s.modMir w fun y => { y with desc := if last then i + 1 else i, block := if last then 0 else b + 1, count := (y.count + 1) % 2 ^ 32 }

/-- MIRROR_COMMIT_SEND: after the last block, the COMMIT record; the round commits, or fails when T cannot take the record (R331). -/
def State.opMirCommitSend (s : State) (w : Nat) : State :=
  let m := (s.job w).mir
  if !m.run || (s.wing w).quiet || (s.mirFrom w m.desc).isSome then s
  else
    let tw := if s.mirCount w = 0 then 0 else (s.mirDesc w (s.mirCount w - 1)).twing
    let (s, ok) := s.mirSend w tw 0 0 3 0 m.count ((s.job w).vr.wep * 2 ^ 32 + (s.job w).turn.lep) []
    s.modMir w fun y => { y with run := false, done := ok, dirty := !ok }

/-- 4n of a boundary at which the wing's layout or weight epoch changed: a round starts, or is skipped. -/
def State.mirStart (s : State) (w : Nat) : State :=
  if !bit (s.wr w Reg.wngMir) 63 then s
  else s.modMir w fun m =>
    if m.run then { m with skipped := sat 16 (m.skipped + 1) }
    else { m with round := (m.round + 1) % 2 ^ 32, run := true, done := false, desc := 0, block := 0, count := 0, same := 0 }

/-- A failure reply at the sender: the round of that number fails; any other is dropped. A wing that does not mirror counts it in
MALFORMED of T (Table 14.9). -/
def State.opMirReply (s : State) (r : RecIn) : State :=
  let h := fieldN r.bytes 16 4
  if r.port ≠ 8 || (s.port 8).st ≠ 2 || bits h 22 2 ≠ 3 || bits h 0 17 ≠ 1 then s
  else
    let s := (s.chargeRecord r).recordGone r
    if !bit (s.wr r.dwing Reg.wngMir) 63 then s.perr 8 Perr.malformed 1
    else if fieldN r.bytes 0 4 = (s.job r.dwing).mir.round then
      s.modMir r.dwing fun m => { m with run := false, done := false, dirty := true }
    else s

/-! ## Mirroring, the twin (R330) -/

/-- A failure reply: the round fails and the sender hears of it. -/
def State.mirRefuse (s : State) (r : RecIn) : State :=
  let w := r.dwing
  let rr := ((s.job w).mir.rr).getD 0
  ((s.modMir w fun m => { m with failed := true }).sendT w r.swing r.src (s.queueOf w (bits (s.wr w Reg.wngMir) 60 3)) 0 0 (deltaBytes rr 0 0 3 1 0 0 [])).1

/-- The rows of Table 14.9 that come first: receive mode, age, a new round, the failed flag; then `f`. -/
def State.mirRow (s : State) (r : RecIn) (f : State → State) : State :=
  let w := r.dwing
  let e := fieldN r.bytes 0 4
  if !bit (s.wr w Reg.wngMirRx) 30 then s.perr 8 Perr.malformed 1
  else
    let go (s : State) : State := if (s.job w).mir.failed then s else f s
    let fresh (s : State) : State := s.modMir w fun m => { m with rr := some e, landed := 0, failed := false }
    match (s.job w).mir.rr with
    | none => go (fresh s)
    | some rr =>
      let d := (e + 2 ^ 32 - rr) % 2 ^ 32
      if d = 0 then go s else if d < 2 ^ 31 then go (fresh s) else s.perr 8 Perr.malformed 1

/-- A mirror record for this module at T. -/
def State.tRow (s : State) (r : RecIn) (clk : Nat) (f : State → State) : State :=
  if r.port ≠ 8 || (s.port 8).st ≠ 2 then s else f (((s.at_ clk).chargeRecord r).recordGone r)

/-- MIRROR_RECORD: a block record at the twin. -/
def State.opMirRecord (s : State) (r : RecIn) (clk : Nat) : State :=
  let h := fieldN r.bytes 16 4
  let coding := bits h 22 2
  if coding = 3 then s else
  s.tRow r clk fun s => s.mirRow r fun s =>
    let w := r.dwing
    let m := (s.job w).mir
    let check := fieldN r.bytes 24 8
    let run := if coding = 2 then check % 65536 else 1
    let oldA (i : Nat) : Nat := r.addr + m.half * r.nblk * 4096 + 4096 * i
    let newA (i : Nat) : Nat := r.addr + (1 - m.half) * r.nblk * 4096 + 4096 * i
    let bad := ((upFrom 0 run).flatMap fun i => [oldA i, newA i]).find? fun a =>
      !s.mappedIn w (s.bankNow w) [1, 2] a 4096 || ((upFrom 0 run).any (fun i => a = newA i) && s.barred w a 4096)
    match bad with
    | some a => (s.refuse w a false).mirRefuse r
    | none =>
      if r.pzn then s.mirRefuse r
      else if coding = 1 then
        let new := sliceB (r.bytes.drop 32) 0 4096
        if shakeCheck new = check then (s.write (s.reqOf w) (newA 0) (clean new)).modMir w fun m => { m with landed := (m.landed + 1) % 2 ^ 32 }
        else s.mirRefuse r
      else
        let (olds, s) := (upFrom 0 run).foldl (fun (acc : List (List PByte) × State) i =>
          let (o, s) := acc.2.read (acc.2.reqOf w) (oldA i) 4096
          (acc.1 ++ [o], s)) ([], s)
        if olds.any fun o => o.any (·.2) then s.mirRefuse r
        else if fieldN r.bytes 4 4 ≠ m.cround then s.mirRefuse r
        else if coding = 2 then
          (((upFrom 0 olds.length).zip olds).foldl (fun s x => s.write (s.reqOf w) (newA x.1) x.2) s).modMir w fun m =>
            { m with landed := (m.landed + run) % 2 ^ 32 }
        else
          let old := (olds.headD []).map (·.1)
          let body := r.bytes.drop 32
          let new := applyMap (sliceB body 0 64) 0 old (body.drop 64)
          if shakeCheck new = check then (s.write (s.reqOf w) (newA 0) (clean new)).modMir w fun m => { m with landed := (m.landed + 1) % 2 ^ 32 }
          else s.mirRefuse r

/-- MIRROR_COMMIT: a COMMIT record at the twin. -/
def State.opMirCommit (s : State) (r : RecIn) (clk : Nat) : State :=
  let h := fieldN r.bytes 16 4
  if bits h 22 2 ≠ 3 || bits h 0 17 ≠ 0 then s else
  s.tRow r clk fun s => s.mirRow r fun s =>
    let w := r.dwing
    if fieldN r.bytes 20 4 = (s.job w).mir.landed then
      s.modMir w fun m => { m with
        half := 1 - m.half, cround := fieldN r.bytes 0 4, wepoch := fieldN r.bytes 28 4, lepoch := fieldN r.bytes 24 4
        rr := none, landed := 0, failed := false }
    else s.mirRefuse r

/-! ## Delivery (R313, R317, R324) -/

/-- A request or response frame for this module is handled as its own row does. -/
def State.serveFrame (s : State) (p : Nat) (f : Frame) : State :=
  let clk := s.time.phase
  match f.typ with
  | 0 => s.opRdreq p f clk
  | 2 => s.opWrreq State.barred p f clk
  | 8 => s.opRawreq p f clk
  | 1 => s.opResponse p f clk 1 fun s _ => s.rawSettle
  | 3 => s.opResponse p f clk 3 fun s _ => s.rawSettle
  | _ => s

/-- A record that the receiver joined is handled as its own row does. A CODING 3 record that is neither COMMIT nor failure reply is malformed. -/
def State.deliverRec (s : State) (typ : Nat) (r : RecIn) : State :=
  if typ ≠ 7 then s.deliverMsg typ r
  else
    let h := fieldN r.bytes 16 4
    if bits h 22 2 ≠ 3 then s.opMirRecord r s.time.phase
    else if bits h 0 17 = 0 then s.opMirCommit r s.time.phase
    else if bits h 0 17 = 1 then s.opMirReply r
    else (s.recordGone r).perr 8 Perr.malformed 1

end Sys2Proof.Machine
end

