-- ==== Sys2Proof/Machine/Validate.lean ====
section
/-!
DEFINITION. The validator (spec/16_newel.md R377 to R379, with the checks of R48, R63, R64, R82, R105, R153, R177, R191, R215, R218, R225,
R233, R238 to R241, R252, R253, R256 to R260, R265, R266, R275, R286, R287, R341): configuration words, flights and guest flights. The
order in which failures are looked for is the model's (log entry 30).
-/
namespace Sys2Proof.Machine

/-- A failure: the reason of Table 16.6 and R0 to R2 (R377). -/
structure Bad where
  reason : Nat
  r0 : Nat
  r1 : Nat
  r2 : Nat
deriving DecidableEq, Repr

/-- The value of a location field that does not apply. -/
def naLoc : Nat := 0xFFFFFFFF

/-! Reasons of Table 16.6. -/
namespace Why
abbrev window : Nat := 1
abbrev field : Nat := 2
abbrev count : Nat := 3
abbrev guest : Nat := 4
abbrev pair : Nat := 5
abbrev budget : Nat := 6
abbrev hbmBytes : Nat := 7
abbrev overlap : Nat := 8
abbrev placement : Nat := 9
abbrev store : Nat := 10
end Why

/-- The lowest reason among the checks that failed. -/
def lowest : List (Bool × Nat) → Option Nat
  | [] => none
  | (f, r) :: rest => match lowest rest with
    | none => if f then some r else none
    | some q => some (if f && r < q then r else q)

/-- The first failure that a check finds along a list. -/
def firstBad {α β : Type} (f : α → Option β) : List α → Option β
  | [] => none
  | x :: xs => match f x with
    | some b => some b
    | none => firstBad f xs

/-- The first failure of a list of checks made in order. -/
def firstOf {β : Type} : List (Option β) → Option β
  | [] => none
  | some b :: _ => some b
  | none :: rest => firstOf rest

/-- The bytes of a wing's table as the newel reads them; none when a word of them reads poisoned (R377). -/
def State.tableRead (s : State) (w a n : Nat) : Option (List Byte) :=
  let bad := (linePieces a n).any fun p =>
    let y := s.mapAddr w (s.bankNow w) p.1
    s.behind y ≠ .plain || s.timedOut y || s.region y = .unmapped || (errWords s.mem.errs y p.2).any fun k => !synCorrectable (Tab.cnt s.mem.errs k)
  if bad then none else some (s.peek w (s.bankNow w) a n)

/-- A table's range lies in the wing's HBM window. -/
def State.tableIn (s : State) (w a n : Nat) : Bool := s.mappedIn w (s.bankNow w) [1] a n

/-! ## Configuration words (R64, R65, R111, R112) -/

/-- Splittable formats (Table 5.3). -/
def fmtSplit (c : Nat) : Bool := [2, 3, 10, 11, 16].contains c

/-- The word uses SQACC (Table 3.5). -/
def cwSqacc (c : Nat) : Bool := (upFrom 0 4).any fun i => cwEpi c i = 0xA

/-- The formats that a word's function uses for X, W, Y and Z (R483). -/
def cwUsesX (c : Nat) : Bool := [0, 1, 2, 3, 7, 8].contains (cwFunc c) || isReduce 6 c
def cwUsesW (c : Nat) : Bool := [1, 2, 3, 7].contains (cwFunc c)
def cwShares (c : Nat) : Nat := bits (cwArg c 1) 8 12
def cwUsesY (c : Nat) : Bool :=
  [0, 1, 3, 7, 8].contains (cwFunc c) || (cwFunc c = 2 && (!cwWalk c || cwShares c = 1)) || isReduce 6 c || isReduce 7 c
def cwUsesZ (c : Nat) : Bool := cwFunc c = 1 && cwAmode c = 3

/-- AMODE values that a function accepts (Table 3.3). -/
def amodeOk (func amode : Nat) : Bool :=
  match func with
  | 1 => 1 ≤ amode && amode ≤ 6
  | 2 => amode = 1 || amode = 2
  | 3 => amode = 1
  | 7 => amode = 4
  | _ => amode = 0

/-- The pair and PASS rules of R111 and R112 for a streamed and a stationary format. -/
def passOk (pass x w : Nat) : Bool :=
  pairOk x w && (pass ≠ 2 || fmtSplit x)
    && (pass ≠ 3 || (fmtSplit x && fmtSplit w && (x = w || (x = 10 && w = 16) || (x = 16 && w = 10))))

/-- The argument bits that a word's function assigns. -/
def argMask (c : Nat) : List Nat :=
  let sq := if cwSqacc c then 7 else 0
  match cwFunc c with
  | 0 => [sq, 0x80000000, 0, 0]
  | 1 => [sq, 0x80000000, 0x80000FFF, 0x8000000F]
  | 2 => if cwWalk c then [0xFFFFFFFF, 0xFFFFFFFF, 0xFFFFFF, 0x8000000F] else [0, 0, 0, 0x8000000F]
  | 3 => [0xFFFF007F, 0x0FFF0FFF, 0xFFFF, 0x8000000F]
  | 4 => match bits (cwArg c 0) 0 4 with
    | 0 => [0xFFFF000F, 0xFFFF3FFF, 0x7FFF, 0x8000000F]
    | 1 => [0xFF, 0x03FF03FF, 0, 0x8000000F]
    | _ => [0xF, 0x03FF03FF, 0, 0x8000000F]
  | 5 => match bits (cwArg c 0) 0 4 with
    | 0 => [0x1FFF, 0xFFFF0FFF, 0x1FFFF, 0xFFFFF]
    | 1 => [0xF, 0xFFF, 0, 0]
    | 2 => [0xF, 0xF0FFF, 0, 0]
    | 3 => [0xF, 0xF0FFF, 0, 0]
    | 4 => [0xFFFF000F, 0xFFF, 0, 0]
    | 5 => [0xF, 0xFFF, 0x03FF03FF, 0]
    | 6 => [0xF, 0xFFF, 0x03FF03FF, 0]
    | _ => [0xF, 0xFFF, 0, 0]
  | 6 => [if bits (cwArg c 0) 0 4 = 0 then 0x1F else 0xF, 0, 0, 0]
  | 7 => [0x13F, 0, 0, 0]
  | 8 => [0, 0, 0, 0]
  | _ => [0xF, 0x1FFFF, 0xFFFFFFFF, 0x3FFFFF]

/-- An argument field outside the range that its function's chapter gives. -/
def State.argBad (s : State) (w c : Nat) : Bool :=
  let a (i : Nat) : Nat := cwArg c i
  match cwFunc c with
  | 1 => bit (a 2) 31 && !bit (a 3) 31
  | 2 => cwWalk c && (!bit (a 3) 31 || cwShares c = 0 || bits (a 1) 20 12 ≥ cwShares c || bits (a 2) 0 8 = 0 || bits (a 2) 0 8 > 128
      || bits (a 1) 0 8 ≥ (s.kvGeom w).layers)
  | 3 => bits (a 0) 3 2 = 3 || bits (a 2) 0 16 = 0 || cwN c > 4096
  | 4 => match bits (a 0) 0 4 with
    | 0 => bits (a 0) 16 16 = 0 || bits (a 1) 16 16 = 0 || bits (a 1) 16 16 > 4096 || bits (a 1) 0 14 + bits (a 2) 0 15 > s.seqCount w
    | 1 => bits (a 1) 0 10 = 0 || bits (a 1) 0 10 > 800
    | 2 => bits (a 1) 0 10 = 0 || bits (a 1) 0 10 > 800
    | _ => true
  | 5 =>
    let op := bits (a 0) 0 4
    let cm := bits (a 0) 4 2
    let kt := bits (a 0) 6 6
    op > 7 || (op = 0 && (cm = 3 || (if cm = 2 then kt = 0 || kt > 32 else kt ≠ 0)))
  | 6 => bits (a 0) 0 4 > 4
  | 7 => bits (a 0) 0 6 > 6
  | 9 => bits (a 0) 0 4 ≠ 0 || bits (a 3) 0 22 = 0
  | _ => false

/-- The reason for which a configuration word is refused, if it is. -/
def State.wordBad (s : State) (w c : Nat) : Option Nat :=
  let f := cwFunc c
  let am := cwAmode c
  let epi := (upFrom 0 4).map (cwEpi c)
  let need (use : Bool) (code : Nat) : Bool := code > 18 || (use && code = 0)
  lowest
    [(f > 9, Why.field), (cwPass c = 0, Why.field), (!amodeOk f am, Why.field),
     (bits c 0 17 ≠ 0 || bits c 32 12 ≠ 0 || bits c 192 12 ≠ 0 || bits c 352 160 ≠ 0, Why.field),
     (cwWalk c && f ≠ 2, Why.field),
     (cwAcc c && [3, 4, 5, 6, 9].contains f, Why.field),
     (need (cwUsesX c) (cwFmtX c) || need (cwUsesW c) (cwFmtW c) || need (cwUsesY c) (cwFmtY c), Why.field),
     (if cwUsesZ c then need true (cwFmtZ c) else cwFmtZ c ≠ 0, Why.field),
     (if am = 0 then cwM c ≠ 0 || cwK c ≠ 0 || cwN c ≠ 0 else cwM c = 0 || cwK c = 0 || cwN c = 0, Why.field),
     (epi.contains 0xF || (epi.dropWhile (· ≠ 0)).any (· ≠ 0), Why.field),
     (cwSqacc c && (f > 1 || bits (cwArg c 0) 0 3 > 4), Why.field),
     ((upFrom 0 4).any fun i => cwArg c i &&& (argMask c).getD i 0 ≠ cwArg c i, Why.field),
     (s.argBad w c, Why.field),
     (am ≠ 0 && !passOk (cwPass c) (cwFmtX c) (cwFmtW c), Why.pair),
     (am = 3 && cwPass c = 2, Why.pair)]

/-- The first failing word of [lo, lo + n) of a store at `base`. -/
def State.wordsBad (s : State) (w base lo n : Nat) : Option Bad :=
  firstBad (fun (i : Nat) => match s.tableRead w (base + 64 * i) 64 with
    | none => some ⟨Why.field, i, naLoc, naLoc⟩
    | some b => (s.wordBad w (leNat b)).map fun q => ⟨q, i, naLoc, naLoc⟩) (upFrom lo n)

/-! ## Blocks (R153, R233, R483) -/

/-- The code that a use's blocks must carry, where the word's function uses the format (R483, R199). -/
def useCode (c use : Nat) : Option Nat :=
  match use with
  | 0 => if cwUsesX c then some (cwFmtX c) else none
  | 1 => if cwUsesW c then some (cwFmtW c) else none
  | 2 => if cwUsesY c then some (cwFmtY c) else if cwFunc c = 2 && cwWalk c then some 1 else none
  | 3 => if cwUsesZ c then some (cwFmtZ c) else none
  | _ => none

/-- LEN fits the format. -/
def lenOk (fmt len : Nat) (split : Bool) : Bool :=
  let g := match fmtInfo fmt with
    | some f => if f.kind ≥ 2 then f.group * (if split then 2 else 1) else if f.ebits = 6 then 24 else 8
    | none => 8
  len ≠ 0 && len ≤ 1048576 && len % 8 = 0 && len % g = 0

/-- The block names an address of this module. -/
def State.blkHere (s : State) (b : Nat) : Bool := let m := blkAddr b / 2 ^ 47; m = s.me || m = 0x1FFFF

/-- The reason for which a block of an entry of a word is refused, if it is. -/
def State.blkBad (s : State) (w : Nat) (guest : Bool) (c b : Nat) : Option Nat :=
  let a := blkAddr b % 2 ^ 47
  let dir := blkDir b
  let fmt := blkFmt b
  let here := s.blkHere b
  let tb := addrOf (s.wr w Reg.wngTrnTags) 4
  let inTags := here && tb ≤ a && a < tb + 16 * bits (s.wr w Reg.wngTrnTags) 47 17
  let tag := inTags && dir ≠ 2 && (a - tb) % 16 = 0
  lowest
    [(here && !(if tag then s.mappedIn w (s.bankNow w) [1, 2] a 16 else s.mappedIn w (s.bankNow w) [1, 2] a (blkLen b)), Why.window),
     (dir = 3 || blkUse b = 7 || fmt = 0 || fmt > 18, Why.field),
     (!lenOk fmt (blkLen b) (blkSplit b), Why.field),
     ((match useCode c (blkUse b) with | some k => fmt ≠ k | none => false), Why.field),
     (blkSplit b && (!fmtSplit fmt || (dir = 1 && blkHalf b = 1 && cwGrad c)), Why.field),
     (blkLoff b + blkLen b > (if guest then 262144 else 1048576), Why.field),
     (bits b 64 16 ≠ 0 || bits b 116 12 ≠ 0 || bits b 149 11 ≠ 0 || bits b 160 15 ≠ 0 || bits b 192 64 ≠ 0 || a % 8 ≠ 0, Why.field),
     (dir = 2 && (blkHalf b ≠ 0 || blkLoff b ≠ 0), Why.field),
     (!fmtTensor fmt && (blkScl b ≠ 0 || blkAge b), Why.field),
     (dir = 2 && (!here || (s.region a).kind = 0), Why.field),
     (inTags && !tag, Why.field)]

/-- Two blocks of an entry overlap in local SRAM (R379). -/
def blksOverlap (x y : Nat) : Bool :=
  blkDir x ≠ 2 && blkDir y ≠ 2 && blkHalf x = blkHalf y && overlaps (blkLoff x) (blkLen x) (blkLoff y) (blkLen y)
    && !(blkUse x = blkUse y && blkDir x ≠ blkDir y)

/-- The first block that overlaps an earlier one. -/
def overlapAt : List Nat → List Nat → Nat → Option Nat
  | _, [], _ => none
  | before, b :: rest, i => if before.any (blksOverlap b) then some i else overlapAt (before ++ [b]) rest (i + 1)

/-- The balance that R153 asks of an INDEP list. -/
def indepOk (bl : List Nat) : Bool :=
  let h := bl.length / 2
  let cnt (l : List Nat) (u : Nat) : Nat × Nat := let x := l.filter fun b => blkUse b = u; (x.length, x.foldl (fun a b => a + blkLen b) 0)
  bl.length % 2 = 0 && (upFrom 0 7).all fun u => cnt (bl.take h) u = cnt (bl.drop h) u

/-! ## Entries of functions -/

/-- Elements of a block: of its hi codes when SPLIT. -/
def blkElemsN (b : Nat) : Nat :=
  match fmtInfo (blkFmt b) with
  | some f => f.elems (blkSpan b)
  | none => 0

/-- The element total of the blocks of a use and direction; one of buffer half 0 has no role in the entry (R156). -/
def roleTotal (bl : List Nat) (use dir : Nat) : Nat :=
  ((bl.filter fun b => blkUse b = use && blkDir b = dir && blkHalf b = 1).map blkElemsN).foldl (· + ·) 0

/-- An exchange entry's own values (R256, Table 12.1). -/
def xchOk (b : List Byte) : Bool :=
  let e := xchDec b
  let w0 := fieldN b 0 4
  let k := e.kind
  let rowFmt : Bool := [1, 2, 3, 10, 11, 16, 17, 18].contains e.fmt && e.d0 ≠ 0 && (e.fmt < 10 || e.d0 % 256 = 0)
  bits w0 0 4 = 0 && bits (fieldN b 12 4) 4 28 = 0 && leNat (sliceB b 40 24) = 0 && e.dl ≠ 0 && fieldN b 16 8 < 2 ^ 47 && fieldN b 16 8 % 64 = 0
    && fieldN b 24 8 < 2 ^ 47 && fieldN b 32 8 < 2 ^ 47
    && (if k = 3 then e.fmt = 0 && e.cmode ≠ 3 && (if e.cmode = 2 then e.ktop ≠ 0 && e.ktop ≤ 32 else e.ktop = 0) && e.nsrc ≠ 0 && e.q ≠ 0
          && e.q ≤ 16 && e.len ≠ 0
        else !e.carry && e.cmode = 0 && e.ktop = 0 && e.lg = 0 && e.a2 = 0 && rowFmt
          && (if k = 1 then e.nsrc ≠ 0 && e.nsrc ≤ 4096 && e.q ≠ 0 && e.d1 ≠ 0 && e.d1 ≤ 4096
              else k = 2 && e.nsrc = 0 && e.q ≠ 0 && e.q ≤ 8 && e.d1 ≠ 0 && e.a1 = 0))

/-- The areas of an exchange entry (R256). -/
def XchEnt.areas (e : XchEnt) : List (Nat × Nat) :=
  if e.kind = 1 then let r := e.d1 * e.nsrc * e.q; [(e.a0, r * e.rowb), (e.a1, 8 * r)]
  else if e.kind = 2 then [(e.a0, e.d1 * e.q * e.rowb)]
  else [(e.a0, 4 * e.len), (e.a1, 4 * e.chunksN), (e.a2, 2 * e.q * 2 ^ e.lg * e.slot)]

/-- The kind that a word's exchange must have, and its XID; none when the word names no exchange of this module. -/
def State.cwXch (s : State) (c : Nat) : Option (Nat × Nat) :=
  if cwFunc c = 3 then some (2, bits (cwArg c 1) 16 12)
  else if cwFunc c = 5 then
    let x := redXid c
    match bits (cwArg c 0) 0 4 with
    | 0 => let m := bits (cwArg c 2) 0 17; if m = s.me || m = 0x1FFFF then some (3, x) else none
    | 1 => some (3, x)
    | 2 => some (3, x)
    | 3 => some (3, x)
    | 7 => some (2, x)
    | _ => some (1, x)
  else none

/-- The reason for which a word's exchange is refused, if it is (R256, R260). `back`: the FMT_Y codes of the flight's RETURN words, the formats
of the expert outputs that the compiler returns; where the flight has none, nothing tells the format (DESIGN CHOICE, log entry 30). -/
def State.xchBad (s : State) (w : Nat) (back : List Nat) (c : Nat) : Option Nat :=
  match s.cwXch c with
  | none => none
  | some (kind, x) =>
    if x ≥ s.xchCount w then some Why.field
    else if !s.tableIn w (s.xchAddr w x) 256 then some Why.window
    else match s.tableRead w (s.xchAddr w x) 64 with
      | none => some Why.field
      | some b =>
        let e := xchDec (b ++ List.replicate 192 0)
        lowest
          [(e.areas.any fun y => !s.tableIn w y.1 y.2, Why.window), (e.kind ≠ kind || !xchOk b, Why.field),
           (cwFunc c = 3 && (e.q ≠ bits (cwArg c 0) 0 3 + 1 || e.d1 < cwM c || !(back.isEmpty || back.contains e.fmt)), Why.field)]

/-- An FP32 pattern is finite, positive, not negative, or in [0, 1). -/
def fpFinite (x : Nat) : Bool := x % 2 ^ 31 < 0x7F800000
def fpPos (x : Nat) : Bool := 0 < x && x < 0x7F800000
def fpNonneg (x : Nat) : Bool := x < 0x7F800000 || x = 0x80000000
def fpUnit (x : Nat) : Bool := x < 0x3F800000 || x = 0x80000000

/-- Scale records of a wing: at most 65,536 (R105). -/
def State.sclRecords (s : State) (w : Nat) : Nat := min (s.wr w Reg.wngSclCount) 65536

/-- The scale record named holds E4M3 and lies below WNG_SCL_COUNT. -/
def State.sclIs (s : State) (w idx : Nat) (ok : Nat → List Byte → Bool) : Bool :=
  idx < s.sclRecords w && s.tableIn w (s.sclAddr w idx) 128 &&
    (match s.tableRead w (s.sclAddr w idx) 128 with | some r => ok (bits (fieldN r 8 4) 0 5) r | none => false)

/-- The layer record of an UPDATE word fails R240. -/
def State.layerBad (s : State) (w c : Nat) : Option Nat :=
  let a := addrOf (s.wr w Reg.wngTrnArea) 20 + 32 * cwLayer c
  if !s.tableIn w a 32 then some Why.window
  else match s.tableRead w a 32 with
    | none => some Why.field
    | some b =>
      let f (i : Nat) : Nat := fieldN b (4 * i) 4
      let w24 := f 6
      let e4 (i : Nat) : Bool := s.sclIs w i fun k _ => k = 4
      if fpPos (f 0) && fpUnit (f 1) && fpUnit (f 2) && fpPos (f 3) && fpFinite (f 4) && fpNonneg (f 4) && fpPos (f 5) && bits (f 7) 0 25 = 0
          && e4 (bits w24 16 16) && (bit (cwArg c 0) 4 || e4 (bits w24 0 16)) then none
      else some Why.field

/-- The blocks of an UPDATE entry disagree with Table 11.5 (R241). Those of buffer half 0 have no role (R156). -/
def State.updateBad (s : State) (w c : Nat) (list : List Nat) : Bool :=
  let bl := list.filter fun b => blkHalf b = 1
  let a := addrOf (s.wr w Reg.wngTrnArea) 20 + 32 * cwLayer c
  let b := s.peek w (s.bankNow w) a 32
  let mscl := fieldN b 26 2
  let rscl := fieldN b 24 2
  let emode := bit (fieldN b 28 4) 25
  let mom := bit (cwArg c 0) 4
  let wrong (x : Nat) : Bool :=
    let d := blkDir x
    let k := blkFmt x
    match blkUse x with
    | 0 => d ≠ 0 || !(k = 1 || k = 2)
    | 1 => d ≠ 1 || !([4, 10, 16, 17, 18].contains k)
    | 2 => d > 1 || k ≠ 2
    | 3 => d > 1 || k ≠ 4 || blkScl x ≠ mscl
    | 5 => mom || d > 1 || k ≠ 4 || blkScl x ≠ rscl
    | 6 => !emode || d > 1 || k ≠ 2
    | _ => true
  let n := roleTotal bl 0 0
  let both (u : Nat) : Bool := roleTotal bl u 0 = n && roleTotal bl u 1 = n
  let copies := bl.filter fun x => blkUse x = 1
  -- a copy that ends in a block-scaled block is padded to a whole group (R92)
  let padded : Bool := match copies.getLast?.bind fun x => fmtInfo (blkFmt x) with
    | some f => f.kind ≥ 2
    | none => false
  let copyN := roleTotal bl 1 1
  bl.any wrong || n = 0 || !both 2 || !both 3 || (!mom && !both 5) || (emode && !both 6) || (!copies.isEmpty && !(if padded then n ≤ copyN && copyN < n + 256 else copyN = n))

/-- The lists of an entry’s arrays: under INDEP each half of the list is one (R152). -/
def sidesOf (c : Nat) (bl : List Nat) : List (List Nat) :=
  if cwAmode c = 4 then [bl.take (bl.length / 2), bl.drop (bl.length / 2)] else [bl]

/-- The reason for which an entry's word and list together are refused, if they are. -/
def State.entryBad (s : State) (w : Nat) (guest : Bool) (c : Nat) (bl : List Nat) : Option Nat :=
  let f := cwFunc c
  let op := bits (cwArg c 0) 0 4
  let tagOf (b : Nat) : Option Nat := if s.blkHere b && blkDir b ≠ 2 then s.tagOf w (blkAddr b % 2 ^ 47) else none
  let tags := bl.filterMap fun b => (tagOf b).map fun t => (b, t)
  let rsize := min (bits (s.wr w Reg.wngTrnStash) 0 13) (bits (s.wr w Reg.wngTrnStash) 13 19) * 1048576
  let aux := (bl.filter fun b => blkUse b = 5).map blkFmt
  let trn := s.wr w Reg.wngTrnStash
  -- an empty table lies in every window
  let in_ (a n : Nat) : Bool := n = 0 || s.tableIn w a n
  let logits := (bl.filter fun b => blkUse b = 0 || blkUse b = 5).all fun b => blkFmt b = 1 || blkFmt b = 2
  let only (p : Nat → Bool) : Bool := bl.all fun b => blkUse b = 6 && blkDir b = 0 && blkFmt b = 1 && p b
  let g := s.kvGeom w
  let evt := s.we w Reg.wngGenEvt
  let cm := bits (cwArg c 0) 4 2
  let emf := if bit (cwArg c 0) 12 then 2 else 1
  lowest
    [-- R253
     ((f = 6 || !tags.isEmpty) && !(in_ (addrOf (s.wr w Reg.wngTrnArea) 20) 0x60080
        && in_ (addrOf (s.wr w Reg.wngTrnTags) 4) (16 * bits (s.wr w Reg.wngTrnTags) 47 17)
        && in_ (bits trn 32 27 * 1048576) (bits trn 13 19 * 1048576)), Why.window),
     -- R191
     (f = 4 && !(in_ (addrOf (s.wr w Reg.wngGenSeq) 8) (256 * s.seqCount w) && in_ (s.ltab w 0) 0x1000000
        && in_ (addrOf (s.wr w Reg.wngGenMask) 4) (16 * min (bits (s.wr w Reg.wngGenMask) 47 17) 65536)
        && in_ (addrOf evt 12) (16 * 2 ^ (min (bits evt 0 4) 12 + 8))), Why.window),
     -- R215
     (cwWalk c && !(in_ (addrOf (s.wr w Reg.wngKvPool) 7) (g.frames * g.fb) && in_ (addrOf (s.wr w Reg.wngKvPst) 6) (4 * g.frames)
        && in_ (addrOf (s.wr w Reg.wngKvPt) 20) (0x100000 + s.seqCount w * 8 * s.kvLp w)), Why.window),
     (cwWalk c && !(g.frames ≠ 0 && g.valid && (!fmtTensor g.lfmt || s.sclIs w g.scl fun _ r => bits (fieldN r 4 4) 11 5 = 0)),
        Why.field),
     -- R202: the latents' format against the expanding weights'
     (cwWalk c && !pairOk g.lfmt (cwFmtW c), Why.pair),
     -- R114: the output blocks of R486
     (cwGrad c && (sidesOf c bl).any (fun l => [2, 3, 5].any fun u => (u ≠ 5 || (f = 4 && op = 1))
        && (l.any fun b => blkUse b = u && blkDir b = 0 && blkHalf b = 1 && blkSplit b)
        && !(l.any fun b => blkUse b = u && blkDir b = 1 && blkHalf b = 1)), Why.field),
     -- R111 for array B of SHARED_DY
     (cwAmode c = 3 && (match aux with | [] => false | x :: xs => xs.any (· ≠ x) || !passOk (cwPass c) x (cwFmtX c)), Why.pair),
     -- R180, R225, R238
     (f = 4 && op ≠ 0 && !logits, Why.field),
     (f = 1 && bit (cwArg c 2) 31 && s.rmax w = 0, Why.field),
     (cwAgain c && !(tags.any fun t => blkDir t.1 = 1), Why.field),
     (tags.any fun t => (s.tagRead w t.2).rboff * 256 + blkLen t.1 > rsize, Why.field),
     -- R239
     (f = 6 && (((op = 1 || op = 2) && !only fun b => blkLen b = 64) || (op = 3 && !only fun _ => true) || (op = 4 && !bl.isEmpty)), Why.field),
     -- R266
     (isReduce 0 c && ((cm = 0 && bl.any fun b => blkUse b = 6)
        || (cm ≠ 0 && (roleTotal bl 6 0 ≠ roleTotal bl 0 0 || roleTotal bl 6 1 ≠ roleTotal bl 0 0 || bl.any fun b => blkUse b = 6 && blkFmt b ≠ emf))
        || bl.any fun b => blkUse b = 0 && blkFmt b > 2), Why.field),
     -- R286, R287
     (f = 8 && (roleTotal bl 0 0 ≠ (if bl.any fun b => blkUse b = 2 && blkDir b = 1 && blkHalf b = 1 then roleTotal bl 2 1 else roleTotal bl 2 0) || bl.any fun b => blkUse b ≠ 0 && blkUse b ≠ 2), Why.field),
     (f = 9 && !bl.isEmpty, Why.field),
     -- R485
     (guest && (upFrom 0 4).any (fun i => cwEpi c i = 0xB || cwEpi c i = 0xC) && cwM c > 32768, Why.field),
     (cwAmode c = 4 && !indepOk bl, Why.field)]

/-! ## The work floor (R378) -/

/-- Twice the clk per product of Table 3.6 for a format. -/
def clk2 (fmt pass : Nat) : Nat := (match fmtClass fmt with | 2 => 1 | 3 => 4 | _ => 2) * pass

/-- The work floor of an entry; `m` is M, or P_CAP for a ragged word. In SPLIT_N the busier array's tiles count (log entry 31). -/
def workFloor (c m : Nat) (bl : List Nat) : Nat :=
  let k := cwK c
  let n := cwN c
  let am := cwAmode c
  let t (x : Nat) : Nat := (x + 63) / 64
  let cc := max (clk2 (cwFmtX c) (cwPass c)) (clk2 (cwFmtW c) (cwPass c))
  let units :=
    if am = 1 then t k * ((t n + 1) / 2) * max m 64 * 2
    else if am = 2 then t k * t n * max m 64
    else if am = 3 then 2 * max (t n * t k * max m 64) (t m * t n * max k 64)
    else t k * t n * max m 64 * 2
  let a := if am = 0 then 0 else cdiv (cc * units * 100) (4 * 97)
  let e := if am = 0 then (bl.map blkElemsN).foldl (· + ·) 0 else if am = 3 then m * k + k * n else if am = 4 then 2 * m * n else m * n
  let v := cdiv (e * (cwStages c).length) 64
  max (a + v) (cdiv ((bl.map blkLen).foldl (· + ·) 0) 256)

/-! ## Flights -/

/-- A flight's header as read. -/
structure FlHead where
  hdr : Nat
  fid : Nat
  len : Nat
  rep : Nat
  hall : Bool
  base : Nat
  n : Nat
  rsv : Bool
deriving DecidableEq, Repr

/-- The fields of Table 2.5. -/
def flHead (hdr : Nat) (b : List Byte) : FlHead :=
  let w0 := fieldN b 0 4
  let w8 := fieldN b 8 8
  let w16 := fieldN b 16 4
  { hdr := hdr, fid := bits w0 0 16, len := bits w0 16 13, rep := fieldN b 4 4, hall := bit w0 29, base := bits w8 6 41 * 64, n := bits w16 0 10
    rsv := bits w0 30 2 ≠ 0 || bits w8 47 17 ≠ 0 || bits w8 0 6 ≠ 0 || bits w16 10 22 ≠ 0 || leNat (sliceB b 20 44) ≠ 0 }

/-- A guest flight's header names a flight of the lender (R341). -/
def State.guestMatch (s : State) (lender : Nat) (h : FlHead) : Bool :=
  let f := (s.job lender).fl
  let is (x : Option Flight) : Bool := match x with | some y => y.id = h.fid && y.len = h.len | none => false
  is f.active || is f.pend

/-- The failure of the header and of the areas checked once for a flight (R48, R82, R105, R218). -/
def State.headBad (s : State) (w : Nat) (lender : Option Nat) (h : FlHead) : Option Nat :=
  let cores := (s.coreSet (lender.getD w)).length
  let v := s.bankSize w * 1048576
  let b0 := s.bank0 w
  let b1 := s.bank1 w
  firstOf
    [lowest [(h.rsv, Why.field), (h.len = 0 || h.len > 4096 || h.n ≠ cores, Why.count),
       ((match lender with | some l => !s.guestMatch l h | none => false), Why.guest), (lender.isSome && h.rep ≠ 0, Why.field)],
     lowest
      [(!s.tableIn w h.base (h.len * h.n * 16), Why.window),
       (!(match lender with
          | none => s.tableIn w (s.wr w Reg.wngCrecBase) (64 * h.n * 32)
          | some _ => s.tableIn w (s.wr w Reg.wngGrecBase) (64 * 800 * 32)), Why.window),
       (s.sclRecords w ≠ 0 && !s.tableIn w (s.wr w Reg.wngSclBase) (128 * s.sclRecords w), Why.window),
       (v ≠ 0 && !(s.inHbm w b0 v && s.inHbm w b1 v), Why.window), (v ≠ 0 && overlaps b0 v b1 v, Why.field)]]

/-- An entry of the flight with its list: tread index, rank, the entry, its word and its blocks (none for a kind other than RUN). -/
structure FlEnt where
  i : Nat
  k : Nat
  ent : Nat
  cw : Nat
  bl : List Nat
deriving DecidableEq, Repr

def FlEnt.isRun (e : FlEnt) : Bool := entKind e.ent = 1

/-- The entry at tread index `i` and rank `k`, with what it names. -/
def State.flEnt (s : State) (w : Nat) (h : FlHead) (i k : Nat) : FlEnt :=
  let e := s.peekN w (h.base + (i * h.n + k) * 16) 16
  if entKind e = 1 then
    ⟨i, k, e, s.cfgWord w (entCfg e), (upFrom 0 (entCount e)).map fun j => s.peekN w (entList e + 32 * j) 32⟩
  else ⟨i, k, e, 0, []⟩

/-- The failure of an entry's own fields (R47, R48, R63). -/
def State.entBad (s : State) (w : Nat) (guest : Bool) (e : Nat) : Option Nat :=
  let k := entKind e
  lowest
    [(k > 2 || (guest && k = 2), Why.field),
     (bits e 120 2 ≠ 0 || bits e 96 3 ≠ 0 || bits e 47 17 ≠ 0 || bits e 0 6 ≠ 0, Why.field),
     (if k = 1 then entBudget e = 0 || entBudget e > 37440 else entBudget e ≠ 0, Why.field),
     (k ≠ 2 && entGuest e ≠ 0, Why.field),
     (k = 2 && !guest && !s.lends w (entGuest e), Why.guest),
     (k = 1 && entCfg e ≥ (s.job w).cfgCount, Why.count)]

/-- P_CAP of the PLAN words of a flight that name a table; 0 when none does. -/
def planCap (es : List FlEnt) (table : Nat) : Nat :=
  es.foldl (fun m e => if e.isRun && cwFunc e.cw = 4 && bits (cwArg e.cw 0) 0 4 = 0 && cwTable e.cw = table then max m (bits (cwArg e.cw 0) 16 16) else m) 0

/-- The rows that a word's floor counts (R177, R378). -/
def floorRows (es : List FlEnt) (c : Nat) : Nat :=
  if cwRagged c && planCap es (cwTable c) ≠ 0 then planCap es (cwTable c) else cwM c

/-- The failure of one entry with its list. -/
def State.flEntBad (s : State) (w : Nat) (guest : Bool) (h : FlHead) (es : List FlEnt) (e : FlEnt) : Option Bad :=
  let here (r : Nat) : Bad := ⟨r, e.i, e.k, naLoc⟩
  if (s.tableRead w (h.base + (e.i * h.n + e.k) * 16) 16).isNone then some (here Why.field)
  else match s.entBad w guest e.ent with
    | some r => some (here r)
    | none =>
      if !e.isRun then none
      -- R0 names the configuration word that reads poisoned (R377)
      else if (s.tableRead w ((s.job w).cfgBase + 64 * entCfg e.ent) 64).isNone then some ⟨Why.field, entCfg e.ent, naLoc, naLoc⟩
      else if entCount e.ent ≠ 0 && !s.tableIn w (entList e.ent) (32 * entCount e.ent) then some (here Why.window)
      else firstOf
        [firstBad (fun (j : Nat) =>
            let r := if (s.tableRead w (entList e.ent + 32 * j) 32).isNone then some Why.field else s.blkBad w guest e.cw (e.bl.getD j 0)
            r.map fun q => ⟨q, e.i, e.k, j⟩) (upFrom 0 e.bl.length),
         (overlapAt [] e.bl 0).map fun j => ⟨Why.overlap, e.i, e.k, j⟩,
         (s.entryBad w guest e.cw e.bl).map here,
         (s.xchBad w ((es.filter fun x => x.isRun && isReduce 6 x.cw).map fun x => cwFmtY x.cw) e.cw).map here,
         (if cwFunc e.cw = 6 && bits (cwArg e.cw 0) 0 4 = 0 then
            (match s.layerBad w e.cw with
             | some r => some r
             | none => if s.updateBad w e.cw e.bl then some Why.field else none).map here
          else none),
         if workFloor e.cw (floorRows es e.cw) e.bl > entBudget e.ent then some (here Why.budget) else none]

/-- Bytes of HBM that a tread index moves (R379). -/
def State.treadBytes (s : State) (es : List FlEnt) : Nat :=
  es.foldl (fun a e => e.bl.foldl (fun a b =>
    if blkDir b ≤ 1 && s.blkHere b && (s.region (blkAddr b % 2 ^ 47)).kind = 1 then a + blkLen b else a) a) 0

/-! ## Placement (R177, R252, R265, R275, R379) -/

/-- The treads of a cycle that hold an entry with a property. -/
def treadsOf (es : List FlEnt) (p : Nat → Bool) : List Nat := (es.filter fun e => e.isRun && p e.cw).map (·.i)

/-- Treads from the latest of `opens` at or before `i` in the cycle of `len` treads, going round when none is earlier. -/
def sinceOpen (len : Nat) (opens : List Nat) (i : Nat) : Option Nat :=
  let before := opens.filter (· ≤ i)
  match before with
  | x :: xs => some (i - xs.foldl max x)
  | [] => match opens with
    | x :: xs => some (i + len - xs.foldl max x)
    | [] => none

/-- Tread `l` lies fewer than `d` treads after one of `earlier`. -/
def tooSoon (earlier : List Nat) (l d : Nat) : Bool := earlier.any fun e => e ≤ l && l < e + d

/-- Every window of 64 consecutive treads of the cycle holds one of the treads. -/
def drained (len : Nat) (ts : List Nat) : Bool :=
  if len < 64 then !ts.isEmpty
  else (upFrom 0 len).all fun x => (upFrom 0 64).any fun j => ts.contains ((x + j) % len)

/-- A word is one of the REDUCE operations on an XID. -/
def redOn (op x c : Nat) : Bool := isReduce op c && redXid c = x

/-- The XIDs of the words of a flight with a property. -/
def xidsOf (es : List FlEnt) (p : Nat → Bool) : List Nat := ((es.filter fun e => e.isRun && p e.cw).map fun e => redXid e.cw).eraseDups

/-- The placement of exchange, training and ragged work fails: at the first entry that breaks a spacing, or for the flight as a whole. -/
def State.placeBad (s : State) (w len : Nat) (es : List FlEnt) : Option Bad :=
  let isOpt (op : Nat) (c : Nat) : Bool := isOptim op c
  let vot := treadsOf es (isOpt 1)
  let ver := treadsOf es (isOpt 2)
  let dlOf (kind x : Nat) : Nat := match s.xchEnt w x kind with | some e => e.dl | none => 0
  let soon (opens : List Nat) (i dl : Nat) : Bool := match sinceOpen len opens i with | some d => d < dl | none => false
  -- R177
  let ragged (e : FlEnt) : Bool := cwRagged e.cw && cwFunc e.cw ≠ 4 && cwM e.cw < planCap es (cwTable e.cw)
  -- R252
  let steps (e : FlEnt) : Bool := (isOpt 0 e.cw && (ver.isEmpty || tooSoon ver e.i 2)) || (isOpt 2 e.cw && tooSoon vot e.i 2)
  -- R265
  let comb (e : FlEnt) : Bool := isReduce 7 e.cw &&
    soon (treadsOf es fun c => cwFunc c = 3 && bits (cwArg c 1) 16 12 = redXid e.cw) e.i (dlOf 2 (redXid e.cw))
  -- R275
  let close (e : FlEnt) : Bool :=
    ((isReduce 3 e.cw && soon (treadsOf es (redOn 1 (redXid e.cw))) e.i (dlOf 3 (redXid e.cw)))
      || (isReduce 5 e.cw && soon (treadsOf es (redOn 4 (redXid e.cw))) e.i (dlOf 1 (redXid e.cw))))
  let opens := (xidsOf es (isReduce 1)).any fun x => match s.xchEnt w x 3 with
    | some e => (upFrom 0 e.q).any fun sh => (treadsOf es fun c => redOn 3 x c && bits (cwArg c 1) 16 4 = sh).isEmpty
    | none => false
  let wOf (c : Nat) : Nat := bits (cwArg c 2) 0 10
  let sOf (c : Nat) : Nat := bits (cwArg c 2) 16 10
  let closers (x : Nat) : List Nat := (es.filter fun e => e.isRun && redOn 5 x e.cw).map (·.cw)
  let topens := (xidsOf es (isReduce 4)).any fun x => match closers x with
    | [] => true
    | c :: _ => (upFrom 0 (wOf c)).any fun sh => !(closers x).any fun d => sOf d = sh
  -- R379, ring drain
  let grad := (xidsOf es fun c => isReduce 0 c && (s.cwXch c).isSome || isReduce 1 c || isReduce 2 c || isReduce 3 c).any fun x =>
    match s.xchEnt w x 3 with
    | none => false
    | some e => (upFrom 0 e.q).any fun sh =>
      let used := es.any fun y => y.isRun && redXid y.cw = x &&
        (isReduce 1 y.cw || ((isReduce 2 y.cw || isReduce 3 y.cw) && bits (cwArg y.cw 1) 16 4 = sh)
          || (isReduce 0 y.cw && (s.cwXch y.cw).isSome
              && (upFrom 0 ((roleTotal y.bl 0 0 + 8191) / 8192)).any fun j => (bits (cwArg y.cw 3) 0 20 + j) % e.q = sh))
      used && !drained len (treadsOf es fun c => (redOn 2 x c || redOn 3 x c) && bits (cwArg c 1) 16 4 = sh)
  let tin := (xidsOf es fun c => isReduce 4 c || isReduce 5 c || isReduce 6 c).any fun x =>
    let users := (es.filter fun e => e.isRun && (redOn 5 x e.cw || redOn 6 x e.cw)).map (·.cw)
    (users.map fun c => (wOf c, sOf c)).eraseDups.any fun p =>
      !drained len (treadsOf es fun c => (redOn 5 x c || redOn 6 x c) && wOf c = p.1 && sOf c = p.2)
  match es.find? fun e => e.isRun && (ragged e || steps e || comb e || close e) with
  | some e => some ⟨Why.placement, e.i, e.k, naLoc⟩
  | none => if opens || topens || grad || tin then some ⟨Why.placement, naLoc, naLoc, naLoc⟩ else none

/-- The byte ranges of a flight that are read-only to its wing (R49, R153). -/
def flightRo (h : FlHead) (es : List FlEnt) : List (Nat × Nat) :=
  (h.hdr, 64) :: (h.base, h.len * h.n * 16) :: ((es.filter fun e => e.isRun && !e.bl.isEmpty).map fun e => (entList e.ent, 32 * e.bl.length)).eraseDups

/-- The flight that its header and entries make. -/
def flightOf (h : FlHead) (es : List FlEnt) : Flight :=
  { hdr := h.hdr, id := h.fid, len := h.len, rep := h.rep, hall := h.hall, base := h.base, n := h.n, ro := flightRo h es
    bubbles := ((es.filter fun e => entKind e.ent = 2).map fun e => (e.k, entGuest e.ent)).eraseDups }

/-- The reads that a validation makes: the header, the tread table, and for its RUN entries their block lists, configuration words and the layer
records of UPDATE words. -/
def State.flightFetch (s : State) (w hdr : Nat) : State :=
  match s.tableRead w hdr 64 with
  | none => s
  | some b =>
    let h := flHead hdr b
    let s := s.fetchIn w hdr 64
    if h.len > 4096 || h.n > 800 then s
    else
      let lists := (upFrom 0 (h.len * h.n)).filterMap fun i =>
        let e := s.peekN w (h.base + 16 * i) 16
        if entKind e = 1 then
          let c := s.cfgWord w (entCfg e)
          some ([(entList e, 32 * entCount e), ((s.job w).cfgBase + 64 * entCfg e, 64)]
            ++ if isOptim 0 c then [(addrOf (s.wr w Reg.wngTrnArea) 20 + 32 * cwLayer c, 32)] else [])
        else none
      lists.flatten.eraseDups.foldl (fun s x => s.fetchIn w x.1 x.2) (s.fetchIn w h.base (16 * (h.len * h.n)))

/-- The newel validates the flight whose header lies at `hdr`, for a wing or, with a lender, as its guest flight: the first failure, or the
flight (R48, R341). -/
def State.validate (s : State) (w hdr : Nat) (lender : Option Nat) : Bad ⊕ Flight :=
  let at0 (r : Nat) : Bad := ⟨r, naLoc, naLoc, naLoc⟩
  if !s.tableIn w hdr 64 then .inl (at0 Why.window)
  else match s.tableRead w hdr 64 with
    | none => .inl (at0 Why.field)
    | some b =>
      let h := flHead hdr b
      match s.headBad w lender h with
      | some r => .inl (at0 r)
      | none =>
        let rows := (upFrom 0 h.len).map fun i => (upFrom 0 h.n).map fun k => s.flEnt w h i k
        let es := rows.flatten
        -- a channel that still migrates is not retired yet (R150)
        let limit := 409600000 * (128 - s.hbm.order.length + b2n s.hbm.migrating.isSome) / 128
        match firstBad (fun (row : List FlEnt) => firstOf
            [firstBad (s.flEntBad w lender.isSome h es) row,
             match row with
             | e :: _ => if s.treadBytes row > limit then some ⟨Why.hbmBytes, e.i, naLoc, naLoc⟩ else none
             | [] => none]) rows with
        | some x => .inl x
        | none => match s.placeBad w h.len es with | some x => .inl x | none => .inr (flightOf h es)

end Sys2Proof.Machine
end

