-- ==== Sys2Proof/Machine/Load.lean ====
section
/-!
DEFINITION. Commands of the newel that load tables and models or act on a wing as a whole (spec/16_newel.md Table 16.5, R373 to R375;
spec/15 R341, R349, R356; spec/17 R394 to R398).
-/
namespace Sys2Proof.Machine

/-! ## NOP and IDENTIFY (Table 16.5) -/

def spcNop : CmdSpec := ⟨0, false, true, true, []⟩
def spcIdentify : CmdSpec := ⟨1, false, true, true, []⟩

def State.cmdNop (s : State) (c : Cmd) : State := s.complete c St.ok 0 []

def State.cmdIdentify (s : State) (c : Cmd) : State :=
  s.complete c St.ok 0 [1 + 0x10 * 2 ^ 16 + s.boot.slot * 2 ^ 24, s.fwVersion s.boot.slot, s.newel.restarts]

/-! ## The store and the flights (R50, R62, R341, R373) -/

def spcCfgLoad : CmdSpec := ⟨0x100, true, true, false, [0xFFFFFFFFFFFFFFFF, 0x1FFF]⟩
def spcFlightLoad : CmdSpec := ⟨0x101, true, true, false, [0xFFFFFFFFFFFFFFFF]⟩
def spcFlightSwitch : CmdSpec := ⟨0x102, true, true, false, [1, 0xFFFFFFFFFFFF]⟩
def spcFlightStop : CmdSpec := ⟨0x103, true, true, false, [1]⟩
def spcFlightUnload : CmdSpec := ⟨0x104, true, true, false, [1]⟩
def spcGuestLoad : CmdSpec := ⟨0x105, true, true, false, [0x1F, 0xFFFFFFFFFFFFFFFF]⟩

/-- A table is refused (R377). -/
def State.tableBad (s : State) (c : Cmd) (b : Bad) : State := s.complete c St.tableBad b.reason [b.r0, b.r1, b.r2]

/-- CFG_LOAD at acceptance. -/
def State.cmdCfgLoad (s : State) (c : Cmd) : State :=
  let w := c.wing
  let a := c.arg 0
  let n := bits (c.arg 1) 0 13
  let j := s.job w
  let ld := s.loaded w
  let at0 (r : Nat) : Bad := ⟨r, naLoc, naLoc, naLoc⟩
  if a % 64 ≠ 0 || n = 0 || n > 4096 then s.complete c St.badArg 0 []
  else if ld && (a ≠ j.cfgBase || n < j.cfgCount) then s.tableBad c (at0 Why.store)
  else if !s.tableIn w a (64 * n) then s.tableBad c (at0 Why.window)
  else
    let lo := if ld then j.cfgCount else 0
    let s := s.fetchIn w (a + 64 * lo) (64 * (n - lo))
    match s.wordsBad w a lo (n - lo) with
    | some b => s.tableBad c b
    | none => (s.modJob w fun j => { j with cfgBase := a, cfgCount := n }).complete c St.ok 0 [n]

/-- FLIGHT_LOAD at acceptance. -/
def State.cmdFlightLoad (s : State) (c : Cmd) : State :=
  let w := c.wing
  if c.arg 0 % 64 ≠ 0 then s.complete c St.badArg 0 []
  else if (s.flightCmd w).isSome then s.complete c St.slotBusy 0 []
  else match s.validate w (c.arg 0) none with
    | .inl b => (s.flightFetch w (c.arg 0)).tableBad c b
    | .inr f => ((s.flightFetch w (c.arg 0)).setFl w ({ (s.job w).fl with pend := some f }).settle).complete c St.ok 0 [f.id]

/-- FLIGHT_SWITCH at acceptance (R50, R51). -/
def State.cmdFlightSwitch (s : State) (c : Cmd) : State :=
  if (s.job c.wing).fl.pend.isNone then s.complete c St.badArg 0 []
  else if (s.flightCmd c.wing).isSome then s.complete c St.slotBusy 0 []
  else if c.arg 0 = 0 && !treadReached (treadAdd c.at_ 2) (c.arg 1) then s.complete c St.treadPast 0 []
  else s.hold c

/-- FLIGHT_STOP at acceptance. -/
def State.cmdFlightStop (s : State) (c : Cmd) : State :=
  if (s.job c.wing).fl.active.isNone then s.complete c St.badArg 0 []
  else if (s.flightCmd c.wing).isSome then s.complete c St.slotBusy 0 []
  else s.hold c

/-- FLIGHT_UNLOAD at acceptance. -/
def State.cmdFlightUnload (s : State) (c : Cmd) : State :=
  if (s.flightCmd c.wing).isSome then s.complete c St.slotBusy 0 [] else s.hold c

/-- GUEST_LOAD at acceptance; the flight waits for its boundary. -/
def State.cmdGuestLoad (s : State) (c : Cmd) : State :=
  let w := c.wing
  let l := bits (c.arg 0) 0 5
  if c.arg 1 % 64 ≠ 0 || !s.lends l w then s.complete c St.badArg 0 []
  else match s.validate w (c.arg 1) (some l) with
    | .inl b => (s.flightFetch w (c.arg 1)).tableBad c b
    | .inr f => ((s.flightFetch w (c.arg 1)).modWing w fun x => { x with guestNext := x.guestNext ++ [⟨l, f⟩] }).hold c

/-- Guest flights whose boundary has come replace those held for the same lender (R341). -/
def State.guestAction (s : State) (w : Nat) : State :=
  ((s.outOf 0x105 w).filter s.isDue).foldl (fun s c =>
    let l := bits (c.arg 0) 0 5
    match (s.wing w).guestNext.find? (fun (g : Guest) => g.lender = l) with
    | some g => (s.modWing w fun x => { x with
        guests := (x.guests.filter fun y => y.lender ≠ l) ++ [g]
        guestNext := x.guestNext.eraseP fun y => y.lender = l }).finish c St.ok []
    | none => s.finish c St.aborted []) s

/-! ## Contexts, semaphores, quiesce and resets (R349, R352, R356, R374, R375, R467) -/

def spcCtxSwitch : CmdSpec := ⟨0x500, true, true, false, [7, 0xFFFF]⟩
def spcCtxSet : CmdSpec := ⟨0x501, true, true, false, [0x707, 0xFFFFFFFF]⟩
def spcSemAcquire : CmdSpec := ⟨0x502, true, true, false, [0x1F07]⟩
def spcSemRelease : CmdSpec := ⟨0x503, true, true, false, [0x1F07]⟩
def spcWingQuiesce : CmdSpec := ⟨0x600, true, false, false, [0xFFFF]⟩
def spcWingReset : CmdSpec := ⟨0x601, true, false, true, []⟩
def spcDeviceReset : CmdSpec := ⟨0x602, false, false, false, []⟩

/-- CTX_SWITCH at acceptance. -/
def State.cmdCtxSwitch (s : State) (c : Cmd) : State := if c.arg 1 = 0 then s.complete c St.badArg 0 [] else s.hold c

/-- CTX_SET at acceptance: a transition that is not permitted is refused (R366, R374); what the commands before it change by its boundary is judged
there. -/
def State.cmdCtxSet (s : State) (c : Cmd) : State :=
  if s.ctxAllows c.wing (bits (c.arg 0) 0 3) (bits (c.arg 0) 8 3) then s.hold c else s.complete c St.badArg 0 []

/-- SEM_ACQUIRE at acceptance: by the holder itself it is refused (R366, R375). -/
def State.cmdSemAcquire (s : State) (c : Cmd) : State :=
  if Tab.find (s.wing c.wing).sems (bits (c.arg 0) 8 5) = some (bits (c.arg 0) 0 3) then s.complete c St.badArg 0 [] else s.hold c

/-- SEM_RELEASE at acceptance: by a context that is not the holder it is refused (R366, R375). -/
def State.cmdSemRelease (s : State) (c : Cmd) : State :=
  if Tab.find (s.wing c.wing).sems (bits (c.arg 0) 8 5) = some (bits (c.arg 0) 0 3) then s.hold c else s.complete c St.badArg 0 []

/-- WING_QUIESCE at acceptance. -/
def State.cmdWingQuiesce (s : State) (c : Cmd) : State := if c.arg 0 = 0 then s.complete c St.badArg 0 [] else s.hold c

/-! ## MODEL_LOAD (R394 to R398) -/

def spcModelLoad : CmdSpec := ⟨0x800, true, true, false, [0xFFFFFFFFFFFFFFFF, 0xFFFFFFFFFFFFFFFF, 0x71, 0xFFFFFFFF]⟩

def State.modLoad (s : State) (w : Nat) (f : ModelLoad → ModelLoad) : State := s.modWing w fun x => { x with load := f x.load }

/-- The queues of the flash channels at the beginning of a load: copy 1 of each shard in manifest order (R386, R396). -/
def shardQueues (n : Nat) : Tab (List (Nat × Nat)) :=
  (upFrom 0 8).map fun ch => (ch, ((upFrom 0 n).filter fun i => i % 8 = ch).map fun i => (i, 0))

/-- MODEL_LOAD at acceptance, with the checks of R395 that follow it. -/
def State.cmdModelLoad (s : State) (c : Cmd) : State :=
  let w := c.wing
  let base := c.arg 1
  let flip := bit (c.arg 2) 0
  match s.findImage (c.arg 0) with
  | none => s.complete c St.noImage 0 []
  | some im =>
    if base % 64 ≠ 0 || !(s.outOf 0x800 w).isEmpty || (!flip && c.arg 3 ≠ 0) then s.complete c St.badArg 0 []
    else match (if flip then s.flipRefusal w (c.arg 3) else none) with
      | some st => s.complete c st 0 []
      | none =>
        if !s.sigGood (bits (s.pr w Reg.wngKeys) 0 8) im.keyHash im.manifest im.sig then s.complete c St.sigBad 0 []
        else if !s.tableIn w base im.destSize || s.barred w base im.destSize then s.complete c St.badArg 0 []
        else
          let s := if flip then s.modVr w fun v => { v with pend := some ⟨c.arg 3, none, c.eff, some c.cid⟩ } else s
          let s := s.modLoad w fun l => { l with
            fshard := naLoc, st := 1, done := 0, cid := some c.cid, image := im.id, base := base, span := im.destSize
            queues := shardQueues im.shards.length, written := [], wrong := [] }
          s.hold c

/-- Bytes of the shards written. -/
def shardBytes (im : Image) (done : List Nat) : Nat := ((upFrom 0 im.shards.length).zip im.shards).foldl (fun a x => if done.contains x.1 then a + x.2.len else a) 0

/-- A load in progress and its image. -/
def State.loading (s : State) (w : Nat) : Option (Cmd × Image) :=
  match (s.wing w).load.cid with
  | none => none
  | some i => match s.newel.out.find? (fun (c : Cmd) => c.cid = i), s.trust.images.find? (fun (x : Image) => x.id = (s.wing w).load.image) with
    | some c, some im => some (c, im)
    | _, _ => none

/-- A write of the load: refused where the manual has made the range read-only to the wing since its acceptance (R153, R339); whether it was
accepted. -/
def State.loadWrite (s : State) (w a : Nat) (b : List (Byte × Bool)) : State × Bool :=
  if s.fixedTo w a b.length then (s.refuse w a false, false) else (s.write (s.reqOf w) a b, true)

/-- The load fails at a shard (R396, R398). -/
def State.loadFail (s : State) (w : Nat) (c : Cmd) (im : Image) (shard : Nat) : State :=
  let l := (s.wing w).load
  let s := ((upFrom 0 im.shards.length).zip im.shards).foldl (fun s x =>
    if l.written.contains x.1 then s else (s.loadWrite w (l.base + x.2.destOff) (List.replicate x.2.len (0, true))).1) s
  let hits := overlaps l.base l.span (s.bank1 w) (s.bankSize w * 1048576)
  let s := s.modVr w fun v => { v with pend := match v.pend with | some f => if f.cid = some c.cid then none else some f | none => none }
  let s := s.modLoad w fun l => { l with fshard := shard, st := 3, bad := l.bad || hits, cid := none, queues := [] }
  s.finish c (if l.wrong.contains shard then St.shardBad else St.shardMissing) [shard, shardBytes im l.written]

/-- The load has succeeded: it completes, or waits for its flip (R397). -/
def State.loadGood (s : State) (w : Nat) (c : Cmd) (im : Image) : State :=
  let n := im.shards.length
  let s := s.modLoad w fun l => { l with st := 2, bad := false, cid := none, queues := [] }
  let c := { c with aux := [n, shardBytes im (upFrom 0 n)] }
  let s := s.modCmd c.cid fun _ => c
  if bit (c.arg 2) 0 then
    s.modVr w fun v => { v with pend := v.pend.map fun f => if f.cid = some c.cid then { f with eff := treadAdd s.tread 1 } else f }
  else s.loadDone w c

/-- A copy of a shard did not serve: copy 2 follows copy 1, ahead of the reads not started, or the load fails. -/
def State.copyFailed (s : State) (w : Nat) (c : Cmd) (im : Image) (shard copy : Nat) : State :=
  if copy = 1 then s.loadFail w c im shard
  else s.modLoad w fun l => { l with queues := l.queues.map fun (q : Nat × List (Nat × Nat)) =>
    if q.1 = (shard + 4) % 8 then (q.1, q.2.take 1 ++ (shard, 1) :: q.2.drop 1) else q }

/-- The copy of a shard whose read is in progress. -/
def ModelLoad.reading (l : ModelLoad) (shard : Nat) : Option Nat :=
  (l.queues.filterMap fun (q : Nat × List (Nat × Nat)) => match q.2 with
    | (i, k) :: _ => if i = shard then some k else none
    | [] => none).head?

/-- A read leaves the head of its channel's queue. -/
def State.readOver (s : State) (w shard copy : Nat) : State :=
  s.modLoad w fun l => { l with queues := l.queues.map fun (q : Nat × List (Nat × Nat)) => if q.2.head? = some (shard, copy) then (q.1, q.2.drop 1) else q }

/-- A copy is found bad and left to the refresh (R396). -/
def State.copyBad (s : State) (id shard copy : Nat) : State :=
  { s with trust := { s.trust with images := s.trust.images.map fun x =>
    if x.id = id && !x.lost.contains (4 * shard + 2 * copy) then { x with lost := (4 * shard + 2 * copy) :: x.lost } else x } }

/-- Bytes read from a copy are charged and written at the shard's destination as they are read (R395, R396); whether the write was accepted. -/
def State.shardWrite (s : State) (w : Nat) (sh : Shard) (b : List Byte) : State × Bool :=
  let s := s.charge (some w) Acf.flash b.length
  if b.isEmpty then (s, true) else s.loadWrite w ((s.wing w).load.base + sh.destOff) (clean b)

/-- What a read gave of a copy: its bytes, and whether that is all of them. A copy that was dropped gives none beyond what the read brings. -/
def shardGot (read : ShardRead) (sh : Shard) (dropped : Bool) : List Byte × Bool :=
  match read, dropped with
  | .asStored, false => (sh.data, true)
  | .other b, false => (sliceB b 0 sh.len, true)
  | .unreadable got, _ => (got.take (sh.len - 1), false)
  | _, true => ([], false)

/-- SHARD_READ_DONE: a copy's read ends, while the newel runs (R381). Its bytes are written as they are read and hashed; the hash decides. A
write that is refused never reaches its point of coherence, and the load fails at its shard (R397, log entry 54). -/
def State.opShardRead (s : State) (w shard : Nat) (read : ShardRead) : State :=
  if !s.newel.running then s else
  match s.loading w, (s.wing w).load.reading shard with
  | some (c, im), some copy =>
    match im.shards[shard]? with
    | none => s
    | some sh =>
      let (b, whole) := shardGot read sh (im.lost.contains (4 * shard + 2 * copy + 1))
      let (s, ok) := (s.readOver w shard copy).shardWrite w sh b
      if !ok then s.loadFail w c im shard
      else if !whole then (s.copyBad im.id shard copy).copyFailed w c im shard copy
      else if shake256 64 b = sh.hash then
        let s := s.modLoad w fun l => { l with written := shard :: l.written, done := l.done + 1 }
        if (s.wing w).load.written.length = im.shards.length then s.loadGood w c im else s
      else
        ((s.modLoad w fun l => { l with wrong := shard :: l.wrong }).copyBad im.id shard copy).copyFailed w c im shard copy
  | _, _ => s

/-- FLASH_COPY_TIMEOUT: the copy in progress has not finished in its time; what it has read is written (R396). -/
def State.opCopyTimeout (s : State) (w shard : Nat) (got : List Byte) : State :=
  if !s.newel.running then s else
  match s.loading w, (s.wing w).load.reading shard with
  | some (c, im), some copy =>
    match im.shards[shard]? with
    | none => s
    | some sh =>
      let (s, ok) := (s.readOver w shard copy).shardWrite w sh (got.take (sh.len - 1))
      if ok then s.copyFailed w c im shard copy else s.loadFail w c im shard
  | _, _ => s

/-- WNG_LOAD (spec/17_trust.md). -/
def State.wngLoad (s : State) (w : Nat) : Nat :=
  let l := (s.wing w).load
  l.fshard * 2 ^ 32 + l.st * 2 ^ 30 + b2n l.bad * 2 ^ 29 + sat 17 l.done

end Sys2Proof.Machine
end

