-- ==== Sys2Proof/Machine/Registers.lean ====
section
/-!
DEFINITION. Register access (spec/00_scope.md R15 to R18, spec/20_host_links.md R442 to R445, R454): where an offset of a
function's BAR0 leads, what every register reads, and what a write to it does.
-/
namespace Sys2Proof.Machine

/-! ## The register space (Table 20.3, R160, R334) -/

/-- What an offset of a function's BAR0 leads to: a register of the PF, a mailbox register, a wing's per-wing register by its
offset in the VF's BAR0, a DMA channel's register, a word of the MSI-X table, the pending-bit array, or nothing. -/
inductive RegLoc
  | pf (off : Nat)
  | mbx (fn off : Nat)
  | wing (w off : Nat)
  | chan (w : Option Nat) (c off : Nat)
  | msix (fn off : Nat)
  | pba (fn off : Nat)
  | none
deriving DecidableEq, Repr

/-- The registers of a wing's DMA channels lie by index in the wing's part of the DMA block (R160). -/
def State.wingLoc (s : State) (fn w off : Nat) : RegLoc :=
  if off < 0xC100 then .wing w off
  else match s.chanOf fn w ((off - 0xC100) / 0x20) with
    | some c => .chan (some w) c ((off - 0xC100) % 0x20)
    | none => .none

/-- Where an offset of a function's BAR0 leads (Table 20.3, R334). -/
def State.regLoc (s : State) (fn off : Nat) : RegLoc :=
  if fn = 0 then
    if off < 0x200000 then .pf off
    else if off < 0x400000 then .mbx 0 (off - 0x200000)
    else if off < 0xA00000 then
      let b := (off - 0x400000) / 0x200000
      let o := off % 0x200000
      if o < 0x100000 then
        if b = 2 ∧ 0x100 ≤ o ∧ o < 0x2100 then .chan (s.chanWing ((o - 0x100) / 0x20)) ((o - 0x100) / 0x20) ((o - 0x100) % 0x20) else .pf off
      else if o < 0x180000 then s.wingLoc 0 ((o - 0x100000) / 0x4000) (0x4000 * (b + 1) + o % 0x4000)
      else .none
    else if off < 0x1E00000 then .pf off
    else if off < 0x1F00000 then .msix 0 (off - 0x1E00000)
    else if off < 0x2000000 then .pba 0 (off - 0x1F00000)
    else .none
  else if off < 0x4000 then .mbx fn off
  else if off < 0x10000 then s.wingLoc fn (fn - 1) off
  else if off < 0x11000 then .msix fn (off - 0x10000)
  else if off < 0x20000 then .pba fn (off - 0x11000)
  else .none

/-- A function's memory space answers (R443, R458): start-up has reached the state in which the host link runs, the function exists
and is not in D3hot, and no test instruction has the pins. -/
def State.fnAnswers (s : State) (fn : Nat) : Bool := decide (3 ≤ s.boot.st) && s.fnMaster fn

/-! ## What registers read -/

/-- States of a wing's contexts, three bits each, with the active one (WNG_CTXS). -/
def Wing.ctxStates (x : Wing) : Nat :=
  x.active * 2 ^ 29 + (upFrom 0 8).foldl (fun a c => a + (match Tab.find x.ctxs c with | some y => y.st | none => 0) * 2 ^ (3 * c)) 0

/-- A layout table in a slot (WNG_LAYn). -/
def layReg (x : Option (Nat × Nat)) : Nat :=
  match x with
  | some (b, n) => n * 2 ^ 47 + b
  | none => 0

/-- The registers of a wing's WNG and TRD parts that no plain write sets. -/
def State.wingRo (s : State) (w k i : Nat) : Nat :=
  let x := s.wing w
  let j := x.job
  if k = Reg.trdWstat then (match j.fl.active with | some f => f.id | none => 0) * 2 ^ 16 + j.fl.index * 8 + j.fl.fstate
  else if k = Reg.trdWovr then j.capskip * 65536 + j.ovr
  else if k = Reg.wngCfgBase then j.cfgBase
  else if k = Reg.wngCfgCount then j.cfgCount
  else if k = Reg.wngGenEvtProd then j.gen.evtProd
  else if k = Reg.wngKvStat then (s.freePages w).length * 2 ^ 39 + b2n (s.kvStall w) * 2 ^ 38 + j.gen.parks % 2 ^ 32
  else if k = Reg.wngKvSlots then
    let (b, n) := s.kvCxl w
    (if n ≠ 0 ∧ s.linkUp b = true then n - j.gen.cxlUsed.length else 0) * 2 ^ 40
      + (s.wr w Reg.wngKvHslots - j.gen.hostUsed.length) * 2 ^ 16
  else if k = Reg.wngWep then j.vr.wep * 2 ^ 32 + j.vr.bank * 2 ^ 31 + b2n j.vr.pend.isSome * 2 ^ 30
  else if k = Reg.wngTrnLws then j.trn.mean * 2 ^ 32 + j.trn.var
  else if k = Reg.wngTrnStat then
    j.trn.t * 2 ^ 32 + j.trn.reasons * 2 ^ 24 + b2n j.trn.lastSkip * 2 ^ 23 + b2n j.trn.lone * 2 ^ 22 + b2n j.trn.seen * 2 ^ 21
      + b2n j.trn.rmode * 2 ^ 20 + b2n j.trn.late * 2 ^ 19 + sat 16 j.trn.recomp
  else if k = Reg.wngXchDrop then j.xch.drop % 2 ^ 32
  else if k = Reg.wngLep then j.turn.lep * 2 ^ 32 + b2n j.turn.pend.isSome * 2 ^ 31 + b2n j.turn.land.isSome * 2 ^ 30
  else if k = Reg.wngLay then layReg (if i = 0 then j.turn.cur else j.turn.pend)
  else if k = Reg.wngTurnBlk then j.turn.expect * 2 ^ 32 + j.turn.landed
  else if k = Reg.wngTurnErr then
    sat 16 j.turn.failed.length * 2 ^ 48 + sat 16 j.turn.dup * 2 ^ 32 + sat 16 j.turn.stale * 2 ^ 16 + sat 16 j.turn.pzn
  else if k = Reg.wngTurnRaw then j.turn.rawreq % 2 ^ 32
  else if k = Reg.wngMirStat then
    j.mir.round % 2 ^ 32 * 2 ^ 32 + b2n j.mir.run * 2 ^ 31 + b2n j.mir.done * 2 ^ 30 + b2n j.mir.dirty * 2 ^ 29 + sat 16 j.mir.skipped
  else if k = Reg.wngFlt then b2n j.fltSeen * 2 ^ 63 + j.fltCount * 2 ^ 47 + j.fltAddr
  else if k = Reg.wngCtxs then x.ctxStates
  else if k = Reg.wngLoad then s.wngLoad w
  else 0

/-- What a register of a wing reads, by its row of the map and its index. -/
def State.wingVal (s : State) (w : Nat) (r : RegRow) (i : Nat) : Nat :=
  let off := r.key + r.stride * i
  let x := s.wing w
  match r.cls with
  | .prot => Tab.cnt x.pwr off + (if r.key = Reg.wngProt then b2n x.conflict * 2048 else 0)
  | .next => if r.key = Reg.wngStep ∧ x.job.trn.stepW = false then s.we w off else s.wr w off
  | .now =>
    if r.key = Reg.wngCtx then x.ctxReg
    else if r.key = Reg.wngCtxsave then x.ctxSave
    else if r.key = Reg.wngMirRx then
      let m := x.job.mir
      m.wepoch * 2 ^ 96 + m.lepoch * 2 ^ 64 + m.cround % 2 ^ 32 * 2 ^ 32 + m.half * 2 ^ 31 + s.wr w off
    else s.wr w off
  | .other => s.wingRo w r.key i

/-- Spare cores left by field (SVC_SPARES). -/
def State.spareCores (s : State) : Nat :=
  (upFrom 0 4).foldl (fun a f =>
    a + ((upFrom (208 * f + 200) 8).filter fun p => (s.unit (unitKey 0 p)).hw = 5).length * 2 ^ (4 * f)) 0

/-- Fewest spare rows left in any bank of an HBM channel (SVC_HBM_CHn). -/
def State.spareRowsLeft (s : State) (ch : Nat) : Nat :=
  (upFrom (ch * 16) 16).foldl (fun a b => min a (Config.spareRows b - Tab.cnt s.hbm.spares b)) 63

/-- The registers of the PF that no plain write sets. -/
def State.pfRo (s : State) (k i : Nat) : Nat :=
  let t := s.time
  if k = Reg.trdStatus then t.hops * 2 ^ 26 + t.root * 512 + t.parent * 32 + b2n t.rconf * 16 + b2n t.behind * 8 + t.lock
  else if k = Reg.trdNow then t.tread * 65536 + t.phase
  else if k = Reg.trdOffset then t.thetaReg
  else if k = Reg.trdPwr then s.power.idleCnt % 2 ^ 20 * 4096 + s.power.avgW % 4096
  else if k = Reg.svcHbmSize then s.hbm.order.length * 4096 + (1536 - 13 * s.hbm.order.length)
  else if k = Reg.svcHbmCh then
    let u := s.unit (unitKey 2 i)
    u.hw % 4 * 2 ^ 30 + u.epoch % 256 * 2 ^ 22 + s.spareRowsLeft i * 65536 + sat 16 u.ce
  else if k = Reg.halPerr then (upFrom 0 8).foldl (fun a f => a * 65536 + Tab.cnt (s.port i).perr f) 0
  else if k = Reg.svcTrust then b2n s.trust.held * 8 + b2n s.trust.full * 4 + s.boot.slot * 2 + b2n s.trust.dbgSeen
  else if k = Reg.svcDebug then s.svcDebug
  else if k = Reg.svcLog then s.trust.log.length * 2 ^ 32 + s.trust.seq % 2 ^ 32
  else if k = Reg.accProd then s.acct.prod
  else if k = Reg.accHold then sat 16 s.acct.merges * 65536 + s.acct.held.length
  else if k = Reg.accStatic then s.acct.static
  else if k = Reg.accTelProd then s.acct.telProd
  else if k = Reg.svcBg then let b := s.bg i; sat 16 b.deferred * 2 ^ 48 + b2n b.late * 2 ^ 47 + b.last
  else if k = Reg.svcBist then s.svcBist
  else if k = Reg.svcTsense then s.svc.tsExcl
  else if k = Reg.svcSpares then
    b2n s.svc.listFull * 2 ^ 63 + s.svc.fuseCount * 2 ^ 48 + s.gal.spared.length % 65536 * 2 ^ 32 + s.spareCores
  else if k = Reg.svcFlash then
    b2n (s.svc.flSys = 0) * 2 ^ 63 + s.svc.flSpare * 2 ^ 47 + sat 12 s.svc.maxErase * 2 ^ 35 + sat 17 s.svc.flRetired.length * 2 ^ 18
      + sat 18 s.svc.flRefreshed
  else if k = Reg.pciId then 0x11000
  else if k = Reg.pciSerial then Config.serial.toNat
  else if k = Reg.pciErr then b2n s.pci.errSeen * 2 ^ 31 + s.pci.errCount
  else if k = Reg.svcBoot then
    let b := s.boot
    b.startMs % 2 ^ 32 * 2 ^ 32 + b.st * 2 ^ 24 + b2n b.hbmInit * 2 ^ 23 + b2n (b.slot ≠ b.active) * 2 ^ 22 + b.active * 2 ^ 21 + b.slot * 2 ^ 20
      + b.copy * 2 ^ 19 + b.cause * 2 ^ 17 + b.failed * 2 ^ 9
  else 0

/-- The last value written to a register of the PF (RW-P: R15). -/
def State.pfw_ (s : State) (off : Nat) : Nat := (Tab.find s.pfw off).getD (RegRow.resetOf pfRegRows off)

/-- What a register of the PF reads, by its row and index. -/
def State.pfVal (s : State) (r : RegRow) (i : Nat) : Nat :=
  let v := s.pfw_ (r.key + r.stride * i)
  match r.cls with
  | .prot =>
    if r.key = Reg.halMe then
      if s.inHall then
        let c := coordsOf s.hallDims s.me
        v + c.getD 0 0 * 2 ^ 36 + c.getD 1 0 * 2 ^ 31 + c.getD 2 0 * 2 ^ 27 + c.getD 3 0 * 2 ^ 23
      else v
    else if r.key = Reg.halPort then
      let p := s.port i
      v + p.st * 2 ^ 59 + p.neigh * 2 ^ 42 + p.nport * 2 ^ 38 + sat 16 p.trains * 2 ^ 22
    else if r.key = Reg.halInj then v / 65536 * 65536 + (s.port i).injLeft
    else if r.key = Reg.cxlPort then
      let c := s.cxlPort i
      v + c.st * 2 ^ 60 + c.speed * 2 ^ 57 + c.width * 2 ^ 52 + c.size * 2 ^ 38 + sat 16 c.late * 2 ^ 22 + sat 16 c.timeouts * 2 ^ 6
    else v
  | .now => if r.key = Reg.accCons then s.acct.cons else v
  | .next => v
  | .other => s.pfRo r.key i

/-- The mailbox registers (spec/16_newel.md): offset, bytes, value. -/
def State.mbxVal (s : State) (fn off : Nat) : Nat :=
  let f := s.fnSt fn
  if off = Reg.mbxId then 0x11000
  else if off = Reg.mbxCtrl then f.ctrl + b2n (s.ready && bit f.ctrl 0) * 2
  else if off = Reg.mbxCmd then f.cmd
  else if off = Reg.mbxCmdHead then s.outst fn * 65536 + f.head
  else if off = Reg.mbxCpl then f.cpl
  else if off = Reg.mbxCplHead then f.cplHead
  else if off = Reg.mbxCplTail then b2n f.cphase * 65536 + f.cplTail
  else if off = Reg.mbxEvt then f.evt
  else if off = Reg.mbxEvtProd then f.evtProd
  else 0

/-- The mailbox register that holds an offset, as its own offset and bytes. -/
def mbxReg (off : Nat) : Option (Nat × Nat) :=
  ([(Reg.mbxId, 4), (Reg.mbxCtrl, 4), (Reg.mbxCmd, 8), (Reg.mbxCmdDb, 4), (Reg.mbxCmdHead, 4), (Reg.mbxCpl, 8), (Reg.mbxCplHead, 4),
    (Reg.mbxCplTail, 4), (Reg.mbxEvt, 8), (Reg.mbxEvtProd, 4)]).find? fun x => x.1 ≤ off && off < x.1 + x.2

/-- The register of a DMA channel that holds an offset. -/
def chanReg (off : Nat) : Option (Nat × Nat) :=
  ([(0, 8), (8, 4), (0xC, 4), (0x10, 4), (0x14, 4)]).find? fun x => x.1 ≤ off && off < x.1 + x.2

/-- What a DMA channel's register reads; DMA_CH_TAIL is WO. -/
def State.chanVal (s : State) (c off : Nat) : Nat :=
  let x := s.chan c
  if off = 0 then x.ring else if off = 8 then x.ctrl else if off = 0x10 then b2n x.idle * 2 ^ 31 + x.head
  else if off = 0x14 then x.stat else 0

/-- The 32 bits at an offset of a register space, 0 where no table assigns a register (R445). -/
def State.read32 (s : State) (fn off : Nat) : Nat :=
  match s.regLoc fn off with
  | .pf o => match RegRow.find pfRegRows o with
    | some (r, i) => bits (s.pfVal r i) (8 * (o - (r.key + r.stride * i))) 32
    | none => 0
  | .wing w o => match RegRow.find wingRegRows o with
    | some (r, i) => bits (s.wingVal w r i) (8 * (o - (r.key + r.stride * i))) 32
    | none => 0
  | .mbx g o => match mbxReg o with
    | some (k, _) => bits (s.mbxVal g k) (8 * (o - k)) 32
    | none => 0
  | .chan _ c o => match chanReg o with
    | some (k, _) => bits (s.chanVal c k) (8 * (o - k)) 32
    | none => 0
  | .msix g o => if o < 256 then (s.fnSt g).tblWord (o / 4) else 0
  | .pba g o => if o = 0 then (s.fnSt g).pend else 0
  | .none => 0

/-- A register read of 4 or 8 bytes. -/
def State.readReg (s : State) (fn off : Nat) (wide : Bool) : Nat :=
  s.read32 fn off + (if wide then s.read32 fn (off + 4) * 2 ^ 32 else 0)

/-! ## Register writes -/

/-- A register's new value: the bits of `mask` that lie in the `n` bytes from byte `o` take the value written. -/
def mergeReg (old mask o n v : Nat) : Nat :=
  let m := mask &&& ((2 ^ (8 * n) - 1) * 2 ^ (8 * o))
  (old ^^^ (old &&& m)) ||| ((v * 2 ^ (8 * o)) &&& m)

/-- Any row of the wing is LIVE or PARKED. -/
def State.rowsHeld (s : State) (w : Nat) : Bool := !(s.rowsIn w 1).isEmpty || !(s.rowsIn w 2).isEmpty

/-- A lender's active flight has a bubble that names the wing (R80). -/
def State.guestActs (s : State) (w : Nat) : Bool :=
  (upFrom 0 32).any fun l => match (s.job l).fl.active with
    | some f => f.bubbles.any fun x => x.2 = w
    | none => false

/-- A write to a register of a wing is ignored in the present state, as the register's own table states. -/
def State.wingIgnored (s : State) (w k : Nat) : Bool :=
  let j := s.job w
  if [Reg.wngCrecBase, Reg.wngSclBase, Reg.wngSclCount, Reg.wngGenSeq, Reg.wngGenVocab, Reg.wngGenLtab, Reg.wngGenMask, Reg.wngTrnArea,
      Reg.wngTrnStash, Reg.wngTrnSpill, Reg.wngTrnTags, Reg.wngXch].contains k then s.loaded w
  else if k = Reg.wngGrecBase then s.guestActs w
  else if [Reg.wngKvPool, Reg.wngKvGeom, Reg.wngKvPt, Reg.wngKvPst, Reg.wngKvCxl, Reg.wngKvHost, Reg.wngKvHslots].contains k then
    s.loaded w || s.rowsHeld w
  else if [Reg.wngMdl, Reg.wngAdp, Reg.wngPfx, Reg.wngWbank].contains k then s.loaded w || s.rowsHeld w || j.vr.pend.isSome
  else if k = Reg.wngTurnMap then j.turn.pend.isSome
  else if k = Reg.wngTurnSnap then j.turn.land.isSome
  else if k = Reg.wngCtx ∨ k = Reg.wngCtxsave then s.loaded w || (s.wing w).ctxs.any fun x => x.2.st ≠ 0
  else false

/-- What follows a write that a register of a wing took (R215, R229, R253, R256). -/
def State.wingWrote (s : State) (w k v : Nat) : State :=
  if [Reg.wngKvPool, Reg.wngKvGeom, Reg.wngKvPt, Reg.wngKvPst, Reg.wngKvCxl, Reg.wngKvHost, Reg.wngKvHslots].contains k then s.kvClear w
  else if k = Reg.wngAdp then s.adpEmpty w
  else if k = Reg.wngPfx then s.pfxEmpty w
  else if k = Reg.wngXch then s.xchClear w
  else if [Reg.wngTrnArea, Reg.wngTrnStash, Reg.wngTrnSpill, Reg.wngTrnTags].contains k then s.stashEmpty w
  else if k = Reg.wngTrnCtrl then s.opForce w v
  else if k = Reg.wngStep then s.modTrn w fun x => { x with stepW := true }
  else s

/-- The bits of a register of a wing that a write sets now: WNG_WBANK1.SIZE is reserved, and WNG_MIR.BASE keeps its value while a
round runs. -/
def State.wingMask (s : State) (w : Nat) (r : RegRow) (i : Nat) : Nat :=
  if r.key = Reg.wngWbank ∧ i = 1 then 0x7FFFFFF00000000
  else if r.key = Reg.wngMir ∧ (s.job w).mir.run = true then 0xFFFF000000000000
  else r.mask

/-- WNG_FLT: writing 1 to SEEN clears it. -/
def State.fltClear (s : State) (w : Nat) (seen : Bool) : State := if seen then s.modJob w fun j => { j with fltSeen := false } else s

/-- A write of `n` bytes from byte `o` of a register of a wing. -/
def State.wingWrite (s : State) (fn w : Nat) (r : RegRow) (i o n v : Nat) : State :=
  let off := r.key + r.stride * i
  let mask := s.wingMask w r i
  match r.cls with
  | .prot => if fn ≠ 0 then s else s.modWing w fun x => { x with pwr := Tab.set x.pwr off (mergeReg (Tab.cnt x.pwr off) mask o n v) }
  | .next =>
    let old := if r.key = Reg.wngStep ∧ (s.job w).trn.stepW = false then s.we w off else s.wr w off
    (s.modJob w fun j => { j with wr := Tab.set j.wr off (mergeReg old mask o n v) }).wingWrote w r.key (v * 2 ^ (8 * o))
  | .now =>
    if s.wingIgnored w r.key then s
    else if r.key = Reg.wngCtx then s.modWing w fun x => { x with ctxReg := mergeReg x.ctxReg mask o n v }
    else if r.key = Reg.wngCtxsave then s.modWing w fun x => { x with ctxSave := mergeReg x.ctxSave mask o n v }
    else (s.modJob w fun j => { j with wr := Tab.set j.wr off (mergeReg (Tab.cnt j.wr off) mask o n v) }).wingWrote w r.key v
  | .other => if r.key = Reg.wngFlt then s.fltClear w (bit (v * 2 ^ (8 * o)) 63) else s

/-- SVC_BIST: writing 1 clears MARGIN, TSENSE_FAIL, VMON_FAIL and PLL_FAIL. -/
def State.bistClear (s : State) (v : Nat) : State := { s with svc := { s.svc with bist := s.svc.bist - (s.svc.bist &&& (v % 4096)) } }

/-- PCI_ERR: writing 1 clears SEEN. -/
def State.pciErrClear (s : State) (v : Nat) : State := if bit v 31 then { s with pci := { s.pci with errSeen := false } } else s

/-- A write of `n` bytes from byte `o` of HAL_PORTn: RETRAIN acts at once (R308); EN written again sends a MISWIRED port to TRAIN as it lands
(Table 14.3, R18). -/
def State.halPortWrite (s : State) (p o n v : Nat) : State :=
  let s := if o + n = 8 then s.modPort p fun x => { x with enW := true } else s
  if bit (v * 2 ^ (8 * o)) 62 then s.toRetrain p else s

/-- A write of `n` bytes from byte `o` of a register of the PF. -/
def State.pfWrite (s : State) (r : RegRow) (i o n v : Nat) : State :=
  let off := r.key + r.stride * i
  match r.cls with
  | .prot =>
    let t := if r.key = Reg.halPort then s.halPortWrite i o n v
      else if r.key = Reg.halInj then s.modPort i fun x => { x with injW := true }
      else s
    { t with pfw := Tab.set s.pfw off (mergeReg (s.pfw_ off) r.mask o n v) }
  | .now => if r.key = Reg.accCons then { s.opAccCons v with pfw := s.pfw } else s
  | .next => s
  | .other =>
    if r.key = Reg.svcBist then s.bistClear v
    else if r.key = Reg.pciErr then s.pciErrClear v
    else s

/-- MBX_CMD_DB: the new tail (R363). -/
def State.cmdDb (s : State) (fn v : Nat) : State := s.modFn fn fun f => { f with tail := v % 65536 % ringSize f.cmd }

/-- MBX_CTRL: setting EN sets both ring heads and tails to 0 and the phase to 1 (R364); the events of start-up reach the PF's ring when
its mailbox first runs (R464). -/
def State.mbxCtrlWrite (s : State) (fn v : Nat) : State :=
  let v := v &&& 0x1FF9
  let was := bit (s.fnSt fn).ctrl 0
  let s := s.modFn fn fun f =>
    if bit v 0 && !was then { f with ctrl := v, head := 0, tail := 0, cplHead := 0, cplTail := 0, cplUsed := 0, cphase := true }
    else { f with ctrl := v }
  if fn = 0 && bit v 0 && !was then
    s.sendBoot
  else s

/-- MBX_CPL_HEAD: the entries before the index are consumed (R365). -/
def State.cplHeadWrite (s : State) (fn v : Nat) : State :=
  s.modFn fn fun f =>
    let n := ringSize f.cpl
    let h := v % 65536 % n
    { f with cplHead := v % 65536, cplUsed := (f.cplTail + n - h) % n }

/-- A write of `n` bytes from byte `o` of a mailbox register; LOG2SZ keeps its value while EN is 1. -/
def State.mbxWrite (s : State) (fn k o n v : Nat) : State :=
  let f := s.fnSt fn
  let mask := if bit f.ctrl 0 then 0xFFFFFFFFFFFFF000 else 0xFFFFFFFFFFFFF00F
  if k = Reg.mbxCtrl then s.mbxCtrlWrite fn v
  else if k = Reg.mbxCmdDb then s.cmdDb fn v
  else if k = Reg.mbxCplHead then s.cplHeadWrite fn v
  else if k = Reg.mbxCmd then s.modFn fn fun f => { f with cmd := mergeReg f.cmd mask o n v }
  else if k = Reg.mbxCpl then s.modFn fn fun f => { f with cpl := mergeReg f.cpl mask o n v }
  else if k = Reg.mbxEvt then s.modFn fn fun f => { f with evt := mergeReg f.evt mask o n v }
  else s

/-- A write of `n` bytes from byte `o` of a DMA channel's register; a channel of no wing keeps its reset values (R160). -/
def State.chanWrite (s : State) (w : Option Nat) (c k o n v : Nat) : State :=
  match w with
  | none => s
  | some w =>
    if k = 0 then
      if bit (s.chan c).ctrl 0 then s else s.modChan c fun x => { x with ring := mergeReg x.ring 0xFFFFFFFFFFFFF01F o n v }
    else if k = 8 then s.ctrlWrite w c v
    else if k = 0xC then s.tailWrite c v
    else if k = 0x14 then s.statClear c v
    else s

/-- A word of the MSI-X table: of the vector control only the mask bit is kept, and a vector that is unmasked sends its pending
message (R340). -/
def State.msixWrite (s : State) (fn k v : Nat) : State :=
  (s.modFn fn fun f => { f with tbl := Tab.set f.tbl k (if k % 4 = 3 then v % 2 else if k % 4 = 0 then v / 4 * 4 % 2 ^ 32 else v % 2 ^ 32) }).sendPend fn

/-- A write of `n` bytes (4 or 8) at an offset that lies in one register of a wing, a mailbox, a channel or the MSI-X table. -/
def State.writePart (s : State) (fn : Nat) (loc : RegLoc) (n v : Nat) : State :=
  match loc with
  | .wing w o => match RegRow.find wingRegRows o with
    | some (r, i) => s.wingWrite fn w r i (o - (r.key + r.stride * i)) n v
    | none => s
  | .mbx g o => match mbxReg o with
    | some (k, _) => s.mbxWrite g k (o - k) n v
    | none => s
  | .chan w c o => match chanReg o with
    | some (k, _) => s.chanWrite w c k (o - k) n v
    | none => s
  | .msix g o => if o < 256 then s.msixWrite g (o / 4) (v % 2 ^ 32) else s
  | .pf _ | .pba _ _ | .none => s

/-- A write of `n` bytes (4 or 8) at an offset that lies in one register; only a write of the PF's own space changes its registers. -/
def State.write1 (s : State) (fn off n v : Nat) : State :=
  match s.regLoc fn off with
  | .pf o => match RegRow.find pfRegRows o with
    | some (r, i) => s.pfWrite r i (o - (r.key + r.stride * i)) n v
    | none => s
  | loc => { s.writePart fn loc n v with pfw := s.pfw }

/-- The register that holds an offset covers the four bytes after it as well. -/
def State.spans (s : State) (fn off : Nat) : Bool :=
  match s.regLoc fn off with
  | .pf o => match RegRow.find pfRegRows o with
    | some (r, i) => decide (o + 8 ≤ r.key + r.stride * i + r.bytes)
    | none => false
  | .wing _ o => match RegRow.find wingRegRows o with
    | some (r, i) => decide (o + 8 ≤ r.key + r.stride * i + r.bytes)
    | none => false
  | .mbx _ o => match mbxReg o with
    | some (k, b) => decide (o + 8 ≤ k + b)
    | none => false
  | .chan _ _ o => match chanReg o with
    | some (k, b) => decide (o + 8 ≤ k + b)
    | none => false
  | _ => false

/-- A register write of 4 or 8 bytes (R445); 8 bytes over two registers write each of them. -/
def State.writeReg (s : State) (fn off : Nat) (wide : Bool) (v : Nat) : State :=
  if !wide then s.write1 fn off 4 (v % 2 ^ 32)
  else if s.spans fn off then s.write1 fn off 8 v
  else (s.write1 fn off 4 (v % 2 ^ 32)).write1 fn (off + 4) 4 (v / 2 ^ 32)

/-- An access refused for its size or alignment (R445). -/
def State.badAccess (s : State) (isWrite : Bool) : State :=
  let s := { s with pci := { s.pci with errSeen := true, errCount := sat 16 (s.pci.errCount + 1) } }
  if isWrite then s else { s with ans := { s.ans with reg := some (2 ^ 64 - 1) } }

/-- REGISTER_WRITE: a write of 4 or 8 bytes; misaligned, it is refused (R445). -/
def State.opRegWrite (s : State) (fn off : Nat) (wide : Bool) (v : Nat) : State :=
  if !s.fnAnswers fn then s
  else if off % (if wide then 8 else 4) ≠ 0 then s.badAccess true
  else s.writeReg fn off wide v

/-- BAD_SIZE_ACCESS: an access of another size, or not aligned to its size; any other access is none of this row. -/
def State.opBadSize (s : State) (fn off size : Nat) (isWrite : Bool) : State :=
  if !s.fnAnswers fn || size = 0 then s
  else if (size = 4 || size = 8) && off % size = 0 then s
  else s.badAccess isWrite

/-- TRD_NOW_READ (R59): a 32-bit read of the lower half latches the upper half for the function's next 32-bit read of it. TRD_NOW
lies in PF BAR0 only, so for a VF the offset is unassigned and reads 0 (R444, R445). -/
def State.opNowRead (s : State) (fn : Nat) (part : NowPart) (clk : Nat) : State :=
  if !s.fnAnswers fn then s
  else if fn ≠ 0 then { s with ans := { s.ans with reg := some 0 } }
  else
    let s := s.at_ clk
    let v := s.readReg 0 Reg.trdNow true
    match part with
    | .full64 => { s with ans := { s.ans with reg := some v } }
    | .lo32 => { s with time := { s.time with nowLatch := Tab.set s.time.nowLatch fn (v / 2 ^ 32) }, ans := { s.ans with reg := some (v % 2 ^ 32) } }
    | .hi32 =>
      match Tab.find s.time.nowLatch fn with
      | some h => { s with time := { s.time with nowLatch := Tab.erase s.time.nowLatch fn }, ans := { s.ans with reg := some h } }
      | none => { s with ans := { s.ans with reg := some (v / 2 ^ 32) } }

/-! ## The rows of single registers -/

/-- A row that writes one register acts when the function's space answers. -/
def State.regRow (s : State) (fn : Nat) (f : State → State) : State := if s.fnAnswers fn then f s else s

/-- A row on a wing's register: the PF or the wing's own VF (R334). -/
def State.wingRow (s : State) (fn w : Nat) (f : State → State) : State := if s.fnAnswers fn && (fn = 0 || fn = w + 1) then f s else s

/-- A row on a DMA channel's register, by the wing's index. -/
def State.chanRow (s : State) (fn w idx : Nat) (f : State → Nat → State) : State :=
  if s.fnAnswers fn then (match s.chanOf fn w idx with | some c => f s c | none => s) else s

/-! ## DBG_ACCESS (R454) -/

/-- DBG_ACCESS: at Capture-DR the last result is shifted out; at Update-DR the request executes. A write or a read of register space uses
the offsets of PF BAR0 and passes no access check of a function. Before start-up has zeroed the memories of a cold start what a read gives is
open (R456, R463). -/
def State.opDebug (s : State) (dr : Nat) : State :=
  if !s.tapLive then s else
  let s := s.debugFirst fun s => s.logEntry 4 none 0 []
  let s := { s with board := { s.board with tapIr := 0x20, pinsTaken := false }, ans := { s.ans with tap := s.board.tapDr } }
  let a := bits dr 17 47
  let data := bits dr 64 64
  let reg := bit dr 8
  let done (s : State) (x st : Nat) : State := { s with board := { s.board with tapDr := x * 2 ^ 64 + a * 2 ^ 17 + bits dr 15 2 * 2 ^ 15 + b2n reg * 256 + st } }
  let q : Req := { wing := none, owner := false }
  let here := s.region a ≠ .unmapped && s.region (a + 7) ≠ .unmapped
  -- the swap of weight banks holds for every source (R217)
  let at0 := match s.ownerOf a with | some w => s.bankAddr w (s.bankNow w) a | none => a
  match bits dr 15 2 with
  | 1 =>
    if reg then done s (s.readReg 0 a true) 0
    else if here then
      if !s.boot.hbmInit then
        let (n, s) := s.free
        done s (n % 2 ^ 64) 0
      else
        let (b, s) := s.read q at0 8
        done s (leNat (b.map (·.1))) 0
    else done s 0 2
  | 2 =>
    if reg then done (s.writeReg 0 a true data) data 0
    else if here then done (s.write q at0 (clean (leBytes 8 data))) data 0 else done s data 2
  | 3 => done (s.writeReg 0 a true data) data 0
  | _ => done s data 0

end Sys2Proof.Machine
end

