-- ==== Sys2Proof/Machine/Boundary.lean ====
section
/-!
DEFINITION. The tread boundary (spec/02_time.md R33, R35, Table 2.1, Table 2.2): the actions of one boundary in their order. An
action's own rules stand in the file of its chapter.
-/
namespace Sys2Proof.Machine

/-- The per-wing registers whose writes wait for the boundary, but WNG_STEP, which changes at 4l (R231). -/
def nextOffs : List Nat :=
  (wingRegRows.filter fun r => r.cls = .next && r.key ≠ Reg.wngStep).flatMap fun r => (upFrom 0 r.n).map fun i => r.key + r.stride * i

/-- Written values of those registers take effect (R18). -/
def Job.takeNext (j : Job) : Job :=
  { j with we := nextOffs.foldl (fun t o => let v := Tab.cnt j.wr o; if Tab.cnt t o = v then t else Tab.set t o v) j.we }

/-- Writes made in the tread that ended take effect. -/
def State.takeNext (s : State) : State :=
  (s.wings.map (·.1)).foldl State.takeForce { s with wings := s.wings.map fun x => (x.1, { x.2 with job := x.2.job.takeNext }) }

/-- Do something for each wing in ascending order. -/
def State.eachWing (s : State) (f : State → Nat → State) : State := (upFrom 0 32).foldl f s

/-- A wing in use: enabled, or with state of its own. -/
def State.wingLive (s : State) (w : Nat) : Bool := s.enabled w || decide (s.wing w ≠ {})

/-- What is limited per tread starts anew: memory records (R142, R339) and uncorrectable errors of a channel (R148). -/
def State.perTread (s : State) : State :=
  { s with recs := { s.recs with ceSent := [], ueSent := 0, retSent := [] }
           hbm := { s.hbm with ueTread := [] }
           wings := s.wings.map fun x => (x.1, if x.2.fltSent then { x.2 with fltSent := false } else x.2) }

/-- Remote requests whose window has ended and that no REQUEST_TIMEOUT has ended (R326, R34). -/
def State.lateReqs (s : State) : State :=
  (s.fab.reqs.filter fun r => !r.done && s.reqLate r).foldl (fun s r => s.reqTimeout r fun s _ => s.rawSettle) s

/-- What a wing reset does to the wing's memory first: issued writes land (R86), and both tables are emptied (R229). -/
def State.resetPre (s : State) (w : Nat) : State :=
  if s.wingLive w then ((s.landStores w).adpEmpty w).pfxEmpty w else s

/-- Action 1: windows that end here close; a device reset that takes effect here closes all of them (R413, R467); snapshots. -/
def State.action1 (s : State) : State :=
  let s := if s.boot.st = 5 && (s.outOp 0x602).any s.isDue then s.accWindows s.tread true fun _ => 9
    else s.accAction1 (s.cutAt (if s.accEnds then s.landProtection State.resetPre else s))
  s.doSnapshots

/-- Action 2 for units: unit states, retirement and replacements. -/
def State.action2u (s : State) : State := s.unitAction.hbmAction.replAction

/-- What the tread `t` that ended brings the context that leaves a wing: its commits (R179), and what its ended entries bring its training (R245). -/
def State.jobClose (t : Nat) (s : State) (w : Nat) : State :=
  let s := ((s.genFetch w).genCommits w t).genIrq w
  let rest := s.ended.filter fun e => e.wing ≠ w
  { { s with ended := s.ended.filter fun e => e.wing = w }.mergeAll with ended := rest }

/-- A state with the start-up state, hall time and PF registers of another: what the actions of a boundary leave to its named parts. -/
def State.lead (s r : State) : State := { r with pending := s.pending, boot := s.boot, time := s.time, pfw := s.pfw, pfe := s.pfe }

/-- A state with another hall-time unit. -/
def State.withTime (s : State) (t : TimeSt) : State := { s with time := t }

/-- A state with the PF registers of another. -/
def State.withPf (s l : State) : State := { s with pfw := l.pfw, pfe := l.pfe }

/-- The parts of action 2 behind the protection changes: units, quiesces and contexts. -/
def State.action2c (l : State) (t : Nat) : State :=
  let r := l.action2u
  ((r.outOp 0x600).foldl (fun s c => s.quiesceStep c) r).eachWing fun s w => s.ctxAction (State.jobClose t) w

/-- The first part of action 2: protection changes, units, quiesces and contexts. The start-up state, hall time and the written PF
registers stay. `t` is the tread that ended. -/
def State.action2a (s : State) (t : Nat) : State :=
  (s.lead ((s.landProtection State.resetPre).action2c t)).withPf (s.landProtection State.resetPre)

/-- Action 2; its last part is the lock state of the boundary (R51). -/
def State.action2 (s : State) (t : Nat) : State :=
  let a := s.action2a t
  (a.lead a.htBoundary).withTime a.htBoundary.time

/-- Action 4 for one wing, 4a to 4n; `t` is the tread that ended. -/
def State.action4 (s : State) (t w : Nat) : State :=
  if !s.wingLive w then s else
  let s := s.turnAborts w
  let k := s.turnStep w
  let lep := (s.job w).turn.lep
  let wep := (s.job w).vr.wep
  let s := ((s.kvAction w t (s.turnPolicy w k)).adpAction w).pfxAction w
  let s := (((s.countAdvance w).flipAction w).turnFlip w k).voteAction w t
  let s := ((s.stepAction w (s.stepHeld w)).xchAction w).turnAction w k
  let s := if (s.job w).turn.lep ≠ lep ∨ (s.job w).vr.wep ≠ wep then s.mirStart w else s
  s.genIrq w

/-- Action 5: flights, guest flights, and the guest quarters of the cores (R75). -/
def State.action5 (s : State) : State :=
  let s := s.eachWing fun s w => (s.flightAction w).guestAction w
  s.ranked.foldl (fun s x => s.quarterOwner x.1 x.2.1 x.2.2) s

/-- Action 6, and the window of self-test (R425). -/
def State.action6 (s : State) (e : BoundaryEnv) : State :=
  let s := { s with power := { s.power with bcap := s.power.bcapNext.getD s.power.bcap, bcapNext := none } }
  let s := s.powerAction
  ({ s with svc := { s.svc with inWin := e.inWindow && s.power.idleKind ≠ 2 } }).itemsSeen

/-- The rings' entries that no command row stands for. -/
def State.takeRings (s : State) : State := State.takeRest 135168 s

/-- The tread that ends is measured and closed, and its written registers take effect. -/
def State.closeTread (s : State) (e : BoundaryEnv) : State :=
  (((((s.edgeOn.withTime { s.time with tread := s.ending }).abortAhead s.gapEnd.tread).measure e).telClose s.ending).sendFired.takeNext).perTread

/-- What comes before action 2: the tread that ends is closed, the number moves on, and action 1. -/
def State.boundaryFirst (s : State) (e : BoundaryEnv) : State :=
  (s.lead { s.closeTread e with time := s.gapEnd.time, fresh := s.gapEnd.fresh }.action1).withTime s.gapEnd.time

/-- Actions 1 to 3. -/
def State.boundary3 (s : State) (e : BoundaryEnv) : State := ((s.boundaryFirst e).action2 s.ending).resetAction State.resetPre

/-- Action 4 for every wing, behind the opening of windows; `t` is the tread that ended. -/
def State.boundary4 (s : State) (t : Nat) : State := s.accOpen.eachWing fun s w => s.action4 t w

/-- Work abandoned at this boundary ends, and what every entry that ended brings is merged (R55, R245); only the work that ended here is kept
for the next boundary. -/
def State.endWork (s : State) : State :=
  let n := s.ended.length
  let r := s.ageAll.mergeAll
  { r with ended := (r.ended.drop n).map Ended.merged }

/-- Actions 4 to 6, and the work that starts in the new tread; `t` is the tread that ended. -/
def State.boundary456 (s : State) (t : Nat) (e : BoundaryEnv) : State :=
  let r := ((s.boundary4 t).action5.action6 e).eachWing fun s w => s.flightIndex w
  r.endWork.flushRecs.coreAction.rawSettle.lateReqs.bgLate.fabBoundary.takeRings

/-- What comes after action 3. -/
def State.boundaryLast (s : State) (t : Nat) (e : BoundaryEnv) : State := s.lead (s.boundary456 t e)

/-- The boundary that ends the present tread (R35). While the module is held in reset it has no treads. -/
def State.cross (s : State) (e : BoundaryEnv) : State :=
  if s.boot.st = 0 then s else (s.boundary3 e).boundaryLast s.ending e

/-- A gap begins here: a step with a gap is due, and rows come within it (R42, R43). -/
def State.gapHere (s : State) (e : BoundaryEnv) : Bool :=
  e.gap && s.boot.st ≠ 0 && s.time.inGap.isNone && decide (s.advanceTread.time.gap ≠ 0)

/-- TREAD_BOUNDARY (R35): the boundary that ends the present tread, or the beginning of a step's gap. After a row that carried the boundary
out already it is that same boundary (log entry 35). -/
def State.opBoundary (s : State) (e : BoundaryEnv) : State :=
  if s.time.crossed then { s with time := { s.time with crossed := false } }
  else if s.gapHere e then s.enterGap
  else s.cross e

/-- A row that stands for one action of the coming boundary: where that action is due, the boundary takes place, with every action of
Table 2.2 in its order; else nothing happens (log entry 35). -/
def State.boundaryRow (s : State) (e : BoundaryEnv) (due : Bool) : State :=
  if s.time.crossed || s.boot.st = 0 || !due then s
  else (s.cross e).withTime { (s.cross e).time with crossed := true }

/-- The state whose counts Table 2.4 judges at the coming boundary: its actions up to the lock state, and one more tread counted (R35, R41). -/
def State.judged (s : State) (e : BoundaryEnv) : State :=
  let x := (s.boundaryFirst e).action2a s.ending
  x.withTime x.time.countAll

/-- The transition of Table 2.4 that the coming boundary makes is the one a row names. -/
def State.htDue (s : State) (e : BoundaryEnv) (is : HtMove → TimeSt → Bool) : Bool := is (s.judged e).htEval (s.judged e).time

/-- UNIT_DIVERGE: action 2 of the coming boundary writes the event of this unit (R380). -/
def State.divergeDue (s : State) (e : BoundaryEnv) (key : Nat) : Bool :=
  let x := s.boundaryFirst e
  !(x.unit key).told && ((x.action2a s.ending).unit key).told

/-- QUIESCE_TIMEOUT: the window of a quiesce of this wing is over at the coming boundary (R349). -/
def State.quiesceDue (s : State) (e : BoundaryEnv) (w : Nat) : Bool :=
  let x := ((s.boundaryFirst e).landProtection State.resetPre).action2u
  (x.outOf 0x600 w).any fun c => x.isDue c && c.prog ≠ 0 && treadReached (treadAdd c.eff (c.arg 0)) x.tread

/-- LAND_TIMEOUT: the landing window of the wing is over at the coming boundary with no landing (R294). -/
def State.landDue (s : State) (e : BoundaryEnv) (w : Nat) : Bool :=
  let x := ((s.boundary3 e).turnAborts w)
  decide (x.turnStep w = .timeout)

/-- TRET_DEADLINE: the DEADLINE of an open TRET round has come at the coming boundary (R264). -/
def State.tretDue (s : State) (e : BoundaryEnv) (w x : Nat) : Bool :=
  let b := (s.boundary3 e)
  match b.xchEnt w x 2 with
  | some y => y.state = 1 && treadReached y.deadline b.tread
  | none => false

/-- FLIGHT_DONE: the last of REPEAT cycles of the wing's flight ends at the coming boundary (R52). -/
def State.flightDue (s : State) (e : BoundaryEnv) (w : Nat) : Bool :=
  let x := (s.boundary3 e).boundary4 s.ending
  ((x.job w).fl.cycle x.tread).2.2

/-- ENTRY_ABANDON: work on the core reaches its 16th boundary (R55). -/
def State.abandonDue (s : State) (e : BoundaryEnv) (core : Nat) : Bool :=
  let x := (s.boundary3 e).boundary4 s.ending
  [false, true].any fun g => match (x.core core).run g with | some r => r.late ≥ 16 | none => false

end Sys2Proof.Machine
end

