-- ==== Sys2Proof/Machine/Confine.lean ====
section
/-!
DEFINITION. The state that each family of commands may change. A meaning computes its effect and passes it through the confinement of its
family, which keeps every other field of the state and the queue: the frame of the family holds by the text. Time moves at boundaries
and resets only; other rows that carry a clk leave it as the present one of the tread (log entry 36).
-/
namespace Sys2Proof.Machine

/-- What a reset or a step of start-up changes; the queue is the only thing it always leaves. -/
def State.keepReset (s r : State) : State :=
  { r with
    pending := s.pending }

/-- What a tread boundary changes. -/
def State.keepBoundary (s r : State) : State :=
  { r with
    pending := s.pending, pci := s.pci, hostBad := s.hostBad, ans := s.ans }

/-- What a configuration access or a function-level event changes. -/
def State.keepHost (s r : State) : State :=
  { r with
    pending := s.pending, fresh := s.fresh, power := s.power, hostBad := s.hostBad, pfw := s.pfw, pfe := s.pfe, cores := s.cores,
    phys := s.phys, crecs := s.crecs, ended := s.ended, chans := s.chans, ports := s.ports, fab := s.fab, svc := s.svc,
    trust := s.trust, boot := { s.boot with flr := r.boot.flr }, time := { s.time with phase := r.time.phase % treadClk } }

/-- What a row of the tread’s own clock changes. -/
def State.keepTread (s r : State) : State :=
  { r with
    pending := s.pending, fresh := s.fresh, boot := s.boot, pci := s.pci, power := s.power, hostBad := s.hostBad, pfw := s.pfw,
    pfe := s.pfe, phys := s.phys, svc := s.svc, trust := s.trust, ans := s.ans,
    time := { s.time with phase := r.time.phase % treadClk } }

/-- What a received marker changes: the history of its port. -/
def State.keepMarker (s r : State) : State :=
  { r with
    pending := s.pending, fresh := s.fresh, boot := s.boot, pci := s.pci, power := s.power, mem := s.mem, host := s.host,
    hostBad := s.hostBad, gal := s.gal, hbm := s.hbm, units := s.units, recs := s.recs, pfw := s.pfw, pfe := s.pfe,
    wings := s.wings, cores := s.cores, phys := s.phys, crecs := s.crecs, ended := s.ended, chans := s.chans, cxl := s.cxl,
    board := s.board, ports := s.ports, fab := s.fab, acct := s.acct, svc := s.svc, trust := s.trust, fns := s.fns,
    newel := s.newel, ans := s.ans,
    time := { r.time with tread := s.time.tread, phase := r.time.phase % treadClk, lock := s.time.lock, parent := s.time.parent, root := s.time.root, hops := s.time.hops } }

/-- What a mailbox register changes. -/
def State.keepMailbox (s r : State) : State :=
  { r with
    pending := s.pending, fresh := s.fresh, pci := s.pci, power := s.power, hostBad := s.hostBad, pfw := s.pfw, pfe := s.pfe,
    cores := s.cores, phys := s.phys, crecs := s.crecs, ended := s.ended, chans := s.chans, ports := s.ports, fab := s.fab,
    svc := s.svc, trust := s.trust, ans := s.ans, boot := { s.boot with events := r.boot.events },
    time := { s.time with phase := r.time.phase % treadClk } }

/-- What a mailbox command changes. -/
def State.keepCommand (s r : State) : State :=
  { r with
    pending := s.pending, fresh := s.fresh, boot := s.boot, pci := s.pci, power := s.power, hostBad := s.hostBad, pfw := s.pfw,
    pfe := s.pfe, cores := s.cores, phys := s.phys, crecs := s.crecs, ended := s.ended, chans := s.chans, ports := s.ports,
    fab := s.fab, svc := s.svc, trust := s.trust, ans := s.ans, time := { s.time with phase := r.time.phase % treadClk } }

/-- What a load or flight command changes. -/
def State.keepLoad (s r : State) : State :=
  { r with
    pending := s.pending, fresh := s.fresh, boot := s.boot, pci := s.pci, power := s.power, hostBad := s.hostBad, pfw := s.pfw,
    pfe := s.pfe, phys := s.phys, crecs := s.crecs, ended := s.ended, chans := s.chans, ports := s.ports, fab := s.fab,
    svc := s.svc, trust := s.trust, ans := s.ans, time := { s.time with phase := r.time.phase % treadClk } }

/-- What a service command changes. -/
def State.keepService (s r : State) : State :=
  { r with
    pending := s.pending, fresh := s.fresh, boot := s.boot, pci := s.pci, power := s.power, hostBad := s.hostBad, pfw := s.pfw,
    pfe := s.pfe, cores := s.cores, phys := s.phys, crecs := s.crecs, ended := s.ended, chans := s.chans, fab := s.fab,
    trust := s.trust, ans := s.ans, time := { s.time with phase := r.time.phase % treadClk } }

/-- What a trust command or row changes. -/
def State.keepTrust (s r : State) : State :=
  { r with
    pending := s.pending, boot := s.boot, pci := s.pci, power := s.power, hostBad := s.hostBad, pfw := s.pfw, pfe := s.pfe,
    cores := s.cores, phys := s.phys, crecs := s.crecs, ended := s.ended, chans := s.chans, ports := s.ports, fab := s.fab,
    ans := s.ans, time := { s.time with phase := r.time.phase % treadClk } }

/-- What a newel restart changes. -/
def State.keepNewel (s r : State) : State :=
  { r with
    pending := s.pending, fresh := s.fresh, pci := s.pci, power := s.power, hostBad := s.hostBad, pfw := s.pfw, pfe := s.pfe,
    cores := s.cores, phys := s.phys, crecs := s.crecs, ended := s.ended, chans := s.chans, ports := s.ports, fab := s.fab,
    svc := s.svc, ans := s.ans, time := { s.time with phase := r.time.phase % treadClk } }

/-- What a DMA channel register changes: its channel. -/
def State.keepDmaReg (s r : State) : State :=
  { r with
    pending := s.pending, fresh := s.fresh, boot := s.boot, pci := s.pci, time := s.time, power := s.power, mem := s.mem,
    host := s.host, hostBad := s.hostBad, gal := s.gal, hbm := s.hbm, units := s.units, recs := s.recs, pfw := s.pfw, pfe := s.pfe,
    wings := s.wings, cores := s.cores, phys := s.phys, crecs := s.crecs, ended := s.ended, cxl := s.cxl, board := s.board,
    ports := s.ports, fab := s.fab, acct := s.acct, svc := s.svc, trust := s.trust, fns := s.fns, newel := s.newel, ans := s.ans }

/-- What a descriptor changes. -/
def State.keepDma (s r : State) : State :=
  { r with
    pending := s.pending, boot := s.boot, pci := s.pci, power := s.power, hostBad := s.hostBad, pfw := s.pfw, pfe := s.pfe,
    cores := s.cores, phys := s.phys, crecs := s.crecs, ended := s.ended, svc := s.svc, trust := s.trust, ans := s.ans,
    time := { s.time with phase := r.time.phase % treadClk } }

/-- What one of the registers with an action changes. -/
def State.keepRegRow (s r : State) : State :=
  { r with
    pending := s.pending, fresh := s.fresh, boot := s.boot, power := s.power, host := s.host, hostBad := s.hostBad, gal := s.gal,
    hbm := s.hbm, units := s.units, recs := s.recs, pfw := s.pfw, pfe := s.pfe, cores := s.cores, phys := s.phys, crecs := s.crecs,
    ended := s.ended, chans := s.chans, cxl := s.cxl, board := s.board, fab := s.fab, acct := s.acct, trust := s.trust,
    fns := s.fns, newel := s.newel, time := { s.time with phase := r.time.phase % treadClk, nowLatch := r.time.nowLatch } }

/-- What a register write changes. -/
def State.keepRegWrite (s r : State) : State :=
  { r with
    pending := s.pending, fresh := s.fresh, time := s.time, power := s.power, hostBad := s.hostBad, pfe := s.pfe, cores := s.cores,
    phys := s.phys, crecs := s.crecs, ended := s.ended, fab := s.fab, trust := s.trust,
    boot := { s.boot with events := r.boot.events } }

/-- What an access of the debug port changes: what a register write does, the log and the free values. -/
def State.keepDebug (s r : State) : State :=
  { r with
    pending := s.pending, time := s.time, power := s.power, hostBad := s.hostBad, pfe := s.pfe, cores := s.cores,
    phys := s.phys, crecs := s.crecs, ended := s.ended, fab := s.fab,
    boot := { s.boot with events := r.boot.events } }

/-- What a function that stays in its module changes. -/
def State.keepFunc (s r : State) : State :=
  { r with
    pending := s.pending, boot := s.boot, pci := s.pci, time := s.time, power := s.power, hostBad := s.hostBad, pfw := s.pfw,
    pfe := s.pfe, phys := s.phys, chans := s.chans, ports := s.ports, svc := s.svc, trust := s.trust, ans := s.ans }

/-- What a function that may send records changes. -/
def State.keepFuncSend (s r : State) : State :=
  { r with
    pending := s.pending, boot := s.boot, pci := s.pci, time := s.time, power := s.power, hostBad := s.hostBad, pfw := s.pfw,
    pfe := s.pfe, phys := s.phys, chans := s.chans, svc := s.svc, trust := s.trust, ans := s.ans }

/-- What a stream step changes. -/
def State.keepStream (s r : State) : State :=
  { r with
    pending := s.pending, boot := s.boot, pci := s.pci, power := s.power, hostBad := s.hostBad, pfw := s.pfw, pfe := s.pfe,
    phys := s.phys, chans := s.chans, svc := s.svc, trust := s.trust, ans := s.ans,
    time := { s.time with phase := r.time.phase % treadClk } }

/-- What a repair or patrol step changes. -/
def State.keepRepair (s r : State) : State :=
  { r with
    pending := s.pending, fresh := s.fresh, boot := s.boot, pci := s.pci, time := s.time, power := s.power, hostBad := s.hostBad,
    pfw := s.pfw, pfe := s.pfe, cores := s.cores, phys := s.phys, crecs := s.crecs, ended := s.ended, chans := s.chans,
    ports := s.ports, fab := s.fab, trust := s.trust, ans := s.ans }

/-- What a monitor, flash or telemetry step changes. -/
def State.keepMonitor (s r : State) : State :=
  { r with
    pending := s.pending, fresh := s.fresh, boot := s.boot, pci := s.pci, power := s.power, hostBad := s.hostBad, pfw := s.pfw,
    pfe := s.pfe, cores := s.cores, phys := s.phys, crecs := s.crecs, ended := s.ended, chans := s.chans, ports := s.ports,
    fab := s.fab, ans := s.ans, time := { s.time with phase := r.time.phase % treadClk } }

/-- What a shard of a model load changes. -/
def State.keepModelLoad (s r : State) : State :=
  { r with
    pending := s.pending, fresh := s.fresh, boot := s.boot, pci := s.pci, power := s.power, hostBad := s.hostBad, pfw := s.pfw,
    pfe := s.pfe, cores := s.cores, phys := s.phys, crecs := s.crecs, ended := s.ended, chans := s.chans, ports := s.ports,
    fab := s.fab, svc := s.svc, ans := s.ans, time := { s.time with phase := r.time.phase % treadClk } }

/-- What a port event changes. -/
def State.keepPort (s r : State) : State :=
  { r with
    pending := s.pending, fresh := s.fresh, boot := s.boot, pci := s.pci, power := s.power, hostBad := s.hostBad, pfw := s.pfw,
    pfe := s.pfe, cores := s.cores, phys := s.phys, crecs := s.crecs, ended := s.ended, chans := s.chans,
    svc := { s.svc with taps := r.svc.taps }, trust := s.trust, ans := s.ans, time := { s.time with phase := r.time.phase % treadClk } }

/-- What a frame or record changes. -/
def State.keepFrame (s r : State) : State :=
  { r with
    pending := s.pending, boot := s.boot, pci := s.pci, power := s.power, hostBad := s.hostBad, pfw := s.pfw, pfe := s.pfe,
    cores := s.cores, phys := s.phys, crecs := s.crecs, ended := s.ended, chans := s.chans, svc := s.svc, trust := s.trust,
    ans := s.ans, time := { s.time with phase := r.time.phase % treadClk } }

/-- What a CXL event changes. -/
def State.keepCxl (s r : State) : State :=
  { r with
    pending := s.pending, fresh := s.fresh, boot := s.boot, pci := s.pci, time := s.time, power := s.power, hostBad := s.hostBad,
    pfw := s.pfw, pfe := s.pfe, cores := s.cores, phys := s.phys, crecs := s.crecs, ended := s.ended, chans := s.chans,
    ports := s.ports, fab := s.fab, svc := s.svc, trust := s.trust, ans := s.ans }

/-- What a sideband command changes. -/
def State.keepSideband (s r : State) : State :=
  { r with
    pending := s.pending, fresh := s.fresh, boot := s.boot, pci := s.pci, time := s.time, mem := s.mem, host := s.host,
    hostBad := s.hostBad, gal := s.gal, hbm := s.hbm, units := s.units, recs := s.recs, pfw := s.pfw, pfe := s.pfe,
    wings := s.wings, cores := s.cores, phys := s.phys, crecs := s.crecs, ended := s.ended, chans := s.chans, cxl := s.cxl,
    ports := s.ports, fab := s.fab, acct := s.acct, svc := s.svc, trust := s.trust, fns := s.fns, newel := s.newel }

/-- What the exit from Test-Logic-Reset changes. -/
def State.keepTapExit (s r : State) : State :=
  { r with
    pending := s.pending, fresh := s.fresh, boot := s.boot, pci := s.pci, power := s.power, mem := s.mem, host := s.host,
    hostBad := s.hostBad, gal := s.gal, hbm := s.hbm, units := s.units, recs := s.recs, pfw := s.pfw, pfe := s.pfe,
    wings := s.wings, cores := s.cores, phys := s.phys, crecs := s.crecs, ended := s.ended, chans := s.chans, cxl := s.cxl,
    board := s.board, ports := s.ports, fab := s.fab, acct := s.acct, svc := s.svc, fns := s.fns, newel := s.newel, ans := s.ans,
    time := { s.time with phase := r.time.phase % treadClk } }

/-- What a TAP instruction changes. -/
def State.keepTapPins (s r : State) : State :=
  { r with
    pending := s.pending, boot := s.boot, pci := s.pci, time := s.time, power := s.power, hostBad := s.hostBad, pfw := s.pfw,
    pfe := s.pfe, cores := s.cores, phys := s.phys, crecs := s.crecs, ended := s.ended, chans := s.chans, fab := s.fab,
    svc := { s.svc with taps := r.svc.taps } }

end Sys2Proof.Machine
end

