-- ==== Sys2Proof/Machine/ExecCxl.lean ====
section
/-!
DEFINITION. The meanings of the CXL ports (spec/20_host_links.md): one definition for each command.
-/
namespace Sys2Proof.Machine

/-- CXL_LINK_UP (R446): A CXL link comes up; capacity is read and the decoder programmed, or the port rejected. -/
def execCxlLinkUp (port : Fin 2) (partner : CxlPartner) (s : State) : Host.Outcome State Fault Refusal :=
  .next (s.keepCxl (s.opCxlUp port.val partner))

/-- CXL_LINK_DOWN (R137): A CXL link goes down; reads are poisoned and writes discarded. -/
def execCxlLinkDown (port : Fin 2) (s : State) : Host.Outcome State Fault Refusal :=
  .next (s.keepCxl (s.opCxlDown port.val))

/-- CXL_COMPLETION_TIMEOUT (R137): A CXL read not completed in time is delivered poisoned and counted. -/
def execCxlCompletionTimeout (port : Fin 2) (addr openClk : Nat) (s : State) : Host.Outcome State Fault Refusal :=
  .next (s.keepCxl (s.opCxlTimeout port.val addr openClk))

/-- CXL_READ_COMPLETION (R448): A CXL completion arrives, and is discarded and counted if late. -/
def execCxlReadCompletion (port : Fin 2) (addr : Nat) (poison : Bool) (s : State) : Host.Outcome State Fault Refusal :=
  .next (s.keepCxl (s.opCxlCompletion port.val addr poison))

end Sys2Proof.Machine
end

