-- ==== Sys2Proof/Machine/ExecDma.lean ====
section
/-!
DEFINITION. The meanings of the DMA engine (spec/07_streams_dma.md): one definition for each command.
-/
namespace Sys2Proof.Machine

/-- DMA_CH_TAIL (R162): A tail write gives descriptors to the engine, or wakes a channel waiting on OWN. -/
def execDmaChTail (fn : Fn) (w : WingId) (idx : ChanId) (value : BitVec 32) (s : State) : Host.Outcome State Fault Refusal :=
  .next (s.keepDmaReg (s.chanRow fn.val w.val idx.val fun s c => s.tailWrite c value.toNat))

/-- DMA_CH_CTRL_EN (R169): An EN write enables the ring after its window check, or drains the channel. -/
def execDmaChCtrlEn (fn : Fn) (w : WingId) (idx : ChanId) (value : BitVec 32) (s : State) : Host.Outcome State Fault Refusal :=
  .next (s.keepDmaReg (s.chanRow fn.val w.val idx.val fun s c => s.ctrlWrite w.val c value.toNat))

/-- DMA_LIST (R165): A list-class descriptor copies one byte stream to another and is written back. -/
def execDmaList (ch : ChanId) (clk : Clk) (s : State) : Host.Outcome State Fault Refusal :=
  .next (s.keepDma (s.opDma ch.val clk.val false))

/-- DMA_GRID (R166): A grid-class descriptor copies lines, optionally widening and transposing, and is written back. -/
def execDmaGrid (ch : ChanId) (clk : Clk) (s : State) : Host.Outcome State Fault Refusal :=
  .next (s.keepDma (s.opDma ch.val clk.val true))

/-- DMA_CH_STAT_CLEAR (R15): A write of 1 clears the W1C bits of DMA_CH_STAT. -/
def execDmaChStatClear (fn : Fn) (w : WingId) (idx : ChanId) (value : BitVec 32) (s : State) : Host.Outcome State Fault Refusal :=
  .next (s.keepDmaReg (s.chanRow fn.val w.val idx.val fun s c => s.statClear c value.toNat))

end Sys2Proof.Machine
end

