-- ==== Sys2Proof/Machine/ExecFrame.lean ====
section
/-!
DEFINITION. The meanings of frames (spec/14_hall_fabric.md): one definition for each command.
-/
namespace Sys2Proof.Machine

/-- FRAME_TRANSMIT (R319): A frame is sent once its pool holds its credits and it wins arbitration. -/
def execFrameTransmit (port : PortId) (s : State) : Host.Outcome State Fault Refusal :=
  .next (s.keepFrame (s.opTransmit port.val))

/-- FRAME_FORWARD (R313): A transit frame is forwarded in dimension order, or handled as unreachable. -/
def execFrameForward (port : PortId) (frame : Frame) (headerBad payloadBad : Bool) (s : State) : Host.Outcome State Fault Refusal :=
  .next (s.keepFrame (s.opForward State.serveFrame State.deliverRec port.val frame headerBad payloadBad))

/-- RDREQ (R324): A remote read request is window-checked and answered by RDRSP. -/
def execRdreq (port : PortId) (frame : Frame) (clk : Clk) (s : State) : Host.Outcome State Fault Refusal :=
  .next (s.keepFrame (s.opRdreq port.val frame clk.val))

/-- RDRSP (R324): A read response delivers data, or FAULT or poison, to the requester. -/
def execRdrsp (port : PortId) (frame : Frame) (clk : Clk) (s : State) : Host.Outcome State Fault Refusal :=
  .next (s.keepFrame (s.opResponse port.val frame clk.val 1 fun s _ => s.rawSettle))

/-- WRREQ (R324): A remote write request is window-checked and written, then answered. -/
def execWrreq (port : PortId) (frame : Frame) (clk : Clk) (s : State) : Host.Outcome State Fault Refusal :=
  .next (s.keepFrame (s.opWrreq State.barred port.val frame clk.val))

/-- WRRSP (R323): A write response completes a remote write, retiring the STORE block. -/
def execWrrsp (port : PortId) (frame : Frame) (clk : Clk) (s : State) : Host.Outcome State Fault Refusal :=
  .next (s.keepFrame (s.opResponse port.val frame clk.val 3 fun s _ => s.rawSettle))

/-- REQUEST_TIMEOUT (R326): A request not answered within RTO treads completes poisoned. -/
def execRequestTimeout (tag : Nat) (clk : Clk) (s : State) : Host.Outcome State Fault Refusal :=
  .next (s.keepFrame (s.opReqTimeout tag clk.val fun s _ => s.rawSettle))

end Sys2Proof.Machine
end

