-- ==== Sys2Proof/Machine/ExecFunction.lean ====
section
/-!
DEFINITION. The meanings of the functions of a configuration word (spec/03_core.md Table 3.5): one definition for each command.
-/
namespace Sys2Proof.Machine

/-- VECTOR (R484): A VECTOR entry decodes, optionally accumulates, runs the epilogue and writes elements. -/
def execVector (core : CoreId) (slot : CtxSlot) (s : State) : Host.Outcome State Fault Refusal :=
  .next (s.keepFunc (s.fnRow core.val (slot == .guest) (fun c => cwFunc c = 0) fun s r => s.vectorFn core.val (slot == .guest) r))

/-- MATMUL (R106): A MATMUL entry forms products on the arrays, accumulates and writes outputs. -/
def execMatmul (core : CoreId) (slot : CtxSlot) (s : State) : Host.Outcome State Fault Refusal :=
  .next (s.keepFunc (s.fnRow core.val (slot == .guest) (fun c => cwFunc c = 1) fun s r => s.matmulFn core.val (slot == .guest) r))

/-- ATTN (R199): An ATTN entry writes KV, resolves and pins pages and computes attention. -/
def execAttn (core : CoreId) (slot : CtxSlot) (s : State) : Host.Outcome State Fault Refusal :=
  .next (s.keepFunc (s.fnRow core.val (slot == .guest) (fun c => cwFunc c = 2) fun s r => s.attnFn core.val (slot == .guest) r))

/-- ROUTE (R259): A ROUTE entry chooses experts, assigns slots and sends token records. -/
def execRoute (core : CoreId) (slot : CtxSlot) (s : State) : Host.Outcome State Fault Refusal :=
  .next (s.keepFuncSend (s.sendRow core.val (slot == .guest) (isRoute) fun s r => s.routeFn core.val (slot == .guest) r))

/-- PLAN (R175): A PLAN entry picks the rows of the step and writes the length table. -/
def execPlan (core : CoreId) (slot : CtxSlot) (s : State) : Host.Outcome State Fault Refusal :=
  .next (s.keepFunc (s.fnRow core.val (slot == .guest) (isSample 0) fun s r => s.planFn core.val (slot == .guest) r))

/-- DRAFT (R183): A DRAFT entry samples a draft candidate for each entry. -/
def execDraft (core : CoreId) (slot : CtxSlot) (s : State) : Host.Outcome State Fault Refusal :=
  .next (s.keepFunc (s.fnRow core.val (slot == .guest) (isSample 1) fun s r => s.draftFn core.val (slot == .guest) r))

/-- VERIFY (R182): A VERIFY entry runs the acceptance test and sampling and stages commits. -/
def execVerify (core : CoreId) (slot : CtxSlot) (s : State) : Host.Outcome State Fault Refusal :=
  .next (s.keepFunc (s.fnRow core.val (slot == .guest) (isSample 2) fun s r => s.verifyFn core.val (slot == .guest) r))

/-- SEND (R266): A REDUCE SEND entry compresses gradient chunks and sends contribution records. -/
def execSend (core : CoreId) (slot : CtxSlot) (s : State) : Host.Outcome State Fault Refusal :=
  .next (s.keepFuncSend (s.sendRow core.val (slot == .guest) (isReduce 0) fun s r => s.sendFn core.val (slot == .guest) r))

/-- OPEN (R269): A REDUCE OPEN entry starts a GRAD round. -/
def execOpenRound (core : CoreId) (slot : CtxSlot) (s : State) : Host.Outcome State Fault Refusal :=
  .next (s.keepFuncSend (s.fnRow core.val (slot == .guest) (isReduce 1) fun s r => s.openFn core.val (slot == .guest) r))

/-- ACCUM (R272): A REDUCE ACCUM entry adds ring records into the accumulator in arrival order. -/
def execAccum (core : CoreId) (slot : CtxSlot) (s : State) : Host.Outcome State Fault Refusal :=
  .next (s.keepFuncSend (s.fnRow core.val (slot == .guest) (isReduce 2) fun s r => s.accumFn core.val (slot == .guest) r))

/-- CLOSE (R273): A REDUCE CLOSE entry drains its ring, zeroes empty chunks and counts misses. -/
def execClose (core : CoreId) (slot : CtxSlot) (s : State) : Host.Outcome State Fault Refusal :=
  .next (s.keepFuncSend (s.fnRow core.val (slot == .guest) (isReduce 3) fun s r => s.closeFn core.val (slot == .guest) r))

/-- TOPEN (R261): A REDUCE TOPEN entry opens a TIN round and clears row tags. -/
def execTopen (core : CoreId) (slot : CtxSlot) (s : State) : Host.Outcome State Fault Refusal :=
  .next (s.keepFuncSend (s.fnRow core.val (slot == .guest) (isReduce 4) fun s r => s.topenFn core.val (slot == .guest) r))

/-- TCLOSE (R263): A REDUCE TCLOSE entry zeroes unfilled inbox rows of its share. -/
def execTclose (core : CoreId) (slot : CtxSlot) (s : State) : Host.Outcome State Fault Refusal :=
  .next (s.keepFuncSend (s.fnRow core.val (slot == .guest) (isReduce 5) fun s r => s.tcloseFn core.val (slot == .guest) r))

/-- RETURN (R264): A REDUCE RETURN entry sends expert outputs back to their origins. -/
def execReturnRows (core : CoreId) (slot : CtxSlot) (s : State) : Host.Outcome State Fault Refusal :=
  .next (s.keepFuncSend (s.sendRow core.val (slot == .guest) (isReduce 6) fun s r => s.returnFn core.val (slot == .guest) r))

/-- COMBINE (R265): A REDUCE COMBINE entry sums the gated return rows. -/
def execCombine (core : CoreId) (slot : CtxSlot) (s : State) : Host.Outcome State Fault Refusal :=
  .next (s.keepFuncSend (s.fnRow core.val (slot == .guest) (isReduce 7) fun s r => s.combineFn core.val (slot == .guest) r))

/-- UPDATE (R242): An OPTIM UPDATE entry applies the optimiser to owner state under the verdict. -/
def execUpdate (core : CoreId) (slot : CtxSlot) (s : State) : Host.Outcome State Fault Refusal :=
  .next (s.keepFunc (s.fnRow core.val (slot == .guest) (isOptim 0) fun s r => s.updateFn core.val (slot == .guest) r))

/-- VOTE (R246): An OPTIM VOTE entry combines local and read votes for publication. -/
def execVote (core : CoreId) (slot : CtxSlot) (s : State) : Host.Outcome State Fault Refusal :=
  .next (s.keepFunc (s.fnRow core.val (slot == .guest) (isOptim 1) fun s r => s.recordsFn core.val (slot == .guest) r))

/-- VERDICT (R248): An OPTIM VERDICT entry combines vote records to form the verdict. -/
def execVerdict (core : CoreId) (slot : CtxSlot) (s : State) : Host.Outcome State Fault Refusal :=
  .next (s.keepFunc (s.fnRow core.val (slot == .guest) (isOptim 2) fun s r => s.recordsFn core.val (slot == .guest) r))

/-- LOSS (R239): An OPTIM LOSS entry adds loss values into the layer's norm record. -/
def execLoss (core : CoreId) (slot : CtxSlot) (s : State) : Host.Outcome State Fault Refusal :=
  .next (s.keepFunc (s.fnRow core.val (slot == .guest) (isOptim 3) fun s r => s.lossFn core.val (slot == .guest) r))

/-- ADVANCE (R230): An OPTIM ADVANCE entry adds 1 to WNG_STEP at the next boundary. -/
def execAdvance (core : CoreId) (slot : CtxSlot) (s : State) : Host.Outcome State Fault Refusal :=
  .next (s.keepFunc (s.fnRow core.val (slot == .guest) (isOptim 4) fun s r => (fun (_ : Run) => s) r))

/-- XFORM (R69): An XFORM entry runs a 64-point DFT stage with generated twiddles. -/
def execXform (core : CoreId) (slot : CtxSlot) (s : State) : Host.Outcome State Fault Refusal :=
  .next (s.keepFunc (s.fnRow core.val (slot == .guest) (fun c => cwFunc c = 7) fun s r => s.xformFn core.val (slot == .guest) r))

/-- CONVERT (R286): A CONVERT entry re-encodes elements from FMT_X to FMT_Y. -/
def execConvert (core : CoreId) (slot : CtxSlot) (s : State) : Host.Outcome State Fault Refusal :=
  .next (s.keepFunc (s.fnRow core.val (slot == .guest) (fun c => cwFunc c = 8) fun s r => s.vectorFn core.val (slot == .guest) r))

/-- DELTA_SEND (R287): A DELTA entry codes the delta blocks of a COPY entry and sends delta records. -/
def execDeltaSend (core : CoreId) (slot : CtxSlot) (s : State) : Host.Outcome State Fault Refusal :=
  .next (s.keepFuncSend (s.sendRow core.val (slot == .guest) (isDelta) fun s r => s.deltaFn core.val (slot == .guest) r))

end Sys2Proof.Machine
end

