-- ==== Sys2Proof/Machine/ExecHallTime.lean ====
section
/-!
DEFINITION. The meanings of the transitions of Table 2.4 and the marker (spec/02_time.md): one definition for each command.
-/
namespace Sys2Proof.Machine

/-- LOCK_ACQUIRED (R41): After the step, 256 consecutive measured treads within 20 ns make ACQUIRE become LOCKED. -/
def execLockAcquired (env : BoundaryEnv) (s : State) : Host.Outcome State Fault Refusal :=
  .next (s.keepBoundary (s.boundaryRow env (s.htDue env fun m t => t.lock = 1 && m.isLock)))

/-- LOCK_LOST (R41): Offset beyond 40 ns in 4 consecutive treads sends LOCKED to ACQUIRE and loses hall time. -/
def execLockLost (env : BoundaryEnv) (s : State) : Host.Outcome State Fault Refusal :=
  .next (s.keepBoundary (s.boundaryRow env (s.htDue env fun m t => t.lock = 2 && m.isAcquire && t.parent ≠ 15)))

/-- PARENT_LOST (R37): The parent gives no marker for 4 treads or stops being a source; a new parent or HOLDOVER follows. -/
def execParentLost (env : BoundaryEnv) (s : State) : Host.Outcome State Fault Refusal :=
  .next (s.keepBoundary (s.boundaryRow env (s.htDue env fun m t => t.lock = 2 && (m.isLock || m = .toHoldover))))

/-- HOLDOVER_EXPIRY (R41): After 500 treads in HOLDOVER the unit returns to FREE and hall time is lost. -/
def execHoldoverExpiry (env : BoundaryEnv) (s : State) : Host.Outcome State Fault Refusal :=
  .next (s.keepBoundary (s.boundaryRow env (s.htDue env fun m t => t.lock = 3 && decide (t.hold ≥ 500) && m = .toFree true)))

/-- ACQUIRE_NO_SOURCE (R41): No source for 16 treads returns ACQUIRE to FREE. -/
def execAcquireNoSource (env : BoundaryEnv) (s : State) : Host.Outcome State Fault Refusal :=
  .next (s.keepBoundary (s.boundaryRow env (s.htDue env fun m t => t.lock = 1 && decide (t.noSrc ≥ 16) && m = .toFree false)))

/-- MARKER (R38): A hall-time marker arrives and the offset to the parent is computed. -/
def execMarker (port : PortId) (msg : MarkerMsg) (clk : Clk) (eighth : Fin 8) (s : State) : Host.Outcome State Fault Refusal :=
  .next (s.keepMarker (s.opMarker port.val msg clk.val eighth.val))

end Sys2Proof.Machine
end

