-- ==== Sys2Proof/Machine/ExecHost.lean ====
section
/-!
DEFINITION. The meanings of functions and configuration space (spec/20_host_links.md): one definition for each command.
-/
namespace Sys2Proof.Machine

/-- CONFIG_REQUEST (R460): A PCIe configuration request is answered, or completed with Retry Status before MEMORY. -/
def execConfigRequest (fn : Fn) (field : CfgField) (write : Option (BitVec 32)) (s : State) : Host.Outcome State Fault Refusal :=
  .next (s.keepHost (s.opConfig fn.val field (write.map (·.toNat))))

/-- VF_FLR (R443): A function-level reset of a VF requests a wing reset of its wing. -/
def execVfFlr (w : WingId) (clk : Clk) (s : State) : Host.Outcome State Fault Refusal :=
  .next (s.keepHost (s.opVfFlr w.val clk.val))

/-- VF_ENABLE_CHANGE (R442): The PF writes NumVFs or VF Enable; each VF that disappears is reset as by FLR. -/
def execVfEnableChange (numVFs : Nat) (enable : Bool) (clk : Clk) (s : State) : Host.Outcome State Fault Refusal :=
  .next (s.keepHost (s.opVfEnable numVFs enable clk.val))

/-- PF_D3HOT (R443): The PF enters D3hot, which disables its memory space and bus mastering while wings run on. -/
def execPfD3hot (s : State) : Host.Outcome State Fault Refusal :=
  .next (s.keepHost (s.opD3 true))

/-- PF_D0_RETURN (R443): The PF returns to D0 with its registers kept. -/
def execPfD0Return (s : State) : Host.Outcome State Fault Refusal :=
  .next (s.keepHost (s.opD3 false))

end Sys2Proof.Machine
end

