-- ==== Sys2Proof/Machine/ExecLoad.lean ====
section
/-!
DEFINITION. The meanings of the commands of Table 16.2 that load and run flights (spec/02_time.md, spec/03_core.md): one definition for each command.
-/
namespace Sys2Proof.Machine

/-- NOP (R372): Does nothing and completes at acceptance. -/
def execNop (fn : Fn) (clk : Clk) (s : State) : Host.Outcome State Fault Refusal :=
  .next (s.keepLoad (s.mailRow fn.val clk.val spcNop fun s c => s.cmdNop c))

/-- IDENTIFY (R372): Returns interface level, revision, slot, Torak version and restart count. -/
def execIdentify (fn : Fn) (clk : Clk) (s : State) : Host.Outcome State Fault Refusal :=
  .next (s.keepLoad (s.mailRow fn.val clk.val spcIdentify fun s c => s.cmdIdentify c))

/-- CFG_LOAD (R373): Validates and loads or appends configuration words to the wing's store. -/
def execCfgLoad (fn : Fn) (clk : Clk) (s : State) : Host.Outcome State Fault Refusal :=
  .next (s.keepLoad (s.mailRow fn.val clk.val spcCfgLoad fun s c => s.cmdCfgLoad c))

/-- FLIGHT_LOAD (R48): Validates a flight and places it in the pending slot. -/
def execFlightLoad (fn : Fn) (clk : Clk) (s : State) : Host.Outcome State Fault Refusal :=
  .next (s.keepLoad (s.mailRow fn.val clk.val spcFlightLoad fun s c => s.cmdFlightLoad c))

/-- FLIGHT_SWITCH (R50): Requests the pending flight to become active at a tread or at cycle end. -/
def execFlightSwitch (fn : Fn) (clk : Clk) (s : State) : Host.Outcome State Fault Refusal :=
  .next (s.keepLoad (s.mailRow fn.val clk.val spcFlightSwitch fun s c => s.cmdFlightSwitch c))

/-- FLIGHT_STOP (R373): Requests the active flight to stop at the next boundary or at cycle end. -/
def execFlightStop (fn : Fn) (clk : Clk) (s : State) : Host.Outcome State Fault Refusal :=
  .next (s.keepLoad (s.mailRow fn.val clk.val spcFlightStop fun s c => s.cmdFlightStop c))

/-- FLIGHT_UNLOAD (R373): Requests the pending slot, or both slots, to be unloaded. -/
def execFlightUnload (fn : Fn) (clk : Clk) (s : State) : Host.Outcome State Fault Refusal :=
  .next (s.keepLoad (s.mailRow fn.val clk.val spcFlightUnload fun s c => s.cmdFlightUnload c))

/-- GUEST_LOAD (R341): Validates and loads a guest flight for a lender's bubbles. -/
def execGuestLoad (fn : Fn) (clk : Clk) (s : State) : Host.Outcome State Fault Refusal :=
  .next (s.keepLoad (s.mailRow fn.val clk.val spcGuestLoad fun s c => s.cmdGuestLoad c))

end Sys2Proof.Machine
end

