-- ==== Sys2Proof/Machine/ExecMailbox.lean ====
section
/-!
DEFINITION. The meanings of the mailbox registers (spec/16_newel.md): one definition for each command.
-/
namespace Sys2Proof.Machine

/-- MBX_CMD_DB (R363): A doorbell write gives the newel new command entries to take in rounds. -/
def execMbxCmdDb (fn : Fn) (value : BitVec 32) (s : State) : Host.Outcome State Fault Refusal :=
  .next (s.keepMailbox (s.regRow fn.val fun s => State.takeRest 4096 (s.cmdDb fn.val value.toNat)))

/-- MBX_CTRL_EN (R364): Setting EN resets ring heads, tails and phase; clearing it stops the taking of commands. -/
def execMbxCtrlEn (fn : Fn) (value : BitVec 32) (s : State) : Host.Outcome State Fault Refusal :=
  .next (s.keepMailbox (s.regRow fn.val fun s => s.mbxCtrlWrite fn.val value.toNat))

/-- MBX_CPL_HEAD (R365): The driver frees completion entries, which lets commands be taken again. -/
def execMbxCplHead (fn : Fn) (value : BitVec 32) (s : State) : Host.Outcome State Fault Refusal :=
  .next (s.keepMailbox (s.regRow fn.val fun s => State.takeRest 4096 (s.cplHeadWrite fn.val value.toNat)))

end Sys2Proof.Machine
end

