-- ==== Sys2Proof/Machine/ExecMirror.lean ====
section
/-!
DEFINITION. The meanings of the mirror (spec/13_turn.md): one definition for each command.
-/
namespace Sys2Proof.Machine

/-- MIRROR_BLOCK (R329): A mirror block is read, coded and sent on T, and REFA is updated. -/
def execMirrorBlock (w : WingId) (s : State) : Host.Outcome State Fault Refusal :=
  .next (s.keepFrame (s.opMirBlock w.val))

/-- MIRROR_COMMIT_SEND (R329): After the last block, the COMMIT record is sent. -/
def execMirrorCommitSend (w : WingId) (s : State) : Host.Outcome State Fault Refusal :=
  .next (s.keepFrame (s.opMirCommitSend w.val))

/-- MIRROR_RECORD (R330): A mirror block record arrives at the twin and lands or fails the round. -/
def execMirrorRecord (rec : RecIn) (clk : Clk) (s : State) : Host.Outcome State Fault Refusal :=
  .next (s.keepFrame (s.opMirRecord rec clk.val))

/-- MIRROR_COMMIT (R330): A COMMIT record arrives; the written half is committed, or a failure reply is sent. -/
def execMirrorCommit (rec : RecIn) (clk : Clk) (s : State) : Host.Outcome State Fault Refusal :=
  .next (s.keepFrame (s.opMirCommit rec clk.val))

/-- MIRROR_FAILURE_REPLY (R331): A failure reply arrives at the sender, failing the round and setting DIRTY. -/
def execMirrorFailureReply (rec : RecIn) (s : State) : Host.Outcome State Fault Refusal :=
  .next (s.keepFrame (s.opMirReply rec))

end Sys2Proof.Machine
end

