-- ==== Sys2Proof/Machine/ExecMonitor.lean ====
section
/-!
DEFINITION. The meanings of calibration, monitors, flash and telemetry (spec/18_accounting.md, spec/19_service.md): one definition for each command.
-/
namespace Sys2Proof.Machine

/-- SERDES_CAL (R423): A slice adapts a lane's receive equaliser by at most one step per tap. -/
def execSerdesCal (port : Fin 12) (step : List Int) (atLimit done : Bool) (s : State) : Host.Outcome State Fault Refusal :=
  .next (s.keepMonitor (s.opSerdesCal port.val step atLimit done))

/-- TEMP_CAL (R424): A pass checks thermal sensors and adjusts energy coefficients. -/
def execTempCal (bad : BitVec 64) (s : State) : Host.Outcome State Fault Refusal :=
  .next (s.keepMonitor (s.opTempCal bad.toNat))

/-- MONITOR (R426): A pass checks the PLLs and voltage monitors. -/
def execMonitor (pllDev16 : Nat) (refDev16 : Nat) (monBad : BitVec 32) (s : State) : Host.Outcome State Fault Refusal :=
  .next (s.keepMonitor (s.opMonitor pllDev16 refDev16 monBad.toNat))

/-- FLASH (R428): A flash upkeep slice of wear levelling, refresh, retirement or erasure. -/
def execFlash (op : FlashOp) (s : State) : Host.Outcome State Fault Refusal :=
  .next (s.keepMonitor (s.opFlash op))

/-- LOGOUT (R404): Event-log entries move from the log queue to flash. -/
def execLogout (n : Nat) (s : State) : Host.Outcome State Fault Refusal :=
  .next (s.keepMonitor (s.opLogout n))

/-- TELEM (R420): Telemetry and accounting records are written to host rings in free host-port slots. -/
def execTelem (n : Nat) (s : State) : Host.Outcome State Fault Refusal :=
  .next (s.keepMonitor (s.opTelem n))

/-- SLICE_DEFER (R422): A background slice that spends its budget is discarded and restarted. -/
def execSliceDefer (task : Fin 14) (s : State) : Host.Outcome State Fault Refusal :=
  .next (s.keepMonitor (s.opSliceDefer task.val))

/-- SHARD_READ_DONE (R396): A shard copy finishes reading; its hash decides a retry, failure or success of the load. -/
def execShardReadDone (w : WingId) (shard : Nat) (read : ShardRead) (s : State) : Host.Outcome State Fault Refusal :=
  .next (s.keepModelLoad (s.opShardRead w.val shard read))

/-- FLASH_COPY_TIMEOUT (R396): A shard copy not finished within 1 s plus 1 s per GiB fails. -/
def execFlashCopyTimeout (w : WingId) (shard : Nat) (got : List Byte) (s : State) : Host.Outcome State Fault Refusal :=
  .next (s.keepModelLoad (s.opCopyTimeout w.val shard got))

/-- ITEM_ENDS (R427): A self-test item ends after its DURATION and SELFTEST_RUN completes with its PASS, FAIL or DEFERRED verdict. -/
def execItemEnds (item : Fin 8) (unit : Fin 832) (value limit : Nat)
    (correctable discarded : Bool) (s : State) : Host.Outcome State Fault Refusal :=
  .next (s.keepMonitor (s.opItemEnds item.val unit.val value limit correctable discarded))

end Sys2Proof.Machine
end

