-- ==== Sys2Proof/Machine/ExecPort.lean ====
section
/-!
DEFINITION. The meanings of the ports of the hall (spec/14_hall_fabric.md): one definition for each command.
-/
namespace Sys2Proof.Machine

/-- PORT_SIGNAL_DETECT (R308): An enabled DOWN port detects signal and enters TRAIN. -/
def execPortSignalDetect (port : PortId) (s : State) : Host.Outcome State Fault Refusal :=
  .next (s.keepPort (s.opSignal port.val))

/-- CODEWORD_LOCK (R301): 64 consecutive good codewords give codeword lock. -/
def execCodewordLock (port : PortId) (s : State) : Host.Outcome State Fault Refusal :=
  .next (s.keepPort (s.opLock port.val))

/-- CODEWORD_LOCK_LOSS (R301): 8 consecutive uncorrectable codewords lose lock and the port enters RETRAIN. -/
def execCodewordLockLoss (port : PortId) (s : State) : Host.Outcome State Fault Refusal :=
  .next (s.keepPort (s.opLockLoss port.val))

/-- TRAIN_TIMEOUT (R308): A port in TRAIN for 500 ms returns to DOWN. -/
def execTrainTimeout (port : PortId) (s : State) : Host.Outcome State Fault Refusal :=
  .next (s.keepPort (s.opTrainTimeout port.val))

/-- RETRAIN_TIMEOUT (R308): A port not back to UP within 1 ms of RETRAIN goes to TRAIN. -/
def execRetrainTimeout (port : PortId) (s : State) : Host.Outcome State Fault Refusal :=
  .next (s.keepPort (s.opRetrainTimeout port.val))

/-- CELL_RECEIVE (R302): A cell arrives; DATA cells are accepted in sequence or answered by NAK. -/
def execCellReceive (port : PortId) (uncorrectable : Bool) (header : BitVec 20) (body : List Byte)
    (clk : Clk) (eighth : Fin 8) (s : State) : Host.Outcome State Fault Refusal :=
  .next (s.keepPort (s.opCell port.val uncorrectable header.toNat body clk.val eighth.val))

/-- ACK (R303): An ACK item frees covered cells from the replay buffer. -/
def execAck (port : PortId) (cseq : Fin 4096) (s : State) : Host.Outcome State Fault Refusal :=
  .next (s.keepPort (s.opAck port.val cseq.val))

/-- NAK (R303): A NAK item makes the sender resend from the named CSEQ. -/
def execNak (port : PortId) (cseq : Fin 4096) (s : State) : Host.Outcome State Fault Refusal :=
  .next (s.keepPort (s.opNak port.val cseq.val))

/-- CREDIT (R320): A CREDIT item returns freed credits to a pool. -/
def execCredit (port : PortId) (vc : Fin 6) (pool : Fin 33) (freed : Fin 65536) (s : State) : Host.Outcome State Fault Refusal :=
  .next (s.keepPort (s.opCredit port.val vc.val pool.val freed.val))

/-- NEIGH (R310): A NEIGH item is checked against the torus geometry; a mismatch makes the port MISWIRED. -/
def execNeigh (port : PortId) (num : Fin 131072) (nport : Fin 16) (keep : Bool) (s : State) : Host.Outcome State Fault Refusal :=
  .next (s.keepPort (s.opNeigh port.val num.val nport.val keep))

/-- REPLAY_TIMEOUT (R303): 16 µs without ACK progress resends from the oldest unacknowledged cell. -/
def execReplayTimeout (port : PortId) (s : State) : Host.Outcome State Fault Refusal :=
  .next (s.keepPort (s.opReplayTimeout port.val))

/-- RETRY_LIMIT (R303): A cell sent 8 times without ACK puts the port in RETRAIN. -/
def execRetryLimit (port : PortId) (s : State) : Host.Outcome State Fault Refusal :=
  .next (s.keepPort (s.opRetryLimit port.val))

/-- CTRL_CELL_SEND (R307): A port sends a CTRL cell carrying its pending ACK, NAK and CREDIT items once 31 or more cells have passed
since its last CTRL cell. -/
def execCtrlCellSend (port : PortId) (s : State) : Host.Outcome State Fault Refusal :=
  .next (s.keepPort (s.opCtrlCell port.val))

end Sys2Proof.Machine
end

