-- ==== Sys2Proof/Machine/ExecRecord.lean ====
section
/-!
DEFINITION. The meanings of message records and raw requests (spec/12_exchange.md, spec/14_hall_fabric.md): one definition for each command.
-/
namespace Sys2Proof.Machine

/-- TOKEN_RECORD (R262): A token record arrives at an expert inbox and is accepted or dropped. -/
def execTokenRecord (rec : RecIn) (clk : Clk) (s : State) : Host.Outcome State Fault Refusal :=
  .next (s.keepFrame (s.opRecord 0 rec clk.val))

/-- RETURN_RECORD (R264): A return record arrives at the origin's TRET area. -/
def execReturnRecord (rec : RecIn) (clk : Clk) (s : State) : Host.Outcome State Fault Refusal :=
  .next (s.keepFrame (s.opRecord 1 rec clk.val))

/-- CONTRIBUTION_RECORD (R271): A contribution record arrives and enters a ring or is dropped. -/
def execContributionRecord (rec : RecIn) (clk : Clk) (s : State) : Host.Outcome State Fault Refusal :=
  .next (s.keepFrame (s.opRecord 2 rec clk.val))

/-- HOLD_PLACE (R321): A message record waiting in the hold is placed once its ring has room. -/
def execHoldPlace (w : WingId) (clk : Clk) (s : State) : Host.Outcome State Fault Refusal :=
  .next (s.keepFrame (s.opHoldPlace w.val clk.val))

/-- DELTA_RECORD (R290): A delta record arrives and its blocks land or are requested raw. -/
def execDeltaRecord (rec : RecIn) (clk : Clk) (s : State) : Host.Outcome State Fault Refusal :=
  .next (s.keepFrame (s.opRecord 3 rec clk.val))

/-- RAW_REQUEST_ISSUE (R291): A waiting raw request issues when fewer than 64 are outstanding. -/
def execRawRequestIssue (w : WingId) (s : State) : Host.Outcome State Fault Refusal :=
  .next (s.keepFrame (s.opRawIssue w.val))

/-- RAWREQ (R291): A raw request is served at the owner from the NEW or REF codes. -/
def execRawreq (port : PortId) (frame : Frame) (clk : Clk) (s : State) : Host.Outcome State Fault Refusal :=
  .next (s.keepFrame (s.opRawreq port.val frame clk.val))

end Sys2Proof.Machine
end

