-- ==== Sys2Proof/Machine/ExecRegister.lean ====
section
/-!
DEFINITION. The meanings of register accesses (spec/20_host_links.md): one definition for each command.
-/
namespace Sys2Proof.Machine

/-- WNG_FLT_CLEAR (R339): Clearing SEEN lets the next refused address be latched. -/
def execWngFltClear (fn : Fn) (w : WingId) (value : BitVec 64) (s : State) : Host.Outcome State Fault Refusal :=
  .next (s.keepRegRow (s.wingRow fn.val w.val fun s => s.fltClear w.val (bit value.toNat 63)))

/-- SVC_BIST_CLEAR (R15): A write of 1 clears the W1C bits of SVC_BIST. -/
def execSvcBistClear (value : BitVec 32) (s : State) : Host.Outcome State Fault Refusal :=
  .next (s.keepRegRow (s.regRow 0 fun s => s.bistClear value.toNat))

/-- PCI_ERR_CLEAR (R15): A write of 1 clears PCI_ERR.SEEN. -/
def execPciErrClear (value : BitVec 32) (s : State) : Host.Outcome State Fault Refusal :=
  .next (s.keepRegRow (s.regRow 0 fun s => s.pciErrClear value.toNat))

/-- TRD_NOW_READ (R59): A 32-bit read at 0x008 latches the upper half for a consistent pair. -/
def execTrdNowRead (fn : Fn) (part : NowPart) (clk : Clk) (s : State) : Host.Outcome State Fault Refusal :=
  .next (s.keepRegRow (s.opNowRead fn.val part clk.val))

/-- HAL_PORT_RETRAIN (R308): A write of 1 to RETRAIN sends an UP port to RETRAIN. -/
def execHalPortRetrain (port : PortId) (value : BitVec 64) (s : State) : Host.Outcome State Fault Refusal :=
  .next (s.keepRegWrite (s.regRow 0 fun s => s.writeReg 0 (Reg.halPort + 8 * port.val) true value.toNat))

/-- TRN_FORCE (R246): A write of 1 to WNG_TRN_CTRL.FORCE forces the current step to skip. -/
def execTrnForce (fn : Fn) (w : WingId) (value : BitVec 32) (s : State) : Host.Outcome State Fault Refusal :=
  .next (s.keepRegWrite (s.wingRow fn.val w.val fun s =>
    s.writeReg fn.val (if fn.val = 0 then 0x6F8000 + 0x4000 * w.val + Reg.wngTrnCtrl else Reg.wngTrnCtrl) false value.toNat))

/-- ACC_CONS (R416): The PF frees accounting ring slots and held records drain into them. -/
def execAccCons (value : BitVec 32) (s : State) : Host.Outcome State Fault Refusal :=
  .next (s.keepRegWrite (s.regRow 0 fun s => s.opAccCons value.toNat))

/-- REGISTER_WRITE (R15): A write to any register without its own row, taking effect as its table states. -/
def execRegisterWrite (fn : Fn) (offset : Nat) (wide : Bool) (value : BitVec 64) (s : State) : Host.Outcome State Fault Refusal :=
  .next (s.keepRegWrite (s.opRegWrite fn.val offset wide value.toNat))

/-- BAD_SIZE_ACCESS (R445): A register access of the wrong size or alignment returns all-ones or is discarded and counted. -/
def execBadSizeAccess (fn : Fn) (offset : Nat) (size : Nat) (isWrite : Bool) (s : State) : Host.Outcome State Fault Refusal :=
  .next (s.keepRegRow (s.opBadSize fn.val offset size isWrite))

end Sys2Proof.Machine
end

