-- ==== Sys2Proof/Machine/ExecRepair.lean ====
section
/-!
DEFINITION. The meanings of repair, replacement and patrol (spec/06_memory.md, spec/19_service.md): one definition for each command.
-/
namespace Sys2Proof.Machine

/-- REPLACEMENT_TREAD (R434): At the first boundary from L with no work running, the core's SRAM and context are copied to the spare. -/
def execReplacementTread (core : CoreId) (s : State) : Host.Outcome State Fault Refusal :=
  .next (s.keepRepair (s.opReplacementTread core.val))

/-- MIGRATE (R150): Background migration copies a retiring channel's granules and flips their placement. -/
def execMigrate (ch : HbmCh) (granules : Nat) (s : State) : Host.Outcome State Fault Refusal :=
  .next (s.keepRepair (s.opMigrate ch.val granules))

/-- ROWFIX (R145): A repair-candidate HBM row is copied and mapped to a spare row, or retired. -/
def execRowfix (ch : HbmCh) (bank : Fin 16) (row : Nat) (s : State) : Host.Outcome State Fault Refusal :=
  .next (s.keepRepair (s.opRowfix ch.val bank.val row))

/-- LINEFIX (R430): A failing gallery line location is moved to a spare line or retired. -/
def execLinefix (slice : SliceId) (set : Fin 4096) (way : Fin 16) (s : State) : Host.Outcome State Fault Refusal :=
  .next (s.keepRepair (s.opLinefix slice.val set.val way.val))

/-- SCRUB_HBM (R143): A patrol-scrub slice of HBM reads and corrects granules. -/
def execScrubHbm (granule : Nat) (s : State) : Host.Outcome State Fault Refusal :=
  .next (s.keepRepair (s.opScrubHbm granule))

/-- SCRUB_GAL (R143): A patrol-scrub slice of the gallery. -/
def execScrubGal (slice : SliceId) (set : Fin 4096) (way : Fin 16) (s : State) : Host.Outcome State Fault Refusal :=
  .next (s.keepRepair (s.opScrubGal slice.val set.val way.val))

/-- SCRUB_SRAM (R143): A patrol-scrub slice of local SRAM. -/
def execScrubSram (core : CoreId) (word : Nat) (s : State) : Host.Outcome State Fault Refusal :=
  .next (s.keepRepair (s.opScrubSram core.val word))

/-- SCRUB_LATE (R144): A scrub pass not finished within twice its period raises SCRUB_LATE. -/
def execScrubLate (store : ScrubStore) (s : State) : Host.Outcome State Fault Refusal :=
  .next (s.keepRepair (s.opScrubLate (storeCode store)))

/-- HBM_CHANNEL_FAULT (R148): Loss of training or 64 UEs in one tread puts an HBM channel in FAULT. -/
def execHbmChannelFault (ch : HbmCh) (training : Bool) (s : State) : Host.Outcome State Fault Refusal :=
  .next (s.keepRepair (s.opChannelFault ch.val training))

/-- GALLERY_SLICE_FAULT (R431): 64 tag UEs in one tread put a slice in FAULT with uncached service. -/
def execGallerySliceFault (slice : SliceId) (unreadable : List Nat) (s : State) : Host.Outcome State Fault Refusal :=
  .next (s.keepRepair (s.opSliceFault slice.val unreadable))

/-- CORESWAP (R433): A CORESWAP slice ends the CORE_SCAN of the chosen spare, sending a failing spare to FAULT, trying the next, or
completing CORE_SPARE with NO_SPARE. -/
def execCoreswap (core : CoreId) (pass : Bool) (s : State) : Host.Outcome State Fault Refusal :=
  .next (s.keepRepair (s.opCoreswap core.val pass))

end Sys2Proof.Machine
end

