-- ==== Sys2Proof/Machine/ExecReset.lean ====
section
/-!
DEFINITION. The meanings of power, resets and start-up (spec/21_startup_reset.md, spec/22_module.md): one definition for each command.
-/
namespace Sys2Proof.Machine

/-- POWER_ON (R456): A rising 54 V input, or a main rail falling below its limit, starts a cold reset. -/
def execPowerOn (sbAddr : Fin 4) (i3c : Bool) (s : State) : Host.Outcome State Fault Refusal :=
  .next (s.keepReset (s.opPowerOn sbAddr.val i3c))

/-- RESET_INPUT_ASSERT (R457): Assertion of PERST_N or MOD_RST_N holds the module in reset and makes a warm device reset. -/
def execResetInputAssert (perst : Bool) (ge100us : Bool) (s : State) : Host.Outcome State Fault Refusal :=
  .next (s.keepReset (s.opResetInput perst ge100us))

/-- START_UP_BEGIN (R457): Start-up begins once the last rail is good and the last asserted reset input is released. -/
def execStartUpBegin (s : State) : Host.Outcome State Fault Refusal :=
  .next (s.keepReset (s.opStartUp))

/-- BOOT_ROM (R461): Main PLL lock, then the boot ROM tries firmware copies in order and runs the first that passes. -/
def execBootRom (bad : BitVec 4) (s : State) : Host.Outcome State Fault Refusal :=
  .next (s.keepReset (s.opBootRom bad.toNat))

/-- MEMORY_INIT (R463): HBM training, core mapping, re-application of the repair list and zeroing of SRAM, gallery and, after a cold
reset, HBM. -/
def execMemoryInit (trainFail : List HbmCh) (s : State) : Host.Outcome State Fault Refusal :=
  .next (s.keepReset (s.opMemoryInit (trainFail.map (·.val))))

/-- STARTUP_SELFTEST (R464): Start-up scan of cores and gallery slices, monitor and sensor checks, spare takeover and measurement of
ACC_STATIC. -/
def execStartupSelftest (coreFail : List PhysId) (sliceFail : List SliceId) (sensorBad : BitVec 64)
    (monBad : BitVec 32) (pllDev16 : Nat) (s : State) : Host.Outcome State Fault Refusal :=
  .next (s.keepReset (s.opSelftest (coreFail.map (·.val)) (sliceFail.map (·.val)) sensorBad.toNat monBad.toNat pllDev16))

/-- INPUT_UNDERVOLTAGE (R472): The input is below 40 V, or 40 to 46 V for more than 100 µs, and the main rails turn off. -/
def execInputUndervoltage (mv us : Nat) (s : State) : Host.Outcome State Fault Refusal :=
  .next (s.keepReset (s.opUnder mv us))

/-- INPUT_OVERVOLTAGE (R472): The input is above 60 V for more than 100 µs, the input switch opens and the rails fall. -/
def execInputOvervoltage (mv us : Nat) (s : State) : Host.Outcome State Fault Refusal :=
  .next (s.keepReset (s.opOver mv us))

/-- THERMAL_TRIP (R479): A sensor reaches 115 °C or the analogue trip fires; the rails turn off and THERMTRIP_N is held low. -/
def execThermalTrip (temp8 : Int) (analogue : Bool) (s : State) : Host.Outcome State Fault Refusal :=
  .next (s.keepReset (s.opTrip temp8 analogue))

end Sys2Proof.Machine
end

