-- ==== Sys2Proof/Machine/ExecSequence.lean ====
section
/-!
DEFINITION. The meanings of the sequence commands and KV copies (spec/08_generation.md, spec/09_kv_cache.md): one definition for each command.
-/
namespace Sys2Proof.Machine

/-- SEQ_ADMIT (R172): Admits a sequence into a slot, allocating pages and staging the row. -/
def execSeqAdmit (fn : Fn) (clk : Clk) (s : State) : Host.Outcome State Fault Refusal :=
  .next (s.keepCommand (s.mailRow fn.val clk.val spcSeqAdmit fun s c => s.cmdSeqAdmit c))

/-- SEQ_FORK (R204): Admits a slot as a copy of another sequence's prefix, sharing pages. -/
def execSeqFork (fn : Fn) (clk : Clk) (s : State) : Host.Outcome State Fault Refusal :=
  .next (s.keepCommand (s.mailRow fn.val clk.val spcSeqFork fun s c => s.cmdSeqFork c))

/-- SEQ_CANCEL (R187): Requests cancellation of a sequence at the next effective boundary. -/
def execSeqCancel (fn : Fn) (clk : Clk) (s : State) : Host.Outcome State Fault Refusal :=
  .next (s.keepCommand (s.mailRow fn.val clk.val spcSeqCancel fun s c => s.cmdSeqCancel c))

/-- SEQ_PARK (R211): Requests a LIVE row to be parked, optionally keeping its pages. -/
def execSeqPark (fn : Fn) (clk : Clk) (s : State) : Host.Outcome State Fault Refusal :=
  .next (s.keepCommand (s.mailRow fn.val clk.val spcSeqPark fun s c => s.cmdSeqPark c 1))

/-- SEQ_RESUME (R211): Makes a parked row eligible for resumption. -/
def execSeqResume (fn : Fn) (clk : Clk) (s : State) : Host.Outcome State Fault Refusal :=
  .next (s.keepCommand (s.mailRow fn.val clk.val spcSeqResume fun s c => s.cmdSeqPark c 2))

/-- KV_COPY_LANDS (R205): A copy-on-write, swap or prefix copy lands, ready for its flip. -/
def execKvCopyLands (w : WingId) (copy : Nat) (clk : Clk) (s : State) : Host.Outcome State Fault Refusal :=
  .next (s.keepCommand (s.opCopyLands w.val copy clk.val))

end Sys2Proof.Machine
end

