-- ==== Sys2Proof/Machine/ExecService.lean ====
section
/-!
DEFINITION. The meanings of service and self-test commands (spec/19_service.md): one definition for each command.
-/
namespace Sys2Proof.Machine

/-- UNIT_QUERY (R380): Returns a unit's hardware and intended states, epoch and error counts. -/
def execUnitQuery (fn : Fn) (clk : Clk) (s : State) : Host.Outcome State Fault Refusal :=
  .next (s.keepService (s.mailRow fn.val clk.val spcUnitQuery fun s c => s.acceptUnitQuery c))

/-- UNIT_SET (R380): Writes an intended state for a unit. -/
def execUnitSet (fn : Fn) (clk : Clk) (s : State) : Host.Outcome State Fault Refusal :=
  .next (s.keepService (s.mailRow fn.val clk.val spcUnitSet fun s c => s.acceptUnitSet c))

/-- HBM_RETIRE (R150): Starts retirement and migration of an HBM channel. -/
def execHbmRetire (fn : Fn) (clk : Clk) (s : State) : Host.Outcome State Fault Refusal :=
  .next (s.keepService (s.mailRow fn.val clk.val spcHbmRetire fun s c => s.acceptRetire c))

/-- REPAIR_LIST (R435): Copies the repair list to the PF's buffer. -/
def execRepairList (fn : Fn) (clk : Clk) (s : State) : Host.Outcome State Fault Refusal :=
  .next (s.keepService (s.mailRow fn.val clk.val spcRepairList fun s c => s.acceptRepairList c))

/-- REPAIR_FUSE (R436): Makes one or every listed repair permanent by fuse. -/
def execRepairFuse (fn : Fn) (clk : Clk) (s : State) : Host.Outcome State Fault Refusal :=
  .next (s.keepService (s.mailRow fn.val clk.val spcRepairFuse fun s c => s.acceptRepairFuse c))

/-- CORE_SPARE (R433): Chooses and scans a spare to replace a logical core at a landing tread. -/
def execCoreSpare (fn : Fn) (clk : Clk) (s : State) : Host.Outcome State Fault Refusal :=
  .next (s.keepService (s.mailRow fn.val clk.val spcCoreSpare fun s c => s.acceptCoreSpare c))

/-- PLL (R427): Self-test item that counts the clocks against the reference crystal. -/
def execPll (fn : Fn) (clk : Clk) (s : State) : Host.Outcome State Fault Refusal :=
  .next (s.keepCommand (s.itemRow fn.val clk.val 0))

/-- VMON (R427): Self-test item that checks both monitors of a rail against the bandgap. -/
def execVmon (fn : Fn) (clk : Clk) (s : State) : Host.Outcome State Fault Refusal :=
  .next (s.keepCommand (s.itemRow fn.val clk.val 1))

/-- TSENSE (R427): Self-test item that checks a thermal sensor against its references. -/
def execTsense (fn : Fn) (clk : Clk) (s : State) : Host.Outcome State Fault Refusal :=
  .next (s.keepCommand (s.itemRow fn.val clk.val 2))

/-- NEAR_LB (R427): Self-test item: PRBS31Q through a port's own near-end PMA loop. -/
def execNearLb (fn : Fn) (clk : Clk) (s : State) : Host.Outcome State Fault Refusal :=
  .next (s.keepCommand (s.itemRow fn.val clk.val 3))

/-- FAR_LB (R427): Self-test item: PRBS31Q out over the link and back through the neighbour's loop. -/
def execFarLb (fn : Fn) (clk : Clk) (s : State) : Host.Outcome State Fault Refusal :=
  .next (s.keepCommand (s.itemRow fn.val clk.val 4))

/-- LB_SERVE (R427): Self-test item that loops received data back for a neighbour's FAR_LB. -/
def execLbServe (fn : Fn) (clk : Clk) (s : State) : Host.Outcome State Fault Refusal :=
  .next (s.keepCommand (s.itemRow fn.val clk.val 5))

/-- CXL_LB (R427): Self-test item: near-end loop-back of all 16 lanes of a CXL port. -/
def execCxlLb (fn : Fn) (clk : Clk) (s : State) : Host.Outcome State Fault Refusal :=
  .next (s.keepCommand (s.itemRow fn.val clk.val 6))

/-- CORE_SCAN (R427): Self-test item: march test and reference products on a spare or offline core. -/
def execCoreScan (fn : Fn) (clk : Clk) (s : State) : Host.Outcome State Fault Refusal :=
  .next (s.keepCommand (s.itemRow fn.val clk.val 7))

/-- ACC_SNAPSHOT (R417): Captures the wing's cumulative accounting counts at the next boundary. -/
def execAccSnapshot (fn : Fn) (clk : Clk) (s : State) : Host.Outcome State Fault Refusal :=
  .next (s.keepService (s.mailRow fn.val clk.val spcAccSnapshot fun s c => s.acceptSnapshot c))

end Sys2Proof.Machine
end

