-- ==== Sys2Proof/Machine/ExecSideband.lean ====
section
/-!
DEFINITION. The meanings of the sideband (spec/20_host_links.md): one definition for each command.
-/
namespace Sys2Proof.Machine

/-- IDENT (R451): Sideband read of serial, revision, level and slot; the row stands also for a command code that is not assigned, answered
with NACK. -/
def execIdent (other : Option (BitVec 8)) (s : State) : Host.Outcome State Fault Refusal :=
  .next (s.keepSideband (s.opIdent other.isSome))

/-- STATE (R451): Sideband read of start-up, hall-time, ready and debug state. -/
def execStateRead (s : State) : Host.Outcome State Fault Refusal :=
  .next (s.keepSideband (s.opStateRead))

/-- TEMP (R451): Sideband read of the hottest sensor and the excluded count. -/
def execTemp (s : State) : Host.Outcome State Fault Refusal :=
  .next (s.keepSideband (s.opTemp))

/-- POWER (R451): Sideband read of input voltage, current, average power and cap. -/
def execPower (mv ma : Nat) (s : State) : Host.Outcome State Fault Refusal :=
  .next (s.keepSideband (s.opPower mv ma))

/-- ALERTS (R451): Sideband read of the alert bits. -/
def execAlerts (s : State) : Host.Outcome State Fault Refusal :=
  .next (s.keepSideband (s.opAlerts))

/-- ALERT_CLR (R451): Sideband write that clears alert bits. -/
def execAlertClr (bytes : List Byte) (s : State) : Host.Outcome State Fault Refusal :=
  .next (s.keepSideband (s.opAlertClr bytes))

/-- BCAP (R452): Sideband read or write of the board power cap. -/
def execBcap (write : Option (List Byte)) (s : State) : Host.Outcome State Fault Refusal :=
  .next (s.keepSideband (s.opBcap write))

/-- BIST (R451): Sideband read of SVC_BIST. -/
def execBist (s : State) : Host.Outcome State Fault Refusal :=
  .next (s.keepSideband (s.opBist))

end Sys2Proof.Machine
end

