-- ==== Sys2Proof/Machine/ExecStream.lean ====
section
/-!
DEFINITION. The meanings of streams and the end of an entry’s work (spec/03_core.md, spec/07_streams_dma.md): one definition for each command.
-/
namespace Sys2Proof.Machine

/-- STREAM_BLOCK_ISSUE (R155): The stream unit issues a LOAD, STORE or WARM block in list order. -/
def execStreamBlockIssue (core : CoreId) (slot : CtxSlot) (block : Nat) (clk : Clk) (s : State) : Host.Outcome State Fault Refusal :=
  .next (s.keepStream (s.opIssue core.val (slot == .guest) block clk.val))

/-- BLOCK_RETIRE (R155): A block retires when its bytes are written to SRAM or accepted at the point of coherence. -/
def execBlockRetire (core : CoreId) (slot : CtxSlot) (block : Nat) (clk : Clk) (s : State) : Host.Outcome State Fault Refusal :=
  .next (s.keepStream (s.opRetire core.val (slot == .guest) block clk.val))

/-- ENTRY_WORK_END (R155): An entry's function ends with every block retired, raising AMAX_CUR and staging its record. -/
def execEntryWorkEnd (core : CoreId) (slot : CtxSlot) (clk : Clk) (s : State) : Host.Outcome State Fault Refusal :=
  .next (s.keepStream (s.opWorkEnd core.val (slot == .guest) clk.val))

end Sys2Proof.Machine
end

