-- ==== Sys2Proof/Machine/ExecTap.lean ====
section
/-!
DEFINITION. The meanings of the test access port (spec/20_host_links.md): one definition for each command.
-/
namespace Sys2Proof.Machine

/-- TAP_TLR_EXIT (R405): The TAP leaves Test-Logic-Reset, setting DEBUG_SEEN or counting the exit. -/
def execTapTlrExit (clk : Clk) (s : State) : Host.Outcome State Fault Refusal :=
  .next (s.keepTapExit (s.opTlrExit clk.val))

/-- TAP_TLR_RETURN (R455): The first return to Test-Logic-Reset after a pin-taking instruction starts a warm device reset. -/
def execTapTlrReturn (s : State) : Host.Outcome State Fault Refusal :=
  .next (s.keepReset (s.opTlrReturn))

/-- BYPASS (R453): TAP instruction selecting the 1-bit bypass register, by its own code or by any that is not assigned. -/
def execBypass (code : BitVec 8) (s : State) : Host.Outcome State Fault Refusal :=
  .next (s.keepTapPins (s.tapSelect code.toNat 0))

/-- IDCODE (R453): TAP instruction returning the 32-bit identification code. -/
def execIdcode (s : State) : Host.Outcome State Fault Refusal :=
  .next (s.keepTapPins (s.tapSelect 1 Sys2Proof.Machine.idcode))

/-- SAMPLE_PRELOAD (R453): TAP instruction that samples or preloads the boundary register. -/
def execSamplePreload (preload : Nat) (s : State) : Host.Outcome State Fault Refusal :=
  .next (s.keepTapPins (s.opSample preload))

/-- EXTEST (R455): TAP instruction that drives pins from the boundary register, dropping the links. -/
def execExtest (drive : Nat) (s : State) : Host.Outcome State Fault Refusal :=
  .next (s.keepTapPins (s.tapPins 3 (some drive)))

/-- EXTEST_PULSE (R455): IEEE 1149.6 pulse test on the AC-coupled lanes. -/
def execExtestPulse (drive : Nat) (s : State) : Host.Outcome State Fault Refusal :=
  .next (s.keepTapPins (s.tapPins 4 (some drive)))

/-- EXTEST_TRAIN (R455): IEEE 1149.6 train test on the AC-coupled lanes. -/
def execExtestTrain (drive : Nat) (s : State) : Host.Outcome State Fault Refusal :=
  .next (s.keepTapPins (s.tapPins 5 (some drive)))

/-- CLAMP (R455): TAP instruction that holds the pins from the boundary register. -/
def execClamp (s : State) : Host.Outcome State Fault Refusal :=
  .next (s.keepTapPins (s.tapPins 6 none))

/-- HIGHZ (R455): TAP instruction that puts the pins in high impedance. -/
def execHighz (s : State) : Host.Outcome State Fault Refusal :=
  .next (s.keepTapPins (s.tapPins 7 none))

/-- DBG_ACCESS (R454): TAP memory or register read or write executed at Update-DR without window checks. -/
def execDbgAccess (dr : BitVec 128) (s : State) : Host.Outcome State Fault Refusal :=
  .next (s.keepDebug (s.opDebug dr.toNat))

end Sys2Proof.Machine
end

