-- ==== Sys2Proof/Machine/ExecTread.lean ====
section
/-!
DEFINITION. The meanings of the tread boundary and the rows whose count ends at it (spec/02_time.md Table 2.2): one definition for each command.
-/
namespace Sys2Proof.Machine

/-- TREAD_BOUNDARY (R35): The tread number increments and the boundary actions of Table 2.2 take place in order. -/
def execTreadBoundary (env : BoundaryEnv) (s : State) : Host.Outcome State Fault Refusal :=
  .next (s.keepBoundary (s.opBoundary env))

/-- ENTRY_ABANDON (R55): Work still unfinished at the 16th boundary is abandoned with an ABANDON record. -/
def execEntryAbandon (core : CoreId) (env : BoundaryEnv) (s : State) : Host.Outcome State Fault Refusal :=
  .next (s.keepBoundary (s.boundaryRow env (s.abandonDue env core.val)))

/-- FLIGHT_DONE (R52): The last of REPEAT cycles ends; the flight is DONE or an AT_CYCLE switch lands. -/
def execFlightDone (w : WingId) (env : BoundaryEnv) (s : State) : Host.Outcome State Fault Refusal :=
  .next (s.keepBoundary (s.boundaryRow env (s.flightDue env w.val)))

/-- LAND_TIMEOUT (R294): A turn not landed by the boundary into T + H completes with LAND_TIMEOUT. -/
def execLandTimeout (w : WingId) (env : BoundaryEnv) (s : State) : Host.Outcome State Fault Refusal :=
  .next (s.keepBoundary (s.boundaryRow env (s.landDue env w.val)))

/-- QUIESCE_TIMEOUT (R349): A quiesce not done within Q treads completes QUIESCE_LATE and cancels the remaining channels. -/
def execQuiesceTimeout (w : WingId) (env : BoundaryEnv) (s : State) : Host.Outcome State Fault Refusal :=
  .next (s.keepBoundary (s.boundaryRow env (s.quiesceDue env w.val)))

/-- TRET_DEADLINE (R264): A TRET round becomes CLOSED at the boundary its DEADLINE names. -/
def execTretDeadline (w : WingId) (xid : Fin 4096) (env : BoundaryEnv) (s : State) : Host.Outcome State Fault Refusal :=
  .next (s.keepBoundary (s.boundaryRow env (s.tretDue env w.val xid.val)))

/-- UNIT_DIVERGE (R380): Hardware and intended unit states still differ after three boundaries; one event is written. -/
def execUnitDiverge (kind : Fin 5) (unit : Fin 832) (env : BoundaryEnv) (s : State) : Host.Outcome State Fault Refusal :=
  .next (s.keepBoundary (s.boundaryRow env (s.divergeDue env (unitKey kind.val unit.val))))

/-- LANDING_TREAD_SWEEP (R292): At clk 32 of tread T, every block not landed, failed or requested is requested raw. -/
def execLandingTreadSweep (w : WingId) (s : State) : Host.Outcome State Fault Refusal :=
  .next (s.keepTread (s.opSweep w.val))

end Sys2Proof.Machine
end

