-- ==== Sys2Proof/Machine/ExecTrust.lean ====
section
/-!
DEFINITION. The meanings of images, firmware, the log and the newel (spec/16_newel.md, spec/17_trust.md): one definition for each command.
-/
namespace Sys2Proof.Machine

/-- MODEL_LOAD (R394): Verifies a signed image and loads its shards into the wing's HBM, optionally flipping. -/
def execModelLoad (fn : Fn) (clk : Clk) (s : State) : Host.Outcome State Fault Refusal :=
  .next (s.keepTrust (s.mailRow fn.val clk.val spcModelLoad fun s c => s.cmdModelLoad c))

/-- IMAGE_WRITE (R391): Verifies an image from host memory and programs two copies into flash. -/
def execImageWrite (fn : Fn) (clk : Clk) (s : State) : Host.Outcome State Fault Refusal :=
  .next (s.keepTrust (s.mailRow fn.val clk.val spcImageWrite fun s c => s.acceptImageWrite c))

/-- IMAGE_ERASE (R393): Removes an image from the directory. -/
def execImageErase (fn : Fn) (clk : Clk) (s : State) : Host.Outcome State Fault Refusal :=
  .next (s.keepTrust (s.mailRow fn.val clk.val spcImageErase fun s c => s.acceptImageErase c))

/-- IMAGE_LIST (R392): Lists the images visible to the function. -/
def execImageList (fn : Fn) (clk : Clk) (s : State) : Host.Outcome State Fault Refusal :=
  .next (s.keepTrust (s.mailRow fn.val clk.val spcImageList fun s c => s.acceptImageList c))

/-- ATTEST (R406): Forms and signs an attestation report, with optional certificate and log. -/
def execAttest (fn : Fn) (clk : Clk) (s : State) : Host.Outcome State Fault Refusal :=
  .next (s.keepTrust (s.mailRow fn.val clk.val spcAttest fun s c => s.acceptAttest c))

/-- FW_STAGE (R382): Verifies a firmware image and writes it to the slot not running. -/
def execFwStage (fn : Fn) (clk : Clk) (s : State) : Host.Outcome State Fault Refusal :=
  .next (s.keepTrust (s.mailRow fn.val clk.val spcFwStage fun s c => s.acceptFwStage c))

/-- FW_ACTIVATE (R383): Restarts the newel into the staged firmware slot. -/
def execFwActivate (fn : Fn) (clk : Clk) (s : State) : Host.Outcome State Fault Refusal :=
  .next (s.keepTrust (s.mailRow fn.val clk.val spcFwActivate fun s c => s.acceptFwActivate c))

/-- FW_ACTIVATE_TIMEOUT (R383): The new image does not start within 2 s, so the former slot is restarted and FW_REVERTED reported. -/
def execFwActivateTimeout (s : State) : Host.Outcome State Fault Refusal :=
  .next (s.keepNewel (s.opFwTimeout))

/-- NEWEL_WATCHDOG (R362): 50 ms without watchdog service restarts the newel. -/
def execNewelWatchdog (s : State) : Host.Outcome State Fault Refusal :=
  .next (s.keepNewel (s.newelRestart 0))

/-- NEWEL_SRAM_UE (R362): An uncorrectable error in newel SRAM restarts the newel. -/
def execNewelSramUe (s : State) : Host.Outcome State Fault Refusal :=
  .next (s.keepNewel (s.newelRestart 1))

/-- NEWEL_RESTART_DONE (R381): The newel runs again, resumes its work and writes deferred completions. -/
def execNewelRestartDone (tableBad : Bool) (s : State) : Host.Outcome State Fault Refusal :=
  .next (s.keepNewel (s.opRestartDone tableBad))

/-- COPIES_PROGRAMMED (R391): Both copies of an image are programmed, the image enters the directory and IMAGE_WRITE completes, or it
ends with SHARD_BAD or FLASH_FULL leaving nothing in flash. -/
def execCopiesProgrammed (image : Nat) (programmed : Bool) (s : State) : Host.Outcome State Fault Refusal :=
  .next (s.keepTrust (s.opCopiesProgrammed image programmed))

/-- IMAGE_STAGED (R382): FW_STAGE finishes reading, verifying and writing the image, leaving the other slot staged or marked empty, and
completes with OK, FW_BAD or FW_LEVEL. -/
def execImageStaged (s : State) : Host.Outcome State Fault Refusal :=
  .next (s.keepTrust (s.opImageStaged))

/-- FUSING_ENDS (R436): Fuse programming of a repair ends, the fuse verifies or fails, a FUSE log entry is written and REPAIR_FUSE
completes with OK or FUSE_FAIL. -/
def execFusingEnds (verified : List Nat) (s : State) : Host.Outcome State Fault Refusal :=
  .next (s.keepTrust (s.opFusingEnds verified))

/-- REPORT_FORMED (R407): The newel forms and signs a queued ATTEST report, fixing its TREAD and the log entries it covers, and writes
it to the buffer. -/
def execReportFormed (clk : Clk) (s : State) : Host.Outcome State Fault Refusal :=
  .next (s.keepTrust ((s.at_ clk.val).opReportFormed (fun w => (s.job w).vr.wep) fun w => (s.job w).turn.lep))

end Sys2Proof.Machine
end

