-- ==== Sys2Proof/Machine/ExecTurnCmd.lean ====
section
/-!
DEFINITION. The meanings of the commands of a turn (spec/13_turn.md): one definition for each command.
-/
namespace Sys2Proof.Machine

/-- LAYOUT_LOAD (R280): Validates a layout table and places it in the pending slot. -/
def execLayoutLoad (fn : Fn) (clk : Clk) (s : State) : Host.Outcome State Fault Refusal :=
  .next (s.keepCommand (s.mailRow fn.val clk.val spcLayoutLoad fun s c => s.cmdLayoutLoad c))

/-- TURN_LAND (R293): Arms a landing window for the pending layout, with an optional weight flip and a sequence policy. -/
def execTurnLand (fn : Fn) (clk : Clk) (s : State) : Host.Outcome State Fault Refusal :=
  .next (s.keepCommand (s.mailRow fn.val clk.val spcTurnLand fun s c => s.cmdTurnLand c))

/-- TURN_ABORT (R297): Discards the pending layout and aborts an outstanding TURN_LAND. -/
def execTurnAbort (fn : Fn) (clk : Clk) (s : State) : Host.Outcome State Fault Refusal :=
  .next (s.keepCommand (s.mailRow fn.val clk.val spcTurnAbort fun s c => s.cmdTurnAbort c))

end Sys2Proof.Machine
end

