-- ==== Sys2Proof/Machine/ExecVariant.lean ====
section
/-!
DEFINITION. The meanings of the commands of variants and epochs (spec/10_variants_epochs.md): one definition for each command.
-/
namespace Sys2Proof.Machine

/-- EPOCH_FLIP (R219): Requests a weight-epoch flip, NEXT or AT_STEP. -/
def execEpochFlip (fn : Fn) (clk : Clk) (s : State) : Host.Outcome State Fault Refusal :=
  .next (s.keepCommand (s.mailRow fn.val clk.val spcEpochFlip fun s c => s.cmdEpochFlip c))

/-- ADAPTER_LOAD (R222): Loads a new adapter generation for publication at 4h. -/
def execAdapterLoad (fn : Fn) (clk : Clk) (s : State) : Host.Outcome State Fault Refusal :=
  .next (s.keepCommand (s.mailRow fn.val clk.val spcAdapterLoad fun s c => s.cmdAdapterLoad c))

/-- ADAPTER_DROP (R222): Empties an adapter handle with no pins. -/
def execAdapterDrop (fn : Fn) (clk : Clk) (s : State) : Host.Outcome State Fault Refusal :=
  .next (s.keepCommand (s.mailRow fn.val clk.val spcAdapterDrop fun s c => s.cmdAdapterDrop c))

/-- PREFIX_REGISTER (R227): Registers a slot's pages as a learned prefix. -/
def execPrefixRegister (fn : Fn) (clk : Clk) (s : State) : Host.Outcome State Fault Refusal :=
  .next (s.keepCommand (s.mailRow fn.val clk.val spcPrefixRegister fun s c => s.cmdPrefixRegister c))

/-- PREFIX_DROP (R228): Empties a prefix handle and gives up its page references. -/
def execPrefixDrop (fn : Fn) (clk : Clk) (s : State) : Host.Outcome State Fault Refusal :=
  .next (s.keepCommand (s.mailRow fn.val clk.val spcPrefixDrop fun s c => s.cmdPrefixDrop c))

end Sys2Proof.Machine
end

