-- ==== Sys2Proof/Machine/ExecWing.lean ====
section
/-!
DEFINITION. The meanings of contexts, quiesce and resets of wings (spec/15_wings.md): one definition for each command.
-/
namespace Sys2Proof.Machine

/-- CTX_SWITCH (R352): Quiesces the active context and lands the named resident context. -/
def execCtxSwitch (fn : Fn) (clk : Clk) (s : State) : Host.Outcome State Fault Refusal :=
  .next (s.keepCommand (s.mailRow fn.val clk.val spcCtxSwitch fun s c => s.cmdCtxSwitch c))

/-- CTX_SET (R374): Changes a context's state within the permitted transitions. -/
def execCtxSet (fn : Fn) (clk : Clk) (s : State) : Host.Outcome State Fault Refusal :=
  .next (s.keepCommand (s.mailRow fn.val clk.val spcCtxSet fun s c => s.cmdCtxSet c))

/-- SEM_ACQUIRE (R375): Acquires a semaphore for a context, or blocks until granted. -/
def execSemAcquire (fn : Fn) (clk : Clk) (s : State) : Host.Outcome State Fault Refusal :=
  .next (s.keepCommand (s.mailRow fn.val clk.val spcSemAcquire fun s c => s.cmdSemAcquire c))

/-- SEM_RELEASE (R375): Releases a semaphore to the earliest waiter. -/
def execSemRelease (fn : Fn) (clk : Clk) (s : State) : Host.Outcome State Fault Refusal :=
  .next (s.keepCommand (s.mailRow fn.val clk.val spcSemRelease fun s c => s.cmdSemRelease c))

/-- WING_QUIESCE (R349): Unloads the wing's flights, drains its channels and stops its remote traffic. -/
def execWingQuiesce (fn : Fn) (clk : Clk) (s : State) : Host.Outcome State Fault Refusal :=
  .next (s.keepCommand (s.mailRow fn.val clk.val spcWingQuiesce fun s c => s.cmdWingQuiesce c))

/-- WING_RESET (R356): The PF requests a reset of one wing at the next boundary. -/
def execWingReset (fn : Fn) (clk : Clk) (s : State) : Host.Outcome State Fault Refusal :=
  .next (s.keepCommand (s.mailRow fn.val clk.val spcWingReset fun s c => s.hold c))

/-- DEVICE_RESET (R467): Resets every wing and the protection set-up and restarts the newel. -/
def execDeviceReset (fn : Fn) (clk : Clk) (s : State) : Host.Outcome State Fault Refusal :=
  .next (s.keepCommand (s.mailRow fn.val clk.val spcDeviceReset fun s c => s.hold c))

/-- CONTEXT_SAVE_LANDS (R353): An evicted context's image lands in the save area and it becomes OUT. -/
def execContextSaveLands (w : WingId) (s : State) : Host.Outcome State Fault Refusal :=
  .next (s.keepCommand (s.opContextSave w.val))

end Sys2Proof.Machine
end

