-- ==== Sys2Proof/Machine/Dispatch.lean ====
section
/-!
DEFINITION. The effect of a command on everything but the queue: one arm for each row of the operation table.
-/
namespace Sys2Proof.Machine

def exec (i : Instr) (s : State) : Host.Outcome State Fault Refusal :=
  match i with
  | .powerOn sbAddr i3c => Sys2Proof.Machine.execPowerOn sbAddr i3c s
  | .resetInputAssert perst ge100us => Sys2Proof.Machine.execResetInputAssert perst ge100us s
  | .startUpBegin => Sys2Proof.Machine.execStartUpBegin s
  | .bootRom bad => Sys2Proof.Machine.execBootRom bad s
  | .memoryInit trainFail => Sys2Proof.Machine.execMemoryInit trainFail s
  | .startupSelftest coreFail sliceFail sensorBad monBad pllDev16 => Sys2Proof.Machine.execStartupSelftest coreFail sliceFail sensorBad monBad pllDev16 s
  | .configRequest fn field write => Sys2Proof.Machine.execConfigRequest fn field write s
  | .inputUndervoltage mv us => Sys2Proof.Machine.execInputUndervoltage mv us s
  | .inputOvervoltage mv us => Sys2Proof.Machine.execInputOvervoltage mv us s
  | .thermalTrip temp8 analogue => Sys2Proof.Machine.execThermalTrip temp8 analogue s
  | .vfFlr w clk => Sys2Proof.Machine.execVfFlr w clk s
  | .vfEnableChange numVFs enable clk => Sys2Proof.Machine.execVfEnableChange numVFs enable clk s
  | .pfD3hot => Sys2Proof.Machine.execPfD3hot s
  | .pfD0Return => Sys2Proof.Machine.execPfD0Return s
  | .treadBoundary env => Sys2Proof.Machine.execTreadBoundary env s
  | .lockAcquired env => Sys2Proof.Machine.execLockAcquired env s
  | .lockLost env => Sys2Proof.Machine.execLockLost env s
  | .parentLost env => Sys2Proof.Machine.execParentLost env s
  | .holdoverExpiry env => Sys2Proof.Machine.execHoldoverExpiry env s
  | .acquireNoSource env => Sys2Proof.Machine.execAcquireNoSource env s
  | .entryAbandon core env => Sys2Proof.Machine.execEntryAbandon core env s
  | .flightDone w env => Sys2Proof.Machine.execFlightDone w env s
  | .landTimeout w env => Sys2Proof.Machine.execLandTimeout w env s
  | .quiesceTimeout w env => Sys2Proof.Machine.execQuiesceTimeout w env s
  | .tretDeadline w xid env => Sys2Proof.Machine.execTretDeadline w xid env s
  | .unitDiverge kind unit env => Sys2Proof.Machine.execUnitDiverge kind unit env s
  | .landingTreadSweep w => Sys2Proof.Machine.execLandingTreadSweep w s
  | .mbxCmdDb fn value => Sys2Proof.Machine.execMbxCmdDb fn value s
  | .mbxCtrlEn fn value => Sys2Proof.Machine.execMbxCtrlEn fn value s
  | .mbxCplHead fn value => Sys2Proof.Machine.execMbxCplHead fn value s
  | .nop fn clk => Sys2Proof.Machine.execNop fn clk s
  | .identify fn clk => Sys2Proof.Machine.execIdentify fn clk s
  | .cfgLoad fn clk => Sys2Proof.Machine.execCfgLoad fn clk s
  | .flightLoad fn clk => Sys2Proof.Machine.execFlightLoad fn clk s
  | .flightSwitch fn clk => Sys2Proof.Machine.execFlightSwitch fn clk s
  | .flightStop fn clk => Sys2Proof.Machine.execFlightStop fn clk s
  | .flightUnload fn clk => Sys2Proof.Machine.execFlightUnload fn clk s
  | .guestLoad fn clk => Sys2Proof.Machine.execGuestLoad fn clk s
  | .seqAdmit fn clk => Sys2Proof.Machine.execSeqAdmit fn clk s
  | .seqFork fn clk => Sys2Proof.Machine.execSeqFork fn clk s
  | .seqCancel fn clk => Sys2Proof.Machine.execSeqCancel fn clk s
  | .seqPark fn clk => Sys2Proof.Machine.execSeqPark fn clk s
  | .seqResume fn clk => Sys2Proof.Machine.execSeqResume fn clk s
  | .epochFlip fn clk => Sys2Proof.Machine.execEpochFlip fn clk s
  | .adapterLoad fn clk => Sys2Proof.Machine.execAdapterLoad fn clk s
  | .adapterDrop fn clk => Sys2Proof.Machine.execAdapterDrop fn clk s
  | .prefixRegister fn clk => Sys2Proof.Machine.execPrefixRegister fn clk s
  | .prefixDrop fn clk => Sys2Proof.Machine.execPrefixDrop fn clk s
  | .layoutLoad fn clk => Sys2Proof.Machine.execLayoutLoad fn clk s
  | .turnLand fn clk => Sys2Proof.Machine.execTurnLand fn clk s
  | .turnAbort fn clk => Sys2Proof.Machine.execTurnAbort fn clk s
  | .ctxSwitch fn clk => Sys2Proof.Machine.execCtxSwitch fn clk s
  | .ctxSet fn clk => Sys2Proof.Machine.execCtxSet fn clk s
  | .semAcquire fn clk => Sys2Proof.Machine.execSemAcquire fn clk s
  | .semRelease fn clk => Sys2Proof.Machine.execSemRelease fn clk s
  | .wingQuiesce fn clk => Sys2Proof.Machine.execWingQuiesce fn clk s
  | .wingReset fn clk => Sys2Proof.Machine.execWingReset fn clk s
  | .deviceReset fn clk => Sys2Proof.Machine.execDeviceReset fn clk s
  | .unitQuery fn clk => Sys2Proof.Machine.execUnitQuery fn clk s
  | .unitSet fn clk => Sys2Proof.Machine.execUnitSet fn clk s
  | .hbmRetire fn clk => Sys2Proof.Machine.execHbmRetire fn clk s
  | .repairList fn clk => Sys2Proof.Machine.execRepairList fn clk s
  | .repairFuse fn clk => Sys2Proof.Machine.execRepairFuse fn clk s
  | .coreSpare fn clk => Sys2Proof.Machine.execCoreSpare fn clk s
  | .pll fn clk => Sys2Proof.Machine.execPll fn clk s
  | .vmon fn clk => Sys2Proof.Machine.execVmon fn clk s
  | .tsense fn clk => Sys2Proof.Machine.execTsense fn clk s
  | .nearLb fn clk => Sys2Proof.Machine.execNearLb fn clk s
  | .farLb fn clk => Sys2Proof.Machine.execFarLb fn clk s
  | .lbServe fn clk => Sys2Proof.Machine.execLbServe fn clk s
  | .cxlLb fn clk => Sys2Proof.Machine.execCxlLb fn clk s
  | .coreScan fn clk => Sys2Proof.Machine.execCoreScan fn clk s
  | .modelLoad fn clk => Sys2Proof.Machine.execModelLoad fn clk s
  | .imageWrite fn clk => Sys2Proof.Machine.execImageWrite fn clk s
  | .imageErase fn clk => Sys2Proof.Machine.execImageErase fn clk s
  | .imageList fn clk => Sys2Proof.Machine.execImageList fn clk s
  | .attest fn clk => Sys2Proof.Machine.execAttest fn clk s
  | .fwStage fn clk => Sys2Proof.Machine.execFwStage fn clk s
  | .fwActivate fn clk => Sys2Proof.Machine.execFwActivate fn clk s
  | .fwActivateTimeout => Sys2Proof.Machine.execFwActivateTimeout s
  | .accSnapshot fn clk => Sys2Proof.Machine.execAccSnapshot fn clk s
  | .newelWatchdog => Sys2Proof.Machine.execNewelWatchdog s
  | .newelSramUe => Sys2Proof.Machine.execNewelSramUe s
  | .newelRestartDone tableBad => Sys2Proof.Machine.execNewelRestartDone tableBad s
  | .dmaChTail fn w idx value => Sys2Proof.Machine.execDmaChTail fn w idx value s
  | .dmaChCtrlEn fn w idx value => Sys2Proof.Machine.execDmaChCtrlEn fn w idx value s
  | .dmaList ch clk => Sys2Proof.Machine.execDmaList ch clk s
  | .dmaGrid ch clk => Sys2Proof.Machine.execDmaGrid ch clk s
  | .dmaChStatClear fn w idx value => Sys2Proof.Machine.execDmaChStatClear fn w idx value s
  | .wngFltClear fn w value => Sys2Proof.Machine.execWngFltClear fn w value s
  | .svcBistClear value => Sys2Proof.Machine.execSvcBistClear value s
  | .pciErrClear value => Sys2Proof.Machine.execPciErrClear value s
  | .trdNowRead fn part clk => Sys2Proof.Machine.execTrdNowRead fn part clk s
  | .halPortRetrain port value => Sys2Proof.Machine.execHalPortRetrain port value s
  | .trnForce fn w value => Sys2Proof.Machine.execTrnForce fn w value s
  | .accCons value => Sys2Proof.Machine.execAccCons value s
  | .registerWrite fn offset wide value => Sys2Proof.Machine.execRegisterWrite fn offset wide value s
  | .badSizeAccess fn offset size isWrite => Sys2Proof.Machine.execBadSizeAccess fn offset size isWrite s
  | .vector core slot => Sys2Proof.Machine.execVector core slot s
  | .matmul core slot => Sys2Proof.Machine.execMatmul core slot s
  | .attn core slot => Sys2Proof.Machine.execAttn core slot s
  | .route core slot => Sys2Proof.Machine.execRoute core slot s
  | .plan core slot => Sys2Proof.Machine.execPlan core slot s
  | .draft core slot => Sys2Proof.Machine.execDraft core slot s
  | .verify core slot => Sys2Proof.Machine.execVerify core slot s
  | .send core slot => Sys2Proof.Machine.execSend core slot s
  | .openRound core slot => Sys2Proof.Machine.execOpenRound core slot s
  | .accum core slot => Sys2Proof.Machine.execAccum core slot s
  | .close core slot => Sys2Proof.Machine.execClose core slot s
  | .topen core slot => Sys2Proof.Machine.execTopen core slot s
  | .tclose core slot => Sys2Proof.Machine.execTclose core slot s
  | .returnRows core slot => Sys2Proof.Machine.execReturnRows core slot s
  | .combine core slot => Sys2Proof.Machine.execCombine core slot s
  | .update core slot => Sys2Proof.Machine.execUpdate core slot s
  | .vote core slot => Sys2Proof.Machine.execVote core slot s
  | .verdict core slot => Sys2Proof.Machine.execVerdict core slot s
  | .loss core slot => Sys2Proof.Machine.execLoss core slot s
  | .advance core slot => Sys2Proof.Machine.execAdvance core slot s
  | .xform core slot => Sys2Proof.Machine.execXform core slot s
  | .convert core slot => Sys2Proof.Machine.execConvert core slot s
  | .deltaSend core slot => Sys2Proof.Machine.execDeltaSend core slot s
  | .streamBlockIssue core slot block clk => Sys2Proof.Machine.execStreamBlockIssue core slot block clk s
  | .blockRetire core slot block clk => Sys2Proof.Machine.execBlockRetire core slot block clk s
  | .entryWorkEnd core slot clk => Sys2Proof.Machine.execEntryWorkEnd core slot clk s
  | .kvCopyLands w copy clk => Sys2Proof.Machine.execKvCopyLands w copy clk s
  | .contextSaveLands w => Sys2Proof.Machine.execContextSaveLands w s
  | .replacementTread core => Sys2Proof.Machine.execReplacementTread core s
  | .migrate ch granules => Sys2Proof.Machine.execMigrate ch granules s
  | .rowfix ch bank row => Sys2Proof.Machine.execRowfix ch bank row s
  | .linefix slice set way => Sys2Proof.Machine.execLinefix slice set way s
  | .scrubHbm granule => Sys2Proof.Machine.execScrubHbm granule s
  | .scrubGal slice set way => Sys2Proof.Machine.execScrubGal slice set way s
  | .scrubSram core word => Sys2Proof.Machine.execScrubSram core word s
  | .scrubLate store => Sys2Proof.Machine.execScrubLate store s
  | .serdesCal port step atLimit done => Sys2Proof.Machine.execSerdesCal port step atLimit done s
  | .tempCal bad => Sys2Proof.Machine.execTempCal bad s
  | .monitor pllDev16 refDev16 monBad => Sys2Proof.Machine.execMonitor pllDev16 refDev16 monBad s
  | .flash op => Sys2Proof.Machine.execFlash op s
  | .logout n => Sys2Proof.Machine.execLogout n s
  | .telem n => Sys2Proof.Machine.execTelem n s
  | .sliceDefer task => Sys2Proof.Machine.execSliceDefer task s
  | .hbmChannelFault ch training => Sys2Proof.Machine.execHbmChannelFault ch training s
  | .gallerySliceFault slice unreadable => Sys2Proof.Machine.execGallerySliceFault slice unreadable s
  | .shardReadDone w shard read => Sys2Proof.Machine.execShardReadDone w shard read s
  | .flashCopyTimeout w shard got => Sys2Proof.Machine.execFlashCopyTimeout w shard got s
  | .portSignalDetect port => Sys2Proof.Machine.execPortSignalDetect port s
  | .codewordLock port => Sys2Proof.Machine.execCodewordLock port s
  | .codewordLockLoss port => Sys2Proof.Machine.execCodewordLockLoss port s
  | .trainTimeout port => Sys2Proof.Machine.execTrainTimeout port s
  | .retrainTimeout port => Sys2Proof.Machine.execRetrainTimeout port s
  | .cellReceive port uncorrectable header body clk eighth => Sys2Proof.Machine.execCellReceive port uncorrectable header body clk eighth s
  | .marker port msg clk eighth => Sys2Proof.Machine.execMarker port msg clk eighth s
  | .ack port cseq => Sys2Proof.Machine.execAck port cseq s
  | .nak port cseq => Sys2Proof.Machine.execNak port cseq s
  | .credit port vc pool freed => Sys2Proof.Machine.execCredit port vc pool freed s
  | .neigh port num nport keep => Sys2Proof.Machine.execNeigh port num nport keep s
  | .replayTimeout port => Sys2Proof.Machine.execReplayTimeout port s
  | .retryLimit port => Sys2Proof.Machine.execRetryLimit port s
  | .frameTransmit port => Sys2Proof.Machine.execFrameTransmit port s
  | .frameForward port frame headerBad payloadBad => Sys2Proof.Machine.execFrameForward port frame headerBad payloadBad s
  | .rdreq port frame clk => Sys2Proof.Machine.execRdreq port frame clk s
  | .rdrsp port frame clk => Sys2Proof.Machine.execRdrsp port frame clk s
  | .wrreq port frame clk => Sys2Proof.Machine.execWrreq port frame clk s
  | .wrrsp port frame clk => Sys2Proof.Machine.execWrrsp port frame clk s
  | .requestTimeout tag clk => Sys2Proof.Machine.execRequestTimeout tag clk s
  | .tokenRecord rec clk => Sys2Proof.Machine.execTokenRecord rec clk s
  | .returnRecord rec clk => Sys2Proof.Machine.execReturnRecord rec clk s
  | .contributionRecord rec clk => Sys2Proof.Machine.execContributionRecord rec clk s
  | .holdPlace w clk => Sys2Proof.Machine.execHoldPlace w clk s
  | .deltaRecord rec clk => Sys2Proof.Machine.execDeltaRecord rec clk s
  | .rawRequestIssue w => Sys2Proof.Machine.execRawRequestIssue w s
  | .rawreq port frame clk => Sys2Proof.Machine.execRawreq port frame clk s
  | .mirrorBlock w => Sys2Proof.Machine.execMirrorBlock w s
  | .mirrorCommitSend w => Sys2Proof.Machine.execMirrorCommitSend w s
  | .mirrorRecord rec clk => Sys2Proof.Machine.execMirrorRecord rec clk s
  | .mirrorCommit rec clk => Sys2Proof.Machine.execMirrorCommit rec clk s
  | .mirrorFailureReply rec => Sys2Proof.Machine.execMirrorFailureReply rec s
  | .cxlLinkUp port partner => Sys2Proof.Machine.execCxlLinkUp port partner s
  | .cxlLinkDown port => Sys2Proof.Machine.execCxlLinkDown port s
  | .cxlCompletionTimeout port addr openClk => Sys2Proof.Machine.execCxlCompletionTimeout port addr openClk s
  | .cxlReadCompletion port addr poison => Sys2Proof.Machine.execCxlReadCompletion port addr poison s
  | .ident other => Sys2Proof.Machine.execIdent other s
  | .stateRead => Sys2Proof.Machine.execStateRead s
  | .temp => Sys2Proof.Machine.execTemp s
  | .power mv ma => Sys2Proof.Machine.execPower mv ma s
  | .alerts => Sys2Proof.Machine.execAlerts s
  | .alertClr bytes => Sys2Proof.Machine.execAlertClr bytes s
  | .bcap write => Sys2Proof.Machine.execBcap write s
  | .bist => Sys2Proof.Machine.execBist s
  | .tapTlrExit clk => Sys2Proof.Machine.execTapTlrExit clk s
  | .tapTlrReturn => Sys2Proof.Machine.execTapTlrReturn s
  | .bypass code => Sys2Proof.Machine.execBypass code s
  | .idcode => Sys2Proof.Machine.execIdcode s
  | .samplePreload preload => Sys2Proof.Machine.execSamplePreload preload s
  | .extest drive => Sys2Proof.Machine.execExtest drive s
  | .extestPulse drive => Sys2Proof.Machine.execExtestPulse drive s
  | .extestTrain drive => Sys2Proof.Machine.execExtestTrain drive s
  | .clamp => Sys2Proof.Machine.execClamp s
  | .highz => Sys2Proof.Machine.execHighz s
  | .dbgAccess dr => Sys2Proof.Machine.execDbgAccess dr s
  | .ctrlCellSend port => Sys2Proof.Machine.execCtrlCellSend port s
  | .coreswap core pass => Sys2Proof.Machine.execCoreswap core pass s
  | .copiesProgrammed image programmed => Sys2Proof.Machine.execCopiesProgrammed image programmed s
  | .imageStaged => Sys2Proof.Machine.execImageStaged s
  | .itemEnds item unit value limit correctable discarded => Sys2Proof.Machine.execItemEnds item unit value limit correctable discarded s
  | .fusingEnds verified => Sys2Proof.Machine.execFusingEnds verified s
  | .reportFormed clk => Sys2Proof.Machine.execReportFormed clk s

end Sys2Proof.Machine
end

