-- ==== Sys2Proof/WellFormed.lean ====
section
/-!
DEFINITION. The commands that the environment can send: what the operands' types leave open is bounded by the widths of the spec's
fields. `exec` is total and does not ask for this; an ill-formed command names nothing that the hardware has.
-/
namespace Sys2Proof

/-- Temperature is reported in 16 signed bits (spec/20_host_links.md Table 20.5). -/
def BoundaryEnv.wellFormed (e : BoundaryEnv) : Bool := -32768 ≤ e.temp8 && e.temp8 < 32768

/-- Field widths of Table 2.3. -/
def MarkerMsg.wellFormed (m : MarkerMsg) : Bool :=
  m.tread < 2 ^ 48 && m.txPhase < 2 ^ 16 && m.echoTread < 256 && m.echoPhase < 2 ^ 19 && m.root < 2 ^ 17 && m.hops < 64 && m.state < 4

/-- Field widths of Table 14.5, and the payload that LENW says (R315). -/
def Frame.wellFormed (f : Frame) : Bool :=
  f.typ < 16 && f.vc < 2 && f.prio < 8 && f.dst < 2 ^ 17 && f.src < 2 ^ 17 && f.dwing < 32 && f.swing < 32 && f.lenw < 1024
    && f.pool < 64 && f.tag < 2 ^ 16 && f.status < 16 && f.addr < 2 ^ 47 && f.epoch < 2 ^ 32 && f.rlen < 2 ^ 13
    && f.payload.length = 8 * f.lenw

/-- Field widths of a record’s frames (R315, R317); ports 0 to 8. -/
def RecIn.wellFormed (r : RecIn) : Bool :=
  r.port ≤ 8 && r.vc < 2 && r.pool < 64 && r.lens.all (· ≤ 4096) && r.src < 2 ^ 17 && r.swing < 32 && r.dwing < 32 && r.addr < 2 ^ 47 && r.nblk < 2 ^ 32 && r.bytes.length % 8 = 0

/-- Block, slot and copy numbers of flash (spec/19_service.md R428). -/
def FlashOp.wellFormed : FlashOp → Bool
  | .rewrite block => block < 262144
  | .retire block copyLost => block < 262144 && (match copyLost with | some (_, _, copy) => copy < 2 | none => true)
  | .eraseDone block => block < 262144
  | .fwCopy slot copy => slot < 2 && copy < 2
  | .level channel => channel < 8
  | .passEnd => true

/-- Link speed and width that CXL_PORT can report. -/
def CxlPartner.wellFormed (p : CxlPartner) : Bool := p.speed ≤ 4 && p.width ≤ 16

/-- How many units a kind of R380 has: cores, gallery slices, HBM channels, ports, CXL ports. -/
def unitKinds : Nat → Nat
  | 0 => 832
  | 1 => 32
  | 2 => 128
  | 3 => 9
  | 4 => 2
  | _ => 0

/-- The operands of a command are values that the environment can supply. -/
def Instr.wellFormed : Instr → Bool
  | .powerOn _ _ => true
  | .resetInputAssert _ _ => true
  | .startUpBegin => true
  | .bootRom _ => true
  | .memoryInit _ => true
  | .startupSelftest _ _ _ _ _ => true
  | .configRequest _ _ _ => true
  | .inputUndervoltage _ _ => true
  | .inputOvervoltage _ _ => true
  | .thermalTrip temp8 _ => -32768 ≤ temp8 && temp8 < 32768
  | .vfFlr _ _ => true
  | .vfEnableChange numVFs _ _ => numVFs < 2 ^ 16
  | .pfD3hot => true
  | .pfD0Return => true
  | .treadBoundary env => env.wellFormed
  | .lockAcquired env => env.wellFormed
  | .lockLost env => env.wellFormed
  | .parentLost env => env.wellFormed
  | .holdoverExpiry env => env.wellFormed
  | .acquireNoSource env => env.wellFormed
  | .entryAbandon _ env => env.wellFormed
  | .flightDone _ env => env.wellFormed
  | .landTimeout _ env => env.wellFormed
  | .quiesceTimeout _ env => env.wellFormed
  | .tretDeadline _ _ env => env.wellFormed
  | .unitDiverge kind unit env => unit.val < unitKinds kind.val && env.wellFormed
  | .landingTreadSweep _ => true
  | .mbxCmdDb _ _ => true
  | .mbxCtrlEn _ _ => true
  | .mbxCplHead _ _ => true
  | .nop _ _ => true
  | .identify _ _ => true
  | .cfgLoad _ _ => true
  | .flightLoad _ _ => true
  | .flightSwitch _ _ => true
  | .flightStop _ _ => true
  | .flightUnload _ _ => true
  | .guestLoad _ _ => true
  | .seqAdmit _ _ => true
  | .seqFork _ _ => true
  | .seqCancel _ _ => true
  | .seqPark _ _ => true
  | .seqResume _ _ => true
  | .epochFlip _ _ => true
  | .adapterLoad _ _ => true
  | .adapterDrop _ _ => true
  | .prefixRegister _ _ => true
  | .prefixDrop _ _ => true
  | .layoutLoad _ _ => true
  | .turnLand _ _ => true
  | .turnAbort _ _ => true
  | .ctxSwitch _ _ => true
  | .ctxSet _ _ => true
  | .semAcquire _ _ => true
  | .semRelease _ _ => true
  | .wingQuiesce _ _ => true
  | .wingReset _ _ => true
  | .deviceReset _ _ => true
  | .unitQuery _ _ => true
  | .unitSet _ _ => true
  | .hbmRetire _ _ => true
  | .repairList _ _ => true
  | .repairFuse _ _ => true
  | .coreSpare _ _ => true
  | .pll _ _ => true
  | .vmon _ _ => true
  | .tsense _ _ => true
  | .nearLb _ _ => true
  | .farLb _ _ => true
  | .lbServe _ _ => true
  | .cxlLb _ _ => true
  | .coreScan _ _ => true
  | .modelLoad _ _ => true
  | .imageWrite _ _ => true
  | .imageErase _ _ => true
  | .imageList _ _ => true
  | .attest _ _ => true
  | .fwStage _ _ => true
  | .fwActivate _ _ => true
  | .fwActivateTimeout => true
  | .accSnapshot _ _ => true
  | .newelWatchdog => true
  | .newelSramUe => true
  | .newelRestartDone _ => true
  | .dmaChTail _ _ _ _ => true
  | .dmaChCtrlEn _ _ _ _ => true
  | .dmaList _ _ => true
  | .dmaGrid _ _ => true
  | .dmaChStatClear _ _ _ _ => true
  | .wngFltClear _ _ _ => true
  | .svcBistClear _ => true
  | .pciErrClear _ => true
  | .trdNowRead _ _ _ => true
  | .halPortRetrain _ _ => true
  | .trnForce _ _ _ => true
  | .accCons _ => true
  | .registerWrite fn offset wide value => offset < (if fn.val = 0 then 0x2000000 else 0x20000) && (wide || value.toNat < 2 ^ 32)
  | .badSizeAccess fn offset size _ => offset < (if fn.val = 0 then 0x2000000 else 0x20000) && 0 < size && !((size = 4 || size = 8) && offset % size = 0)
  | .vector _ _ => true
  | .matmul _ _ => true
  | .attn _ _ => true
  | .route _ _ => true
  | .plan _ _ => true
  | .draft _ _ => true
  | .verify _ _ => true
  | .send _ _ => true
  | .openRound _ _ => true
  | .accum _ _ => true
  | .close _ _ => true
  | .topen _ _ => true
  | .tclose _ _ => true
  | .returnRows _ _ => true
  | .combine _ _ => true
  | .update _ _ => true
  | .vote _ _ => true
  | .verdict _ _ => true
  | .loss _ _ => true
  | .advance _ _ => true
  | .xform _ _ => true
  | .convert _ _ => true
  | .deltaSend _ _ => true
  | .streamBlockIssue _ _ block _ => block < 2 ^ 16
  | .blockRetire _ _ block _ => block < 2 ^ 16
  | .entryWorkEnd _ _ _ => true
  | .kvCopyLands _ _ _ => true
  | .contextSaveLands _ => true
  | .replacementTread _ => true
  | .migrate _ granules => 0 < granules && granules ≤ 12582912
  | .rowfix _ _ row => row < 196608
  | .linefix _ _ _ => true
  | .scrubHbm granule => granule < 384 * 2 ^ 22
  | .scrubGal _ _ _ => true
  | .scrubSram _ word => word < 2 ^ 19
  | .scrubLate _ => true
  | .serdesCal _ step _ _ => step.all fun x => -1 ≤ x && x ≤ 1
  | .tempCal _ => true
  | .monitor _ _ _ => true
  | .flash op => op.wellFormed
  | .logout _ => true
  | .telem _ => true
  | .sliceDefer _ => true
  | .hbmChannelFault _ _ => true
  | .gallerySliceFault _ unreadable => unreadable.all fun w => w < 2 ^ 45
  | .shardReadDone _ shard _ => shard < 2 ^ 16
  | .flashCopyTimeout _ shard _ => shard < 2 ^ 16
  | .portSignalDetect _ => true
  | .codewordLock _ => true
  | .codewordLockLoss _ => true
  | .trainTimeout _ => true
  | .retrainTimeout _ => true
  | .cellReceive _ _ _ body _ _ => body.length ≤ 640
  | .marker _ msg _ _ => msg.wellFormed
  | .ack _ _ => true
  | .nak _ _ => true
  | .credit _ _ _ _ => true
  | .neigh _ _ _ _ => true
  | .replayTimeout _ => true
  | .retryLimit _ => true
  | .frameTransmit _ => true
  | .frameForward _ frame _ _ => frame.wellFormed
  | .rdreq _ frame _ => frame.wellFormed
  | .rdrsp _ frame _ => frame.wellFormed
  | .wrreq _ frame _ => frame.wellFormed
  | .wrrsp _ frame _ => frame.wellFormed
  | .requestTimeout tag _ => tag < 2 ^ 16
  | .tokenRecord rec _ => rec.wellFormed
  | .returnRecord rec _ => rec.wellFormed
  | .contributionRecord rec _ => rec.wellFormed
  | .holdPlace _ _ => true
  | .deltaRecord rec _ => rec.wellFormed
  | .rawRequestIssue _ => true
  | .rawreq _ frame _ => frame.wellFormed
  | .mirrorBlock _ => true
  | .mirrorCommitSend _ => true
  | .mirrorRecord rec _ => rec.wellFormed
  | .mirrorCommit rec _ => rec.wellFormed
  | .mirrorFailureReply rec => rec.wellFormed
  | .cxlLinkUp _ partner => partner.wellFormed
  | .cxlLinkDown _ => true
  | .cxlCompletionTimeout _ addr _ => addr < 2 ^ 47
  | .cxlReadCompletion _ addr _ => addr < 2 ^ 47
  | .ident other => match other with | some c => !(1 ≤ c.toNat && c.toNat ≤ 8) | none => true
  | .stateRead => true
  | .temp => true
  | .power mv ma => mv < 655360 && ma < 655360
  | .alerts => true
  | .alertClr _ => true
  | .bcap _ => true
  | .bist => true
  | .tapTlrExit _ => true
  | .tapTlrReturn => true
  | .bypass code => !(1 ≤ code.toNat && code.toNat ≤ 7) && code.toNat ≠ 0x20
  | .idcode => true
  | .samplePreload _ => true
  | .extest _ => true
  | .extestPulse _ => true
  | .extestTrain _ => true
  | .clamp => true
  | .highz => true
  | .dbgAccess _ => true
  | .ctrlCellSend _ => true
  | .coreswap _ _ => true
  | .copiesProgrammed _ _ => true
  | .imageStaged => true
  | .itemEnds _ _ value limit _ _ => value < 2 ^ 64 && limit < 2 ^ 64
  | .fusingEnds verified => verified.all fun i => i < 16384
  | .reportFormed _ => true

end Sys2Proof
end

