-- ==== Sys2Proof/Safety.lean ====
section
/-!
DEFINITION. The terms in which claims speak of the module: the canonical form of memory, the invariant that every step keeps, the parts of the
state that a command leaves alone, and a mailbox entry that the newel takes.
-/
namespace Sys2Proof.Machine

/-! ## The canonical form of memory -/

/-- The keys of a table rise strictly. -/
def risingKeys {α : Type} : List (Nat × α) → Bool
  | [] => true
  | [_] => true
  | x :: y :: t => x.1 < y.1 && risingKeys (y :: t)

/-- The canonical form of a byte store: rising addresses with no zero byte, rising words with no zero syndrome. -/
def Mem.wf (m : Mem) : Bool :=
  risingKeys m.cells && m.cells.all (fun c => c.2 ≠ 0) && risingKeys m.errs && m.errs.all fun e => e.2 ≠ 0

/-! ## The invariant of every step -/

/-- A value of a register of the PF: the offset is a register’s, and the bits that no write sets are as at reset (R15, R16). -/
def fitsPf (e : Nat × Nat) : Prop :=
  ∃ r ∈ pfRegRows, ∃ i < r.n, e.1 = r.key + r.stride * i ∧ e.2 ||| r.mask = r.reset ||| r.mask

/-- States that a run can reach have these: tread and clk in range (R32), hall time in a state of Table 2.4 with a parent that is a hall port
or none, hops as TRD_STATUS can show them, start-up in a state of Table 21.1, and registers of the PF within their bits. -/
structure State.Legal (s : State) : Prop where
  tread : s.time.tread < treadMod
  clk : s.time.phase < treadClk
  lock : s.time.lock ≤ 3
  parent : s.time.parent < 8 ∨ s.time.parent = 15
  hops : s.time.hops ≤ 63
  start : s.boot.st ≤ 6
  cause : s.boot.cause ≤ 2
  image : s.boot.active ≤ 1 ∧ s.boot.slot ≤ 1 ∧ s.boot.copy ≤ 1
  written : ∀ e ∈ s.pfw, fitsPf e
  effect : ∀ e ∈ s.pfe, fitsPf e

/-! ## Frames -/

/-- A byte of memory is as it was, or as it stood behind a dirty line whose write back is lost (R137, R147, R148). -/
def State.byteKept (s t : State) (a : Nat) : Prop :=
  getCell t.mem.cells a = getCell s.mem.cells a
    ∨ ∃ l ∈ s.gal.lines, l.2.dirty = true ∧ l.2.tag = a / 256 ∧ getCell t.mem.cells a = l.2.back.getD (a % 256) 0

/-- The parts of the module’s state. -/
inductive Part
  | fresh | boot | pci | time | power | mem | host | hostBad | gal | hbm | units | recs | pfw | pfe | wings | cores | phys | crecs
  | ended | chans | cxl | board | ports | fab | acct | svc | svcBut | trust | fns | newel | ans
deriving DecidableEq, Repr

/-- A part is the same in two states; `svcBut`: the service unit but for the receivers' taps, which RETRAIN restores. -/
def State.same (s t : State) (p : Part) : Prop :=
  match p with
  | .fresh => s.fresh = t.fresh
  | .boot => s.boot = t.boot
  | .pci => s.pci = t.pci
  | .time => s.time = t.time
  | .power => s.power = t.power
  | .mem => s.mem = t.mem
  | .host => s.host = t.host
  | .hostBad => s.hostBad = t.hostBad
  | .gal => s.gal = t.gal
  | .hbm => s.hbm = t.hbm
  | .units => s.units = t.units
  | .recs => s.recs = t.recs
  | .pfw => s.pfw = t.pfw
  | .pfe => s.pfe = t.pfe
  | .wings => s.wings = t.wings
  | .cores => s.cores = t.cores
  | .phys => s.phys = t.phys
  | .crecs => s.crecs = t.crecs
  | .ended => s.ended = t.ended
  | .chans => s.chans = t.chans
  | .cxl => s.cxl = t.cxl
  | .board => s.board = t.board
  | .ports => s.ports = t.ports
  | .fab => s.fab = t.fab
  | .acct => s.acct = t.acct
  | .svc => s.svc = t.svc
  | .svcBut => s.svc = { t.svc with taps := s.svc.taps }
  | .trust => s.trust = t.trust
  | .fns => s.fns = t.fns
  | .newel => s.newel = t.newel
  | .ans => s.ans = t.ans

/-- The queue and the named parts are the same in two states. -/
def State.keeps (s t : State) (l : List Part) : Prop := t.pending = s.pending ∧ ∀ p ∈ l, s.same t p

/-- Only the clk within the tread may differ in the hall-time unit. -/
def State.sameClock (s t : State) : Prop := t.time = { s.time with phase := t.time.phase }

/-- The command completes from every state, keeping the queue and the named parts; `clock`: of the hall-time unit only the clk may change. -/
def Framed (i : Instr) (l : List Part) (clock : Bool) : Prop :=
  ∀ s : State, ∃ t, exec i s = .next t ∧ s.keeps t l ∧ (clock = true → s.sameClock t)

/-! ## Mailbox entries -/

/-- A command row finds its entry: it is the ring’s turn, and its head holds an entry of the row’s opcode that passes the checks of R368 which come before the
command’s own. The state past the head and the command as accepted. -/
def State.taken (s : State) (fn : Fn) (clk : Clk) (k : CmdSpec) : Option (State × Cmd) :=
  let s1 := State.takeRest 4096 (s.at_ clk.val)
  match s1.turnEntry fn.val with
  | none => none
  | some e =>
    let c := s1.cmdOf fn.val e
    if entryOp e = k.op ∧ (s1.takeHead fn.val).preCheck k c (fieldN e 0 4) = none then some (s1.takeHead fn.val, c) else none

/-- An accepted command is outstanding behind the earlier ones, and nothing else has changed since the head moved past it (R365). -/
def State.holding (q t : State) (c : Cmd) : Prop :=
  t.newel = { q.newel with out := q.newel.out ++ [c] } ∧ t.fns = q.fns ∧ t.wings = q.wings ∧ t.mem = q.mem ∧ t.host = q.host ∧ t.gal = q.gal
    ∧ t.units = q.units ∧ t.acct = q.acct ∧ t.svc = q.svc ∧ t.trust = q.trust

/-- A completion stands in its ring (R364, Table 16.2): the 128 bytes of the slot at the tail that `s` holds, and the tail past it. -/
def State.completed (s t : State) (c : Cmd) (status : Nat) (r : List Nat) : Prop :=
  let f := s.fnSt c.fn
  (∀ i < 128, getCell t.host.cells (f.cpl / 4096 * 4096 + 128 * f.cplTail + i) = (cplBytes f.cphase ⟨c, status, 0, s.tread, r⟩).getD i 0)
    ∧ (t.fnSt c.fn).cplTail = (f.cplTail + 1) % ringSize f.cpl

/-- The completion ring’s slot at the tail can be written. -/
def State.cplWritable (s : State) (fn : Nat) : Bool :=
  s.hostOk fn ((s.fnSt fn).cpl / 4096 * 4096 + 128 * (s.fnSt fn).cplTail) 128

/-! ## The coming boundary -/

/-- The state after the coming boundary, where a row that stands for one of its actions has carried it out (R35). -/
def State.crossedBy (s : State) (e : BoundaryEnv) : State :=
  s.keepBoundary ((s.cross e).withTime { (s.cross e).time with crossed := true })

/-- A device reset is due at the coming boundary (R467): its action 3 begins hall time anew. -/
def State.resetDue (s : State) (e : BoundaryEnv) : Bool :=
  let x := (s.boundaryFirst e).action2 s.ending
  x.boot.st = 5 && (x.outOp 0x602).any x.isDue

/-! ## Resets -/

/-- The state after a cold reset beside the one before it (R456, Table 21.2): every register and state anew; flash, fuses and the strap stay. -/
def State.coldAfter (s t : State) : Prop :=
  t.boot.st = 0 ∧ t.boot.cause = 0 ∧ t.time = {} ∧ t.mem = {} ∧ t.power = {} ∧ t.pci = {} ∧ t.pfw = [] ∧ t.pfe = [] ∧ t.wings = []
    ∧ t.cores = [] ∧ t.chans = [] ∧ t.units = [] ∧ t.hbm = {} ∧ t.gal = {} ∧ t.ports = [] ∧ t.fab = {} ∧ t.cxl = [] ∧ t.fns = [] ∧ t.newel = {}
    ∧ t.acct = {} ∧ t.phys = [] ∧ t.svc.fuses = s.svc.fuses ∧ t.svc.repairs = s.svc.repairs ∧ t.trust.fw = s.trust.fw
    ∧ t.boot.active = s.boot.active ∧ t.pending = s.pending

end Sys2Proof.Machine
end

