-- ==== Sys2Proof/Certificates/Slice0/Obligations.lean ====
section
/-!
DEFINITION. The statements of this row for the provers: what each command does and leaves unchanged, the invariant that every step keeps, and the
rules of the whole machine.
-/
open Sys2Proof Sys2Proof.Machine

/-- For every command c and state s whose queue begins with c, a step answers what exec of c answers on s with the rest of the queue. That
commands wait in a queue, one sender, is the model’s choice (log entry 1). (INDEX.md, 00_scope.md) -/
def Obligations.StepRunsFront : Prop :=
  ∀ (c : Instr) (rest : List Instr) (s : State), s.pending = c :: rest → step s = exec c { s with pending := rest }

/-- With no command waiting the module idles: its ticks are rows of the table (the model’s choice, log entry 1). (02_time.md) -/
def Obligations.EmptyQueueIdles : Prop :=
  ∀ s : State, s.pending = [] → step s = .next s

/-- exec answers a next state for every command from every state, with the same queue: the model stops on nothing. (00_scope.md) -/
def Obligations.ExecKeepsQueue : Prop :=
  ∀ (c : Instr) (s : State), ∃ t, exec c s = .next t ∧ t.pending = s.pending

/-- Start-up state RESET after a cold reset, hall time FREE at tread 0 with no parent, every wing disabled, every hall port down, memory with
nothing listed, the spare cores SPARE and the others LIVE, and nothing waiting. That tread 0 comes first and which words units hold before
start-up follow the spec; the empty queue is the model’s own. (R32, R41, R432, R459) -/
def Obligations.ResetState : Prop :=
  State.reset.boot.st = 0 ∧ State.reset.boot.cause = 0 ∧ State.reset.time.lock = 0 ∧ State.reset.time.tread = 0
    ∧ State.reset.time.parent = 15 ∧ State.reset.time.hops = 63 ∧ (∀ w < 32, State.reset.enabled w = false)
    ∧ (∀ p < 9, (State.reset.port p).st = 0) ∧ State.reset.mem.cells = [] ∧ State.reset.mem.errs = []
    ∧ (∀ k < 832, (State.reset.unit (unitKey 0 k)).hw = if k % 208 < 200 then 0 else 5)
    ∧ State.reset.newel.running = false ∧ State.reset.pending = []

/-- The invariant of LegalKept holds of State.reset. (R15, R32, R41, R459) -/
def Obligations.LegalAtReset : Prop :=
  State.reset.Legal

/-- From every legal state, a step that answers a next state answers a legal one: tread below 2^48, clk below 37,600, a lock state of Table 2.4
whose parent is a hall port or none, hops within TRD_STATUS, a start-up state of Table 21.1 with a cause and image of SVC_BOOT, and every
register of the PF, written and in effect, with the bits that no write sets as at reset. (R15, R16, R32, R36, R41, R459, R461, Table 2.4,
Table 21.1) -/
def Obligations.LegalKept : Prop :=
  ∀ s t : State, s.Legal → step s = .next t → t.Legal

/-- The rows of mailbox commands that load, run and change jobs complete from every state and leave the start-up state, PCI, power, the PF’s
registers, cores, DMA channels, ports, the fabric, service, trust, and the tread. (16_newel.md, R366) -/
def Obligations.FrameOfMailboxCommands : Prop :=
  (let l : List Part := [.fresh, .boot, .pci, .power, .hostBad, .pfw, .pfe, .phys, .crecs, .ended, .chans, .ports, .fab, .svc, .trust, .ans];
    (∀ (fn : Fn) (clk : Clk), ∀ i ∈ ([.nop fn clk, .identify fn clk, .cfgLoad fn clk, .flightLoad fn clk, .flightSwitch fn clk, .flightStop fn clk, .flightUnload fn clk,
      .guestLoad fn clk] :
      List Instr), Framed i l true)) ∧
  (let l : List Part := [.fresh, .boot, .pci, .power, .hostBad, .pfw, .pfe, .cores, .phys, .crecs, .ended, .chans, .ports, .fab, .svc, .trust, .ans];
    (∀ (fn : Fn) (clk : Clk), ∀ i ∈ ([.seqAdmit fn clk, .seqFork fn clk, .seqCancel fn clk, .seqPark fn clk, .seqResume fn clk, .epochFlip fn clk, .adapterLoad fn clk,
      .adapterDrop fn clk, .prefixRegister fn clk, .prefixDrop fn clk, .layoutLoad fn clk, .turnLand fn clk, .turnAbort fn clk,
      .ctxSwitch fn clk, .ctxSet fn clk, .semAcquire fn clk, .semRelease fn clk, .wingQuiesce fn clk, .wingReset fn clk,
      .deviceReset fn clk, .pll fn clk, .vmon fn clk, .tsense fn clk, .nearLb fn clk, .farLb fn clk, .lbServe fn clk, .cxlLb fn clk,
      .coreScan fn clk] :
      List Instr), Framed i l true) ∧
    (∀ (w : WingId) (copy : Nat) (clk : Clk), Framed (.kvCopyLands w copy clk) l true) ∧
    (∀ (w : WingId), Framed (.contextSaveLands w) l true))

/-- The rows of service and trust commands, of the newel’s restarts and of model loads complete from every state and leave the named parts.
(16_newel.md, 17_trust.md, 19_service.md) -/
def Obligations.FrameOfServiceAndTrustCommands : Prop :=
  (let l : List Part := [.fresh, .boot, .pci, .power, .hostBad, .pfw, .pfe, .cores, .phys, .crecs, .ended, .chans, .fab, .trust, .ans];
    (∀ (fn : Fn) (clk : Clk), ∀ i ∈ ([.unitQuery fn clk, .unitSet fn clk, .hbmRetire fn clk, .repairList fn clk, .repairFuse fn clk, .coreSpare fn clk,
      .accSnapshot fn clk] :
      List Instr), Framed i l true)) ∧
  (let l : List Part := [.boot, .pci, .power, .hostBad, .pfw, .pfe, .cores, .phys, .crecs, .ended, .chans, .ports, .fab, .ans];
    (∀ (fn : Fn) (clk : Clk), ∀ i ∈ ([.modelLoad fn clk, .imageWrite fn clk, .imageErase fn clk, .imageList fn clk, .attest fn clk, .fwStage fn clk, .fwActivate fn clk] :
      List Instr), Framed i l true) ∧
    (∀ (image : Nat) (programmed : Bool), Framed (.copiesProgrammed image programmed) l true) ∧
    (Framed (.imageStaged) l true) ∧
    (∀ (verified : List Nat), Framed (.fusingEnds verified) l true) ∧
    (∀ (clk : Clk), Framed (.reportFormed clk) l true)) ∧
  (let l : List Part := [.fresh, .pci, .power, .hostBad, .pfw, .pfe, .cores, .phys, .crecs, .ended, .chans, .ports, .fab, .svc, .ans];
    (∀ i ∈ ([.fwActivateTimeout, .newelWatchdog, .newelSramUe] :
      List Instr), Framed i l true) ∧
    (∀ (tableBad : Bool), Framed (.newelRestartDone tableBad) l true)) ∧
  (let l : List Part := [.fresh, .boot, .pci, .power, .hostBad, .pfw, .pfe, .cores, .phys, .crecs, .ended, .chans, .ports, .fab, .svc, .ans];
    (∀ (w : WingId) (shard : Nat) (read : ShardRead), Framed (.shardReadDone w shard read) l true) ∧
    (∀ (w : WingId) (shard : Nat) (got : List Byte), Framed (.flashCopyTimeout w shard got) l true))

/-- The functions of configuration words and the stream steps complete from every state and leave start-up, PCI, power, the PF’s registers, the
mapping of cores, DMA channels, service and trust; a function that sends no record leaves the ports. (03_core.md, 07_streams_dma.md) -/
def Obligations.FrameOfFunctions : Prop :=
  (let l : List Part := [.boot, .pci, .time, .power, .hostBad, .pfw, .pfe, .phys, .chans, .ports, .svc, .trust, .ans];
    (∀ (core : CoreId) (slot : CtxSlot), ∀ i ∈ ([.vector core slot, .matmul core slot, .attn core slot, .plan core slot, .draft core slot, .verify core slot, .update core slot,
      .vote core slot, .verdict core slot, .loss core slot, .advance core slot, .xform core slot, .convert core slot] :
      List Instr), Framed i l false)) ∧
  (let l : List Part := [.boot, .pci, .time, .power, .hostBad, .pfw, .pfe, .phys, .chans, .svc, .trust, .ans];
    (∀ (core : CoreId) (slot : CtxSlot), ∀ i ∈ ([.route core slot, .send core slot, .openRound core slot, .accum core slot, .close core slot, .topen core slot, .tclose core slot,
      .returnRows core slot, .combine core slot, .deltaSend core slot] :
      List Instr), Framed i l false)) ∧
  (let l : List Part := [.boot, .pci, .power, .hostBad, .pfw, .pfe, .phys, .chans, .svc, .trust, .ans];
    (∀ (core : CoreId) (slot : CtxSlot) (block : Nat) (clk : Clk), ∀ i ∈ ([.streamBlockIssue core slot block clk, .blockRetire core slot block clk] :
      List Instr), Framed i l true) ∧
    (∀ (core : CoreId) (slot : CtxSlot) (clk : Clk), Framed (.entryWorkEnd core slot clk) l true))

/-- Port events leave cores, DMA channels, service and trust; frames and records leave cores and DMA channels; a marker leaves all but the
hall-time unit. (14_hall_fabric.md, 02_time.md) -/
def Obligations.FrameOfFabric : Prop :=
  (let l : List Part := [.fresh, .boot, .pci, .power, .hostBad, .pfw, .pfe, .cores, .phys, .crecs, .ended, .chans, .svcBut, .trust, .ans];
    (∀ (port : PortId), ∀ i ∈ ([.portSignalDetect port, .codewordLock port, .codewordLockLoss port, .trainTimeout port, .retrainTimeout port, .replayTimeout port,
      .retryLimit port, .ctrlCellSend port] :
      List Instr), Framed i l true) ∧
    (∀ (port : PortId) (uncorrectable : Bool) (header : BitVec 20) (body : List Byte) (clk : Clk) (eighth : Fin 8), Framed (.cellReceive port uncorrectable header body clk eighth) l true) ∧
    (∀ (port : PortId) (cseq : Fin 4096), ∀ i ∈ ([.ack port cseq, .nak port cseq] :
      List Instr), Framed i l true) ∧
    (∀ (port : PortId) (vc : Fin 6) (pool : Fin 33) (freed : Fin 65536), Framed (.credit port vc pool freed) l true) ∧
    (∀ (port : PortId) (num : Fin 131072) (nport : Fin 16) (keep : Bool), Framed (.neigh port num nport keep) l true)) ∧
  (let l : List Part := [.boot, .pci, .power, .hostBad, .pfw, .pfe, .cores, .phys, .crecs, .ended, .chans, .svc, .trust, .ans];
    (∀ (port : PortId), Framed (.frameTransmit port) l true) ∧
    (∀ (port : PortId) (frame : Frame) (headerBad payloadBad : Bool), Framed (.frameForward port frame headerBad payloadBad) l true) ∧
    (∀ (port : PortId) (frame : Frame) (clk : Clk), ∀ i ∈ ([.rdreq port frame clk, .rdrsp port frame clk, .wrreq port frame clk, .wrrsp port frame clk, .rawreq port frame clk] :
      List Instr), Framed i l true) ∧
    (∀ (tag : Nat) (clk : Clk), Framed (.requestTimeout tag clk) l true) ∧
    (∀ (rec : RecIn) (clk : Clk), ∀ i ∈ ([.tokenRecord rec clk, .returnRecord rec clk, .contributionRecord rec clk, .deltaRecord rec clk, .mirrorRecord rec clk,
      .mirrorCommit rec clk] :
      List Instr), Framed i l true) ∧
    (∀ (w : WingId) (clk : Clk), Framed (.holdPlace w clk) l true) ∧
    (∀ (w : WingId), ∀ i ∈ ([.rawRequestIssue w, .mirrorBlock w, .mirrorCommitSend w] :
      List Instr), Framed i l true) ∧
    (∀ (rec : RecIn), Framed (.mirrorFailureReply rec) l true)) ∧
  (let l : List Part := [.fresh, .boot, .pci, .power, .mem, .host, .hostBad, .gal, .hbm, .units, .recs, .pfw, .pfe, .wings, .cores, .phys, .crecs, .ended,
      .chans, .cxl, .board, .ports, .fab, .acct, .svc, .trust, .fns, .newel, .ans];
    (∀ (port : PortId) (msg : MarkerMsg) (clk : Clk) (eighth : Fin 8), Framed (.marker port msg clk eighth) l false))

/-- Mailbox registers, registers with an action, other register writes and DMA channels complete from every state and leave the named parts; a
DMA channel’s register leaves all but the channels. (16_newel.md, 20_host_links.md, 07_streams_dma.md) -/
def Obligations.FrameOfRegisters : Prop :=
  (let l : List Part := [.fresh, .pci, .power, .hostBad, .pfw, .pfe, .cores, .phys, .crecs, .ended, .chans, .ports, .fab, .svc, .trust, .ans];
    (∀ (fn : Fn) (value : BitVec 32), ∀ i ∈ ([.mbxCmdDb fn value, .mbxCtrlEn fn value, .mbxCplHead fn value] :
      List Instr), Framed i l true)) ∧
  (let l : List Part := [.fresh, .boot, .power, .host, .hostBad, .gal, .hbm, .units, .recs, .pfw, .pfe, .cores, .phys, .crecs, .ended, .chans, .cxl, .board,
      .fab, .acct, .trust, .fns, .newel];
    (∀ (fn : Fn) (w : WingId) (value : BitVec 64), Framed (.wngFltClear fn w value) l false) ∧
    (∀ (value : BitVec 32), ∀ i ∈ ([.svcBistClear value, .pciErrClear value] :
      List Instr), Framed i l false) ∧
    (∀ (fn : Fn) (part : NowPart) (clk : Clk), Framed (.trdNowRead fn part clk) l false) ∧
    (∀ (fn : Fn) (offset : Nat) (size : Nat) (isWrite : Bool), Framed (.badSizeAccess fn offset size isWrite) l false)) ∧
  (let l : List Part := [.fresh, .time, .power, .hostBad, .pfe, .cores, .phys, .crecs, .ended, .fab, .trust];
    (∀ (port : PortId) (value : BitVec 64), Framed (.halPortRetrain port value) l false) ∧
    (∀ (fn : Fn) (w : WingId) (value : BitVec 32), Framed (.trnForce fn w value) l false) ∧
    (∀ (value : BitVec 32), Framed (.accCons value) l false) ∧
    (∀ (fn : Fn) (offset : Nat) (wide : Bool) (value : BitVec 64), Framed (.registerWrite fn offset wide value) l false)) ∧
  (let l : List Part := [.fresh, .boot, .pci, .time, .power, .mem, .host, .hostBad, .gal, .hbm, .units, .recs, .pfw, .pfe, .wings, .cores, .phys, .crecs,
      .ended, .cxl, .board, .ports, .fab, .acct, .svc, .trust, .fns, .newel, .ans];
    (∀ (fn : Fn) (w : WingId) (idx : ChanId) (value : BitVec 32), ∀ i ∈ ([.dmaChTail fn w idx value, .dmaChCtrlEn fn w idx value, .dmaChStatClear fn w idx value] :
      List Instr), Framed i l false)) ∧
  (let l : List Part := [.boot, .pci, .power, .hostBad, .pfw, .pfe, .cores, .phys, .crecs, .ended, .svc, .trust, .ans];
    (∀ (ch : ChanId) (clk : Clk), ∀ i ∈ ([.dmaList ch clk, .dmaGrid ch clk] :
      List Instr), Framed i l true))

/-- Background work completes from every state and leaves start-up, PCI, power, the PF’s registers, cores, DMA channels, ports and the fabric.
(06_memory.md, 19_service.md, 18_accounting.md) -/
def Obligations.FrameOfUpkeep : Prop :=
  (let l : List Part := [.fresh, .boot, .pci, .time, .power, .hostBad, .pfw, .pfe, .cores, .phys, .crecs, .ended, .chans, .ports, .fab, .trust, .ans];
    (∀ (core : CoreId), Framed (.replacementTread core) l false) ∧
    (∀ (ch : HbmCh) (granules : Nat), Framed (.migrate ch granules) l false) ∧
    (∀ (ch : HbmCh) (bank : Fin 16) (row : Nat), Framed (.rowfix ch bank row) l false) ∧
    (∀ (slice : SliceId) (set : Fin 4096) (way : Fin 16), ∀ i ∈ ([.linefix slice set way, .scrubGal slice set way] :
      List Instr), Framed i l false) ∧
    (∀ (granule : Nat), Framed (.scrubHbm granule) l false) ∧
    (∀ (core : CoreId) (word : Nat), Framed (.scrubSram core word) l false) ∧
    (∀ (store : ScrubStore), Framed (.scrubLate store) l false) ∧
    (∀ (ch : HbmCh) (training : Bool), Framed (.hbmChannelFault ch training) l false) ∧
    (∀ (slice : SliceId) (unreadable : List Nat), Framed (.gallerySliceFault slice unreadable) l false) ∧
    (∀ (core : CoreId) (pass : Bool), Framed (.coreswap core pass) l false)) ∧
  (let l : List Part := [.fresh, .boot, .pci, .power, .hostBad, .pfw, .pfe, .cores, .phys, .crecs, .ended, .chans, .ports, .fab, .ans];
    (∀ (port : Fin 12) (step : List Int) (atLimit done : Bool), Framed (.serdesCal port step atLimit done) l true) ∧
    (∀ (bad : BitVec 64), Framed (.tempCal bad) l true) ∧
    (∀ (pllDev16 : Nat) (refDev16 : Nat) (monBad : BitVec 32), Framed (.monitor pllDev16 refDev16 monBad) l true) ∧
    (∀ (op : FlashOp), Framed (.flash op) l true) ∧
    (∀ (n : Nat), ∀ i ∈ ([.logout n, .telem n] :
      List Instr), Framed i l true) ∧
    (∀ (task : Fin 14), Framed (.sliceDefer task) l true) ∧
    (∀ (item : Fin 8) (unit : Fin 832) (value limit : Nat) (correctable discarded : Bool), Framed (.itemEnds item unit value limit correctable discarded) l true))

/-- A sideband command changes nothing but the board’s side, the power samples and its answer; CXL events and TAP instructions leave the named
parts. (20_host_links.md) -/
def Obligations.FrameOfLinks : Prop :=
  (let l : List Part := [.fresh, .boot, .pci, .time, .power, .hostBad, .pfw, .pfe, .cores, .phys, .crecs, .ended, .chans, .ports, .fab, .svc, .trust, .ans];
    (∀ (port : Fin 2) (partner : CxlPartner), Framed (.cxlLinkUp port partner) l false) ∧
    (∀ (port : Fin 2), Framed (.cxlLinkDown port) l false) ∧
    (∀ (port : Fin 2) (addr openClk : Nat), Framed (.cxlCompletionTimeout port addr openClk) l false) ∧
    (∀ (port : Fin 2) (addr : Nat) (poison : Bool), Framed (.cxlReadCompletion port addr poison) l false)) ∧
  (let l : List Part := [.fresh, .boot, .pci, .time, .mem, .host, .hostBad, .gal, .hbm, .units, .recs, .pfw, .pfe, .wings, .cores, .phys, .crecs, .ended,
      .chans, .cxl, .ports, .fab, .acct, .svc, .trust, .fns, .newel];
    (∀ (other : Option (BitVec 8)), Framed (.ident other) l false) ∧
    (∀ i ∈ ([.stateRead, .temp, .alerts, .bist] :
      List Instr), Framed i l false) ∧
    (∀ (mv ma : Nat), Framed (.power mv ma) l false) ∧
    (∀ (bytes : List Byte), Framed (.alertClr bytes) l false) ∧
    (∀ (write : Option (List Byte)), Framed (.bcap write) l false)) ∧
  (let l : List Part := [.fresh, .boot, .pci, .power, .mem, .host, .hostBad, .gal, .hbm, .units, .recs, .pfw, .pfe, .wings, .cores, .phys, .crecs, .ended,
      .chans, .cxl, .board, .ports, .fab, .acct, .svc, .fns, .newel, .ans];
    (∀ (clk : Clk), Framed (.tapTlrExit clk) l true)) ∧
  (let l : List Part := [.boot, .pci, .time, .power, .hostBad, .pfw, .pfe, .cores, .phys, .crecs, .ended, .chans, .svcBut, .fab];
    (∀ (code : BitVec 8), Framed (.bypass code) l false) ∧
    (∀ i ∈ ([.idcode, .clamp, .highz] :
      List Instr), Framed i l false) ∧
    (∀ (preload : Nat), Framed (.samplePreload preload) l false) ∧
    (∀ (drive : Nat), ∀ i ∈ ([.extest drive, .extestPulse drive, .extestTrain drive] :
      List Instr), Framed i l false)) ∧
  (let l : List Part := [.time, .power, .hostBad, .pfe, .cores, .phys, .crecs, .ended, .fab];
    (∀ (dr : BitVec 128), Framed (.dbgAccess dr) l false))

/-- Configuration accesses, function-level resets and the rows of the tread complete from every state and leave the named parts; a tread
boundary, and a row that carries one out, leaves PCI. (20_host_links.md, 02_time.md) -/
def Obligations.FrameOfHostAndTread : Prop :=
  (let l : List Part := [.fresh, .power, .hostBad, .pfw, .pfe, .cores, .phys, .crecs, .ended, .chans, .ports, .fab, .svc, .trust];
    (∀ (fn : Fn) (field : CfgField) (write : Option (BitVec 32)), Framed (.configRequest fn field write) l true) ∧
    (∀ (w : WingId) (clk : Clk), Framed (.vfFlr w clk) l true) ∧
    (∀ (numVFs : Nat) (enable : Bool) (clk : Clk), Framed (.vfEnableChange numVFs enable clk) l true) ∧
    (∀ i ∈ ([.pfD3hot, .pfD0Return] :
      List Instr), Framed i l true)) ∧
  (let l : List Part := [.fresh, .boot, .pci, .power, .hostBad, .pfw, .pfe, .phys, .svc, .trust, .ans];
    (∀ (w : WingId), Framed (.landingTreadSweep w) l true)) ∧
  (let l : List Part := [.pci, .hostBad, .ans];
    (∀ (env : BoundaryEnv), ∀ i ∈ ([.treadBoundary env, .lockAcquired env, .lockLost env, .parentLost env, .holdoverExpiry env, .acquireNoSource env] :
      List Instr), Framed i l false) ∧
    (∀ (core : CoreId) (env : BoundaryEnv), Framed (.entryAbandon core env) l false) ∧
    (∀ (w : WingId) (env : BoundaryEnv), ∀ i ∈ ([.flightDone w env, .landTimeout w env, .quiesceTimeout w env] :
      List Instr), Framed i l false) ∧
    (∀ (w : WingId) (xid : Fin 4096) (env : BoundaryEnv), Framed (.tretDeadline w xid env) l false) ∧
    (∀ (kind : Fin 5) (unit : Fin 832) (env : BoundaryEnv), Framed (.unitDiverge kind unit env) l false))

/-- From every state, POWER_ON without the thermal latch, an input below 40 V or below 46 V for more than 100 µs, above 60 V for more than 100
µs, and a sensor at 115 °C or the analogue trip while the rails are up complete with a cold reset: every register, memory and state anew,
flash and fuses as they were. An input below 40 V releases the thermal latch, an overvoltage opens the input switch, a trip sets the latch;
POWER_ON, which stands for the whole of power-on, samples the straps (log entry 79). Within the limits, and at POWER_ON under the latch,
nothing changes. (R456, R472, R479, R458, Table 21.2, Table 22.3) -/
def Obligations.ColdResets : Prop :=
  ∀ s : State,
    s.coldAfter s.coldReset ∧
    (∀ (sbAddr : Fin 4) (i3c : Bool), s.boot.tripped = false → exec (.powerOn sbAddr i3c) s
      = .next { s.coldReset with boot := { s.coldReset.boot with rails := true, switchOpen := false }
                                 board := { sbAddr := sbAddr.val, i3c := i3c } }) ∧
    (∀ (sbAddr : Fin 4) (i3c : Bool), s.boot.tripped = true → exec (.powerOn sbAddr i3c) s = .next s) ∧
    (∀ mv us : Nat, mv < 40000 → exec (.inputUndervoltage mv us) s
      = .next { s.coldReset with boot := { s.coldReset.boot with rails := false, tripped := false, switchOpen := false } }) ∧
    (∀ mv us : Nat, 40000 ≤ mv → mv < 46000 → 100 < us → exec (.inputUndervoltage mv us) s
      = .next { s.coldReset with boot := { s.coldReset.boot with rails := false } }) ∧
    (∀ mv us : Nat, 46000 ≤ mv ∨ (40000 ≤ mv ∧ us ≤ 100) → exec (.inputUndervoltage mv us) s = .next s) ∧
    (∀ mv us : Nat, 60000 < mv → 100 < us → exec (.inputOvervoltage mv us) s
      = .next { s.coldReset with boot := { s.coldReset.boot with rails := false, switchOpen := true } }) ∧
    (∀ mv us : Nat, mv ≤ 60000 ∨ us ≤ 100 → exec (.inputOvervoltage mv us) s = .next s) ∧
    (∀ (temp8 : Int) (analogue : Bool), s.boot.rails = true → (920 ≤ temp8 ∨ analogue = true) → exec (.thermalTrip temp8 analogue) s
      = .next { s.coldReset with boot := { s.coldReset.boot with rails := false, tripped := true } }) ∧
    (∀ (temp8 : Int) (analogue : Bool), (s.boot.rails = false ∨ (temp8 < 920 ∧ analogue = false)) → exec (.thermalTrip temp8 analogue) s = .next s)

/-- For 100 µs or more outside RESET, PERST_N or MOD_RST_N leaves the module in RESET with cause warm, that input held, dirty gallery lines
lost, retirement, core mapping, the board and flash as they were, and wings, functions and the PF’s registers anew; within RESET it only
holds the input; a shorter assertion either does the same or nothing (its choice is the spec’s, a free value here). (R457, Table 21.2, R466) -/
def Obligations.WarmReset : Prop :=
  ∀ (s : State) (perst : Bool),
    (s.boot.st ≠ 0 → ∃ t, exec (.resetInputAssert perst true) s = .next t ∧ t.boot.st = 0 ∧ t.boot.cause = 1
      ∧ (if perst then t.boot.perst else t.boot.modRst) = true ∧ t.boot.hbmInit = s.boot.hbmInit ∧ t.mem = s.galLose.mem ∧ t.gal.lines = []
      ∧ t.hbm.order = s.hbm.order ∧ t.hbm.gone = s.hbm.gone ∧ t.phys = s.phys ∧ t.board = s.board ∧ t.trust.fw = s.trust.fw
      ∧ t.trust.log = s.trust.log ∧ t.pfw = [] ∧ t.pfe = [] ∧ t.wings = [] ∧ t.cores = [] ∧ t.chans = [] ∧ t.fns = []
      ∧ t.newel.running = false ∧ t.newel.restarts = s.newel.restarts ∧ t.time = {}) ∧
    (∀ long, s.boot.st = 0 → exec (.resetInputAssert perst long) s
      = .next { s with boot := if perst then { s.boot with perst := true } else { s.boot with modRst := true } }) ∧
    (s.boot.st ≠ 0 → ∃ t, exec (.resetInputAssert perst false) s = .next t ∧
      (t = { s with fresh := s.fresh + 1 } ∨ exec (.resetInputAssert perst true) s = .next t))

/-- START_UP_BEGIN leaves RESET for BOOT_ROM once nothing holds the module; BOOT_ROM runs the first firmware copy that passes, else BOOT_FAIL;
MEMORY_INIT and STARTUP_SELFTEST lead to READY with the newel running and ACC_STATIC the mean input power of the last 2,500 treads measured.
(R457, R459, R461, R463, R464, Table 21.1) -/
def Obligations.StartUp : Prop :=
  ∀ s : State,
    (s.boot.st = 0 → s.boot.tripped = false → s.boot.switchOpen = false → ∃ t, exec .startUpBegin s = .next t ∧ t.boot.st = 1
      ∧ t.boot.rails = true ∧ t.boot.perst = false ∧ t.boot.modRst = false ∧ t.boot.startTread = s.time.tread) ∧
    (s.boot.st = 1 → s.boot.romKeyOk = true → ∀ bad : BitVec 4, ∃ t, exec (.bootRom bad) s = .next t ∧ t.power.measuring = true ∧
      match (fwOrder s.boot.active).find? fun k => t.fwPasses k with
      | some k => t.boot.st = 3 ∧ t.boot.slot = k / 2 ∧ t.boot.copy = k % 2
      | none => t.boot.st = 2 ∧ t.boot.failed = 15) ∧
    (s.boot.st = 1 → s.boot.romKeyOk = false → ∀ bad : BitVec 4, ∃ t, exec (.bootRom bad) s = .next t ∧ t.boot.st = 2 ∧ t.boot.failed = 15) ∧
    (s.boot.st = 3 → ∀ fail, ∃ t, exec (.memoryInit fail) s = .next t ∧ t.boot.st = 4 ∧ t.boot.hbmInit = true) ∧
    (s.boot.st = 4 → ∀ cores slices sensors monitors dev, ∃ t,
      exec (.startupSelftest cores slices sensors monitors dev) s = .next t ∧ t.boot.st = 5 ∧ t.newel.running = true
        ∧ t.acct.static = s.idlePower)

/-- After MEMORY_INIT every byte of core SRAM reads 0 with valid check bits, and after a cold reset, or where HBM has not been initialised since
one, so does every byte of HBM. (R463) -/
def Obligations.MemoryInitZeroes : Prop :=
  ∀ (s : State) (fail : List HbmCh), s.boot.st = 3 → ∃ t, exec (.memoryInit fail) s = .next t
    ∧ (∀ a < sramEnd, getCell t.mem.cells a = 0 ∧ ∀ e ∈ t.mem.errs, e.1 ≠ a / 4)
    ∧ (s.boot.cause = 0 ∨ s.boot.hbmInit = false → ∀ o < 384 * hbmGiB, getCell t.mem.cells (hbmBase + o) = 0 ∧ ∀ e ∈ t.mem.errs, e.1 ≠ (hbmBase + o) / 4)
    ∧ (s.boot.cause ≠ 0 → s.boot.hbmInit = true → ∀ a, sramEnd ≤ a → getCell t.mem.cells a = getCell s.mem.cells a)

/-- Before MEMORY a request gets Retry Status; the PF then answers the identification values of R441; NumVFs and VF Enable are kept, and each VF
that disappears is reset as by FLR at the first boundary that can land it; a D-state is kept. The capabilities are those of Table 20.2 and
no others; BAR0 is 64-bit and not prefetchable, of 32 MiB on the PF and 128 KiB for each VF, and every other BAR reads unimplemented. While
the TAP holds the pins the host link is down (R455). (R440, R441, R442, R443, R444, R455, R460, Table 20.2) -/
def Obligations.ConfigurationSpace : Prop :=
  ∀ s : State,
    (s.boot.st < 3 → s.time.phase < treadClk → ∀ fn f w, exec (.configRequest fn f w) s = .next { s with ans := { s.ans with cfg := none } }) ∧
    (3 ≤ s.boot.st → s.board.pinsTaken = false → s.time.phase < treadClk → ∀ f v, (f, v) ∈ [(CfgField.deviceId, 0x0940), (.vfDeviceId, 0x0941), (.revisionId, 0x10), (.classCode, 0x120000),
        (.totalVFs, 32), (.initialVFs, 32), (.firstVFOffset, 1), (.vfStride, 1)] →
      exec (.configRequest 0 f none) s = .next { s with ans := { s.ans with cfg := some v } }) ∧
    (3 ≤ s.boot.st → s.board.pinsTaken = false → s.time.phase < treadClk → ∀ (fn : Fn) (c : PciCap), s.fnExists fn.val = true →
      exec (.configRequest fn (.capability c) none) s = .next { s with ans := { s.ans with cfg := some (b2n (if fn.val = 0
        then [.pciExpress, .powerManagement, .msix, .aer, .sriov, .ari, .deviceSerial, .dataLinkFeature, .phys16, .phys32, .phys64, .phys128,
          .laneMargining].contains c
        else [PciCap.pciExpress, .msix, .aer, .flr].contains c)) } }) ∧
    (3 ≤ s.boot.st → s.board.pinsTaken = false → s.time.phase < treadClk →
      (∀ n : Fin 6, 2 ≤ n.val → exec (.configRequest 0 (.bar n) none) s = .next { s with ans := { s.ans with cfg := some 0 } }) ∧
      (∃ t, exec (.configRequest 0 (.bar 0) (some 0xFFFFFFFF)) s = .next t ∧ t.ans.cfg = some 0xFE000004) ∧
      (∃ t, exec (.configRequest 0 (.vfBar 0) (some 0xFFFFFFFF)) s = .next t ∧ t.ans.cfg = some 0xFFFE0004)) ∧
    (3 ≤ s.boot.st → s.board.pinsTaken = false → ∀ (n : Nat) (en : Bool) (clk : Clk), n ≤ 32 → ∃ t, exec (.vfEnableChange n en clk) s = .next t
      ∧ t.pci.numVFs = n ∧ t.pci.vfEnable = en
      ∧ ∀ w < 32, s.fnExists (w + 1) = true → t.fnExists (w + 1) = false → (w, s.nextEff clk.val) ∈ t.boot.flr) ∧
    (∀ (w : WingId) (clk : Clk), s.fnExists (w.val + 1) = true → s.board.pinsTaken = false → ∃ t, exec (.vfFlr w clk) s = .next t
      ∧ t.boot.flr = s.boot.flr ++ [(w.val, s.nextEff clk.val)] ∧ t.pci = s.pci) ∧
    (3 ≤ s.boot.st → s.board.pinsTaken = false → (∃ t, exec .pfD3hot s = .next t ∧ t.pci = { s.pci with d3hot := true }) ∧
      ∃ t, exec .pfD0Return s = .next t ∧ t.pci = { s.pci with d3hot := false })

/-- Outside RESET and with no step of R42 due, TREAD_BOUNDARY raises the tread number by one modulo 2^48 at clk 0; the queue and PCI stay. With
a step that is made, the number becomes n′; where rows come within its gap, TREAD_BOUNDARY begins the gap, with the number n′ at clk 0 and
nothing else done, and the next one ends it at that number. A step back waits while a flight is loaded. In RESET, and after a row that
carried the boundary out, nothing but the mark of that moves. (R32, R33, R35, R42, R43) -/
def Obligations.TreadAdvances : Prop :=
  ∀ (s : State) (e : BoundaryEnv),
    (s.time.crossed = true → exec (.treadBoundary e) s = .next { s with time := { s.time with crossed := false } }) ∧
    (s.time.crossed = false → s.boot.st = 0 → exec (.treadBoundary e) s = .next s) ∧
    (s.time.crossed = false → s.gapHere e = true → exec (.treadBoundary e) s = .next (s.keepBoundary s.enterGap)
      ∧ (s.keepBoundary s.enterGap).time.phase = 0 ∧ (s.keepBoundary s.enterGap).time.inGap = some s.time.tread) ∧
    (s.time.crossed = false → s.boot.st ≠ 0 → s.gapHere e = false → ∃ t, exec (.treadBoundary e) s = .next t ∧ t.pci = s.pci ∧
      (∀ n, s.time.inGap = some n → t.time.tread = s.time.tread) ∧
      (s.time.inGap = none → t.time.phase = 0) ∧
      (s.time.inGap = none → s.stepTarget = none → t.time.tread = treadAdd s.time.tread 1) ∧
      (∀ n d back, s.time.inGap = none → s.stepTarget = some (n, d, back) →
        t.time.tread = if (back && s.anyLoaded) = true then treadAdd s.time.tread 1 else n))

/-- A boundary that is not a device reset, whichever row it is carried out by, leaves what was written; what is in effect after it is what was
in effect before or, in READY, what was written, as a whole; but HAL_CFG keeps its value in effect while a hall port is not DOWN. (R15, R18,
R335) -/
def Obligations.HeldWritesLand : Prop :=
  ∀ (s : State) (e : BoundaryEnv) (core : CoreId) (w : WingId) (xid : Fin 4096) (kind : Fin 5) (unit : Fin 832),
    ∀ i ∈ ([.treadBoundary e, .lockAcquired e, .lockLost e, .parentLost e, .holdoverExpiry e, .acquireNoSource e, .entryAbandon core e,
      .flightDone w e, .landTimeout w e, .quiesceTimeout w e, .tretDeadline w xid e, .unitDiverge kind unit e] :
      List Instr), ∃ t, exec i s = .next t ∧
    (t.boot.st ≠ 6 → t.pfw = s.pfw ∧ (t.pfe = s.pfe ∨ s.boot.st = 5 ∧ t.pfe = (s.boundaryFirst e).landedPf)) ∧
    ∀ x : State, ((∀ p < 8, (x.port p).st = 0) → x.landedPf = x.pfw) ∧
      ((∃ p, p < 8 ∧ (x.port p).st ≠ 0) → ∃ v, x.landedPf = (match v with | some v => Tab.set x.pfw Reg.halCfg v | none => Tab.erase x.pfw Reg.halCfg)
        ∧ v = Tab.find x.pfe Reg.halCfg)

/-- When the counts that the coming boundary judges call for it, the row of the transition carries the boundary out: ACQUIRE becomes LOCKED
under the chosen parent, a lost offset returns LOCKED to ACQUIRE, a lost parent is replaced or leaves HOLDOVER, HOLDOVER ends in FREE after
500 treads, and ACQUIRE with no source for 16 treads ends in FREE. The lock state is as said unless a device reset is due at that boundary,
which begins hall time anew. A row whose transition is not due changes nothing. That a row carries out the whole boundary is the model’s
choice (log entry 35). (R35, R41, R37, R44, Table 2.4) -/
def Obligations.HallTimeMoves : Prop :=
  ∀ (s : State) (e : BoundaryEnv), s.time.crossed = false → s.boot.st ≠ 0 →
    let y := s.judged e
    let m := y.htEval
    let u := s.crossedBy e
    u.time.crossed = true ∧
    (∀ p, y.time.lock = 1 → m = .lock p → exec (.lockAcquired e) s = .next u ∧ (s.resetDue e = false →
      u.time.lock = 2 ∧ u.time.parent = p ∧ u.time.hops = min 63 ((y.time.lastMsg p).hops + 1) ∧ u.time.tread = y.time.tread)) ∧
    (∀ p l r, y.time.lock = 2 → y.time.parent ≠ 15 → m = .acquire p l r → exec (.lockLost e) s = .next u ∧ (s.resetDue e = false →
      u.time.lock = 1 ∧ u.time.parent = p ∧ u.time.stepMade = false ∧ u.time.tread = y.time.tread)) ∧
    (∀ p, y.time.lock = 2 → m = .lock p → exec (.parentLost e) s = .next u ∧ (s.resetDue e = false →
      u.time.lock = 2 ∧ u.time.parent = p ∧ u.time.tread = y.time.tread)) ∧
    (y.time.lock = 2 → m = .toHoldover → exec (.parentLost e) s = .next u ∧ (s.resetDue e = false →
      u.time.lock = 3 ∧ u.time.parent = 15 ∧ u.time.tread = y.time.tread)) ∧
    (y.time.lock = 3 → 500 ≤ y.time.hold → m = .toFree true → exec (.holdoverExpiry e) s = .next u ∧ (s.resetDue e = false →
      u.time.lock = 0 ∧ u.time.parent = 15 ∧ u.time.hops = 63 ∧ u.time.tread = y.time.tread)) ∧
    (y.time.lock = 1 → 16 ≤ y.time.noSrc → m = .toFree false → exec (.acquireNoSource e) s = .next u ∧ (s.resetDue e = false →
      u.time.lock = 0 ∧ u.time.parent = 15 ∧ u.time.hops = 63 ∧ u.time.tread = y.time.tread)) ∧
    (m = .stay → ∀ i ∈ ([.lockAcquired e, .lockLost e, .parentLost e, .holdoverExpiry e, .acquireNoSource e] : List Instr),
      exec i s = .next s)

/-- On a port that carries markers, a marker’s fields, its reception phase in 1/8 clk and the tread are kept, and the other ports’ stay; on
another port, and while the TAP holds the pins, it changes nothing. (R36, R37, R38, Table 2.3) -/
def Obligations.MarkerIsKept : Prop :=
  ∀ (s : State) (p : PortId) (m : MarkerMsg) (clk : Clk) (eighth : Fin 8),
    (s.marksOn p.val = true → s.board.pinsTaken = false → ∃ t, exec (.marker p m clk eighth) s = .next t ∧ (t.time.mark p.val).msg = some m
      ∧ (t.time.mark p.val).got = true ∧ (t.time.mark p.val).rx8 = (if s.time.inGap.isSome then 0 else 8 * clk.val + eighth.val) ∧ (t.time.mark p.val).rxTread = s.time.tread
      ∧ (t.time.mark p.val).good = (s.time.mark p.val).good ∧ ∀ q ≠ p.val, t.time.mark q = s.time.mark q) ∧
    ((s.marksOn p.val = false ∨ s.board.pinsTaken = true) → s.time.phase < treadClk → exec (.marker p m clk eighth) s = .next s)

/-- Where the action that it names is due at the coming boundary, ENTRY_ABANDON, FLIGHT_DONE, LAND_TIMEOUT, QUIESCE_TIMEOUT, TRET_DEADLINE and
UNIT_DIVERGE carry that boundary out with every action of Table 2.2 in its order, and the TREAD_BOUNDARY after them is that same boundary;
where it is not due, or the boundary has been carried out, they change nothing. The actions themselves: work in its 16th boundary is taken
off its core, a flight with no command outstanding is DONE when its last cycle ends, a turn past its window ends with LAND_TIMEOUT and no
landing, a late quiesce ends with QUIESCE_LATE, a TRET round past its deadline leaves OPEN, and a unit that still differs is reported.
LANDING_TREAD_SWEEP asks for every block neither landed, failed nor requested in the landing tread. That a row stands for the whole boundary
is the model’s choice (log entry 35). (R35, R52, R55, R264, R294, R292, R349, R352, R380) -/
def Obligations.TreadRows : Prop :=
  ∀ (s : State) (e : BoundaryEnv) (core : CoreId) (w : WingId) (xid : Fin 4096) (kind : Fin 5) (unit : Fin 832),
    (s.time.crossed = false → s.boot.st ≠ 0 →
      (s.crossedBy e).time.crossed = true ∧
      (s.abandonDue e core.val = true → exec (.entryAbandon core e) s = .next (s.crossedBy e)) ∧
      (s.flightDue e w.val = true → exec (.flightDone w e) s = .next (s.crossedBy e)) ∧
      (s.landDue e w.val = true → exec (.landTimeout w e) s = .next (s.crossedBy e)) ∧
      (s.quiesceDue e w.val = true → exec (.quiesceTimeout w e) s = .next (s.crossedBy e)) ∧
      (s.tretDue e w.val xid.val = true → exec (.tretDeadline w xid e) s = .next (s.crossedBy e)) ∧
      (s.divergeDue e (unitKey kind.val unit.val) = true → exec (.unitDiverge kind unit e) s = .next (s.crossedBy e))) ∧
    ((s.abandonDue e core.val = false ∨ s.time.crossed = true) → exec (.entryAbandon core e) s = .next s) ∧
    ((s.flightDue e w.val = false ∨ s.time.crossed = true) → exec (.flightDone w e) s = .next s) ∧
    ((s.landDue e w.val = false ∨ s.time.crossed = true) → exec (.landTimeout w e) s = .next s) ∧
    ((s.quiesceDue e w.val = false ∨ s.time.crossed = true) → exec (.quiesceTimeout w e) s = .next s) ∧
    ((s.tretDue e w.val xid.val = false ∨ s.time.crossed = true) → exec (.tretDeadline w xid e) s = .next s) ∧
    ((s.divergeDue e (unitKey kind.val unit.val) = false ∨ s.time.crossed = true) → exec (.unitDiverge kind unit e) s = .next s) ∧
    (∀ (r : Run) (g : Bool), (((s.boundary3 e).boundary4 s.ending).core core.val).run g = some r → 16 ≤ r.late → s.abandonDue e core.val = true) ∧
    (∀ (x : State) (r : Run) (g : Bool), (x.core core.val).run g = some r → 16 ≤ r.late → x.ageRun core.val g = x.abandon core.val g
      ∧ ((x.abandon core.val g).core core.val).run g = none) ∧
    (((((s.boundary3 e).boundary4 s.ending).job w.val).fl.cycle ((s.boundary3 e).boundary4 s.ending).tread).2.2 = true → s.flightDue e w.val = true) ∧
    (∀ x : State, ((x.job w.val).fl.cycle x.tread).2.2 = true → x.flightCmd w.val = none → ((x.flightAction w.val).job w.val).fl.fstate = 3) ∧
    (∀ (x : State) (l : Land), (x.job w.val).turn.land = some l → (x.job w.val).turn.failed = [] → treadReached (treadAdd l.t l.h) x.tread = true →
      x.turnStep w.val = .timeout ∧ x.turnAction w.val .timeout = x.turnEnd w.val St.landTimeout) ∧
    (∀ (x : State) (c : Cmd), x.isDue c = true → c.prog ≠ 0 → treadReached (treadAdd c.eff (c.arg 0)) x.tread = true →
      x.quiesceStep c = (x.quiesceEnd c.wing true).finish c St.quiesceLate []) ∧
    (∀ (x : State) (y : XchEnt), x.xchEnt w.val xid.val 2 = some y → y.state = 1 → treadReached y.deadline x.tread = true →
      x.tretClose w.val xid.val = (x.xchSee w.val xid.val).xchState w.val xid.val 2 y.round) ∧
    (s.divergeDue e (unitKey kind.val unit.val) = true →
      (((s.boundaryFirst e).action2a s.ending).unit (unitKey kind.val unit.val)).told = true) ∧
    (∀ l : Land, (s.job w.val).turn.land = some l → l.t = s.time.tread →
      exec (.landingTreadSweep w) s = .next (s.keepTread ((s.myCopies w.val (s.pendEnts w.val)).foldl (fun s x =>
        (upFrom 0 x.2.1.nb).foldl (fun s b => if s.turnBit w.val (x.2.2 + b) then s else s.wantRaw w.val (x.2.2 + b) x.1 b none) s)
        ((s.at_ 32).fetchIn w.val (s.turnMap w.val) (mapBytes (s.job w.val).turn.expect)))))

/-- When the entry at the head of a function’s ring passes the checks of R368 and the command’s own, a command whose effect falls at a later
boundary is outstanding after its row, behind the earlier ones; but for the head, and the fetch of the row or entry that it names, nothing
changes: no completion, no wing, no table. (R365, R366, R368, R373, R187, R211, R297, R349, R374) -/
def Obligations.CommandsBecomeOutstanding : Prop :=
  let row (q : State) (c : Cmd) : State := q.seqFetch c.wing (bits (c.arg 0) 0 14)
  let adp (q : State) (c : Cmd) : State := q.adpFetch c.wing (c.arg 0)
  let pfx (q : State) (c : Cmd) : State := q.pfxFetch c.wing (c.arg 0)
  ∀ (s q : State) (fn : Fn) (clk : Clk) (c : Cmd), ∀ x ∈ ([
      (.flightSwitch fn clk, spcFlightSwitch, q, (q.job c.wing).fl.pend.isSome = true ∧ q.flightCmd c.wing = none
        ∧ (c.arg 0 = 0 → treadReached (treadAdd c.at_ 2) (c.arg 1) = true)),
      (.flightStop fn clk, spcFlightStop, q, (q.job c.wing).fl.active.isSome = true ∧ q.flightCmd c.wing = none),
      (.flightUnload fn clk, spcFlightUnload, q, q.flightCmd c.wing = none),
      (.seqCancel fn clk, spcSeqCancel, q, bits (c.arg 0) 0 14 < q.seqCount c.wing),
      (.seqPark fn clk, spcSeqPark, row q c, bits (c.arg 0) 0 14 < (row q c).seqCount c.wing
        ∧ rwState ((row q c).rowBytes c.wing (bits (c.arg 0) 0 14)) = 1),
      (.seqResume fn clk, spcSeqResume, row q c, bits (c.arg 0) 0 14 < (row q c).seqCount c.wing
        ∧ rwState ((row q c).rowBytes c.wing (bits (c.arg 0) 0 14)) = 2),
      (.adapterDrop fn clk, spcAdapterDrop, adp q c, c.arg 0 < (adp q c).adpCount c.wing ∧ adpState ((adp q c).adpEnt c.wing (c.arg 0)) = 1
        ∧ adpPins ((adp q c).adpEnt c.wing (c.arg 0)) = 0 ∧ adpOldPins ((adp q c).adpEnt c.wing (c.arg 0)) = 0),
      (.prefixDrop fn clk, spcPrefixDrop, pfx q c, c.arg 0 < (pfx q c).pfxCount c.wing ∧ (pfx q c).pfxState c.wing (c.arg 0) ≠ 0
        ∧ (pfx q c).pfxState c.wing (c.arg 0) ≠ 1),
      (.turnAbort fn clk, spcTurnAbort, q, (q.job c.wing).turn.pend.isSome = true),
      (.ctxSwitch fn clk, spcCtxSwitch, q, c.arg 1 ≠ 0),
      (.ctxSet fn clk, spcCtxSet, q, q.ctxAllows c.wing (bits (c.arg 0) 0 3) (bits (c.arg 0) 8 3) = true),
      (.semAcquire fn clk, spcSemAcquire, q, Tab.find (q.wing c.wing).sems (bits (c.arg 0) 8 5) ≠ some (bits (c.arg 0) 0 3)),
      (.semRelease fn clk, spcSemRelease, q, Tab.find (q.wing c.wing).sems (bits (c.arg 0) 8 5) = some (bits (c.arg 0) 0 3)),
      (.wingQuiesce fn clk, spcWingQuiesce, q, c.arg 0 ≠ 0),
      (.wingReset fn clk, spcWingReset, q, True),
      (.deviceReset fn clk, spcDeviceReset, q, True)] :
        List (Instr × CmdSpec × State × Prop)),
    s.taken fn clk x.2.1 = some (q, c) → x.2.2.2 → ∃ t, exec x.1 s = .next t ∧ x.2.2.1.holding t c

/-- HBM_RETIRE, REPAIR_FUSE, ACC_SNAPSHOT, FW_STAGE, ATTEST and each item of SELFTEST_RUN that pass their checks are outstanding after their
row, and nothing else but the head changes. (R365, R368, R406, R417, R425, R436) -/
def Obligations.ServiceCommandsBecomeOutstanding : Prop :=
  ∀ (s q : State) (fn : Fn) (clk : Clk) (c : Cmd),
    (∀ x ∈ ([
      (.hbmRetire fn clk, spcHbmRetire, q.retireCheck c = none),
      (.repairFuse fn clk, spcRepairFuse, bits (c.arg 0) 0 16 = 0xFFFF ∨ ∃ r, q.svc.repairs[bits (c.arg 0) 0 16]? = some r ∧ r.kind ≠ 3),
      (.accSnapshot fn clk, spcAccSnapshot, c.arg 0 % 64 = 0 ∧ 256 ≤ c.arg 1),
      (.fwStage fn clk, spcFwStage, c.arg 1 ≠ 0 ∧ c.arg 1 ≤ 16777216),
      (.attest fn clk, spcAttest, (c.fn = 0 ∨ bit (c.arg 6) 0 = false ∧ bit (c.arg 6) 1 = false) ∧ c.arg 4 % 64 = 0
        ∧ 50368 + (if bit (c.arg 6) 2 = true then 29920 else 0) ≤ c.arg 5)] :
        List (Instr × CmdSpec × Prop)),
      s.taken fn clk x.2.1 = some (q, c) → x.2.2 → ∃ t, exec x.1 s = .next t ∧ q.holding t c) ∧
    (∀ x ∈ ([(.pll fn clk, 0), (.vmon fn clk, 1), (.tsense fn clk, 2), (.nearLb fn clk, 3), (.farLb fn clk, 4), (.lbServe fn clk, 5), (.cxlLb fn clk, 6), (.coreScan fn clk, 7)] :
        List (Instr × Nat)),
      s.taken fn clk spcSelfTest = some (q, c) → bits (c.arg 0) 0 4 = x.2 → c.arg 1 ≠ 0 → c.arg 1 ≤ 10000 →
      q.itemUnitOk x.2 (bits (c.arg 0) 4 10) = true →
      (∀ d ∈ q.outOp 0x706, itemClass (bits (d.arg 0) 0 4) = itemClass x.2 → bits (d.arg 0) 4 10 ≠ bits (c.arg 0) 4 10) →
      ∃ t, exec x.1 s = .next t ∧ q.holding t c)

/-- SEQ_ADMIT, SEQ_FORK, EPOCH_FLIP, ADAPTER_LOAD, PREFIX_REGISTER, TURN_LAND, GUEST_LOAD, UNIT_SET, CORE_SPARE, MODEL_LOAD and IMAGE_WRITE that
pass their checks are outstanding after their row, which fetches the tables that it judges, with what they stage: the flip pending, the
landing named, the guest flight held, the intent acknowledged, the spare chosen, the load begun, the image entered; a signature that no key
verifies ends the last two with nothing begun. (R172, R204, R219, R222, R227, R294, R341, R380, R395, R433) -/
def Obligations.CommandsStageTheirEffect : Prop :=
  ∀ (s q : State) (fn : Fn) (clk : Clk) (c : Cmd),
    (∀ q0, s.taken fn clk spcSeqAdmit = some (q0, c) →
      let r0 := q0.seqFetch c.wing (bits (c.arg 0) 0 14)
      let r1 := if bit (c.arg 0) 48 then r0.pfxFetch c.wing (bits (c.arg 0) 32 16) else r0
      let q := if rwNoadapt c.rowArg then r1 else r1.adpFetch c.wing (rwAdapter c.rowArg)
      let slot := bits (c.arg 0) 0 14
      let h := bits (c.arg 0) 32 16
      let named := bit (c.arg 0) 48
      let pfx := if named && h < q.pfxCount c.wing && q.pfxState c.wing h = 2 then q.pfxLen c.wing h else 0
      let row := q.newRow c.wing c.rowArg (pfx + bits (c.arg 1) 0 21) pfx pfx (if named then some h else none)
      (named = true → h < q.pfxCount c.wing ∧ q.pfxState c.wing h = 2 ∧ q.pfxEpoch c.wing h = (q.job c.wing).vr.wep) →
      q.rowRefusal c.wing slot c.rowArg (pfx + bits (c.arg 1) 0 21) (bits (c.arg 1) 0 21) = none →
      let share := (upFrom 0 (pfx / 16)).map (q.pfxPage c.wing h)
      let f := share.foldl (fun s i => s.pgFetch c.wing i) q
      (∀ i ∈ share, f.pgRefs c.wing i < 65535) → f.canStage c.wing slot = true →
      f.kvReserve c.wing + (backing row - pfx / 16) ≤ (f.freePages c.wing).length →
      ∃ t, exec (.seqAdmit fn clk) s = .next t ∧ c ∈ t.newel.out) ∧
    (∀ q0, s.taken fn clk spcSeqFork = some (q0, c) →
      let r0 := (q0.seqFetch c.wing (bits (c.arg 0) 0 14)).seqFetch c.wing (bits (c.arg 0) 16 14)
      let q := if rwNoadapt c.rowArg then r0 else r0.adpFetch c.wing (rwAdapter c.rowArg)
      let src := bits (c.arg 0) 0 14
      let flen := bits (c.arg 0) 32 21
      let from_ := q.rowBytes c.wing src
      let p := q.ptRow c.wing src
      let row := q.newRow c.wing c.rowArg flen (flen - 1) (rwPfx from_) (if p.pfxv then some p.pfxh else none)
      src < q.seqCount c.wing → (rwState from_ = 1 ∨ rwState from_ = 2 ∧ p.place = 0) →
      0 < flen → rwPfx from_ ≤ flen - 1 → flen - 1 ≤ rwPos from_ →
      q.rowRefusal c.wing (bits (c.arg 0) 16 14) c.rowArg flen (flen - rwPfx from_) = none →
      let share := (upFrom 0 ((flen - 1) / 16)).map fun x => (q.entOf c.wing src p.sel x).2
      let f := share.foldl (fun s i => s.pgFetch c.wing i)
        (q.fetchIn c.wing (q.ptEnt c.wing src p.sel 0) (4 * (share.length + b2n (decide ((flen - 1) % 16 ≠ 0)))))
      (∀ i ∈ share, f.pgRefs c.wing i < 65535) → f.canStage c.wing (bits (c.arg 0) 16 14) = true →
      f.kvReserve c.wing + (backing row - (flen - 1) / 16) ≤ (f.freePages c.wing).length →
      ∃ t, exec (.seqFork fn clk) s = .next t ∧ c ∈ t.newel.out) ∧
    (s.taken fn clk spcEpochFlip = some (q, c) → (q.wing c.wing).load.bad = false → q.flipRefusal c.wing (c.arg 0) = none →
      ∃ t, exec (.epochFlip fn clk) s = .next t ∧ t.newel.out = q.newel.out ++ [c]
        ∧ (t.job c.wing).vr.pend = some ⟨c.arg 0, if bit (c.arg 1) 0 then some (c.arg 2) else none, c.eff, some c.cid⟩
        ∧ (t.job c.wing).vr.wep = (q.job c.wing).vr.wep ∧ (t.job c.wing).vr.bank = (q.job c.wing).vr.bank) ∧
    (∀ f q0, s.taken fn clk spcAdapterLoad = some (q0, c) →
      let q := (q0.adpFetch c.wing (bits (c.arg 0) 0 12)).fetchIn c.wing (c.arg 1) (32 * min (c.arg 2) 4096)
      bits (c.arg 0) 0 12 < q.adpCount c.wing →
      (bits (c.arg 0) 16 5 = 2 ∨ bits (c.arg 0) 16 5 = 16) → fmtInfo (bits (c.arg 0) 16 5) = some f →
      1 ≤ bits (c.arg 0) 32 9 → bits (c.arg 0) 32 9 ≤ q.rmax c.wing → 1 ≤ c.arg 2 → c.arg 2 ≤ 4096 → c.arg 3 % 2 ^ 31 < 0x7F800000 →
      adpOldv (q.adpEnt c.wing (bits (c.arg 0) 0 12)) = false →
      q.mappedIn c.wing (q.bankNow c.wing) [1] (c.arg 1) (32 * c.arg 2) = true →
      (∀ i ∈ upFrom 0 (c.arg 2), q.siteOk c.wing f (bits (c.arg 0) 32 9) (c.arg 1 + 32 * i) = true) →
      ∃ t, exec (.adapterLoad fn clk) s = .next t ∧ q.holding t c) ∧
    (∀ q0, s.taken fn clk spcPrefixRegister = some (q0, c) →
      let w := c.wing
      let h := bits (c.arg 0) 0 16
      let src := bits (c.arg 0) 16 14
      let q := (q0.pfxFetch w h).seqFetch w src
      let plen := bits (c.arg 0) 32 13
      h < q.pfxCount w → 1 ≤ plen → plen ≤ 4096 → src < q.seqCount w → q.pfxState w h = 0 →
      (rwState (q.rowBytes w src) = 1 ∨ rwState (q.rowBytes w src) = 2 ∧ (q.ptRow w src).place = 0) → plen ≤ rwPos (q.rowBytes w src) →
      rwNoadapt (q.rowBytes w src) = true → rwPfx (q.rowBytes w src) = 0 →
      let share := (upFrom 0 (plen / 16)).map fun x => (q.entOf w src (q.ptRow w src).sel x).2
      let f := share.foldl (fun s i => s.pgFetch w i) (q.fetchIn w (q.ptEnt w src (q.ptRow w src).sel 0) (4 * ((plen + 15) / 16)))
      (∀ i ∈ share, f.pgRefs w i < 65535) → (plen % 16 ≠ 0 → f.kvReserve w + 1 ≤ (f.freePages w).length) →
      ∃ t, exec (.prefixRegister fn clk) s = .next t ∧ c ∈ t.newel.out) ∧
    (s.taken fn clk spcTurnLand = some (q, c) → (q.job c.wing).turn.pend.isSome = true → (q.job c.wing).turn.land = none →
      treadReached (treadAdd c.at_ 2) (c.arg 0) = true → bits (c.arg 1) 16 2 ≠ 3 → bits (c.arg 1) 0 16 ≠ 0 →
      (q.seqCount c.wing = 0 ∨ q.mappedIn c.wing (q.bankNow c.wing) [1] (addrOf (q.wr c.wing Reg.wngTurnSnap) 6)
        (16 + 4 * q.seqCount c.wing) = true) →
      (bit (c.arg 1) 32 = true → (q.wing c.wing).load.bad = false ∧ q.flipRefusal c.wing (c.arg 2) = none) →
      ∃ t, exec (.turnLand fn clk) s = .next t ∧ t.newel.out = q.newel.out ++ [c]
        ∧ (t.job c.wing).turn.land = some ⟨c.arg 0, bits (c.arg 1) 0 16, bit (c.arg 1) 32, c.arg 2, bits (c.arg 1) 16 2, c.cid⟩
        ∧ (t.job c.wing).turn.failed = []) ∧
    (∀ f, s.taken fn clk spcGuestLoad = some (q, c) → c.arg 1 % 64 = 0 → q.lends (bits (c.arg 0) 0 5) c.wing = true →
      q.validate c.wing (c.arg 1) (some (bits (c.arg 0) 0 5)) = .inr f →
      let r := q.flightFetch c.wing (c.arg 1)
      ∃ t, exec (.guestLoad fn clk) s = .next t ∧ t.newel.out = r.newel.out ++ [c]
        ∧ (t.wing c.wing).guestNext = (r.wing c.wing).guestNext ++ [⟨bits (c.arg 0) 0 5, f⟩]
        ∧ (t.wing c.wing).guests = (r.wing c.wing).guests) ∧
    (s.taken fn clk spcUnitSet = some (q, c) →
      let k := unitKey (bits (c.arg 0) 0 4) (bits (c.arg 0) 4 10)
      let st := bits (c.arg 1) 0 8
      bits (c.arg 0) 4 10 < unitCount (bits (c.arg 0) 0 4) → bits (c.arg 0) 0 4 ≠ 1 → bits (c.arg 0) 0 4 ≠ 2 → (st = 0 ∨ st = 4) →
      (bits (c.arg 0) 0 4 = 0 → ∀ l, q.logicalOf (bits (c.arg 0) 4 10) = some l → q.coreWing l = none) →
      (q.unit k).ackd = false → (∀ d ∈ q.outOp 0x701, bits (d.arg 0) 0 14 ≠ bits (c.arg 0) 0 14) → (st = 0 → (q.unit k).hw ≠ 1) →
      ∃ t, exec (.unitSet fn clk) s = .next t ∧ t.newel.out = q.newel.out ++ [c] ∧ (t.unit k).want = st ∧ (t.unit k).ackd = true
        ∧ (t.unit k).hw = (q.unit k).hw ∧ (t.unit k).epoch = (q.unit k).epoch) ∧
    (∀ p ps, s.taken fn clk spcCoreSpare = some (q, c) → bits (c.arg 0) 0 10 ≤ 799 → treadReached q.time.tread (c.arg 1) = true →
      128 ≤ treadDiff q.time.tread (c.arg 1) → (∀ r ∈ q.svc.repl, r.core ≠ bits (c.arg 0) 0 10) →
      q.sparesOf (bits (c.arg 0) 0 10) = p :: ps →
      ∃ t, exec (.coreSpare fn clk) s = .next t ∧ t.newel.out = q.newel.out ++ [c]
        ∧ t.svc.repl = q.svc.repl ++ [⟨c.cid, bits (c.arg 0) 0 10, p, c.arg 1, 0, false⟩]) ∧
    (∀ im, s.taken fn clk spcModelLoad = some (q, c) → q.findImage (c.arg 0) = some im → c.arg 1 % 64 = 0 → q.outOf 0x800 c.wing = [] →
      (bit (c.arg 2) 0 = false → c.arg 3 = 0) → (bit (c.arg 2) 0 = true → q.flipRefusal c.wing (c.arg 3) = none) →
      q.tableIn c.wing (c.arg 1) im.destSize = true → q.barred c.wing (c.arg 1) im.destSize = false →
      ∃ t, exec (.modelLoad fn clk) s = .next t ∧
        if q.sigGood (bits (q.pr c.wing Reg.wngKeys) 0 8) im.keyHash im.manifest im.sig = true then
          t.newel.out = q.newel.out ++ [c] ∧ (t.wing c.wing).load.st = 1
            ∧ (t.wing c.wing).load.done = 0 ∧ (t.wing c.wing).load.image = im.id ∧ (t.wing c.wing).load.base = c.arg 1
            ∧ (t.wing c.wing).load.queues = shardQueues im.shards.length
        else t.newel.out = q.newel.out ∧ (t.wing c.wing).load = (q.wing c.wing).load ∧ t.mem = q.mem) ∧
    (∀ b, s.taken fn clk spcImageWrite = some (q, c) →
      let n := fieldN b 4 4
      let m := b.take (256 + 96 * n)
      (q.hostRead c.fn (c.arg 0) 256).map (fun x => x.map (·.1)) = some (b.take 256) → n ≤ 65536 → b.length = 256 + 96 * n + 29792 →
      (q.hostRead c.fn (c.arg 0) (256 + 96 * n + 29792)).map (fun x => x.map (·.1)) = some b → c.arg 0 % 4096 = 0 →
      c.arg 1 = fieldN m 16 8 → manifestOk m = true → (∀ x ∈ q.trust.images, x.id ≠ fieldN m 8 8) →
      ∃ t, exec (.imageWrite fn clk) s = .next t ∧
        if q.sigGood 255 (sliceB m 40 16) m (sliceB b (256 + 96 * n) 29792) = true then
          t.newel.out = q.newel.out ++ [c]
            ∧ ∃ im, t.trust.images = q.trust.images ++ [im] ∧ im.id = fieldN m 8 8 ∧ im.cid = some c.cid ∧ im.manifest = m
        else t.newel.out = q.newel.out ∧ t.trust = q.trust)

/-- NOP, IDENTIFY, CFG_LOAD, FLIGHT_LOAD, UNIT_QUERY, REPAIR_LIST, IMAGE_ERASE and IMAGE_LIST that pass the checks of R368 and their own
complete at acceptance with status OK and their results: the state past the head, with their effect and that completion, is the next state.
Where the completion ring’s slot can be written, the 128 bytes of the completion stand in it and the ring’s tail has moved on. (R364, R369,
R372, R373, R380, R417, R435, R389, Table 16.2, Table 16.5) -/
def Obligations.CommandsCompleteAtOnce : Prop :=
  ∀ (s q : State) (fn : Fn) (clk : Clk) (c : Cmd),
    (s.taken fn clk spcNop = some (q, c) → exec (.nop fn clk) s = .next (s.keepLoad (q.complete c St.ok 0 []))) ∧
    (s.taken fn clk spcIdentify = some (q, c) → exec (.identify fn clk) s
      = .next (s.keepLoad (q.complete c St.ok 0 [1 + 0x10 * 2 ^ 16 + q.boot.slot * 2 ^ 24, q.fwVersion q.boot.slot, q.newel.restarts]))) ∧
    (s.taken fn clk spcCfgLoad = some (q, c) →
      let n := bits (c.arg 1) 0 13
      let lo := if q.loaded c.wing then (q.job c.wing).cfgCount else 0
      let r := q.fetchIn c.wing (c.arg 0 + 64 * lo) (64 * (n - lo))
      c.arg 0 % 64 = 0 → 1 ≤ n → n ≤ 4096 →
      (q.loaded c.wing = true → c.arg 0 = (q.job c.wing).cfgBase ∧ (q.job c.wing).cfgCount ≤ n) → q.tableIn c.wing (c.arg 0) (64 * n) = true →
      r.wordsBad c.wing (c.arg 0) lo (n - lo) = none →
      exec (.cfgLoad fn clk) s
          = .next (s.keepLoad ((r.modJob c.wing fun j => { j with cfgBase := c.arg 0, cfgCount := n }).complete c St.ok 0 [n])) ∧
        ∃ t, exec (.cfgLoad fn clk) s = .next t ∧ (t.job c.wing).cfgBase = c.arg 0 ∧ (t.job c.wing).cfgCount = n) ∧
    (∀ f, s.taken fn clk spcFlightLoad = some (q, c) → c.arg 0 % 64 = 0 → q.flightCmd c.wing = none →
      q.validate c.wing (c.arg 0) none = .inr f →
      exec (.flightLoad fn clk) s = .next (s.keepLoad (((q.flightFetch c.wing (c.arg 0)).setFl c.wing
          ({ (q.job c.wing).fl with pend := some f }).settle).complete c St.ok 0 [f.id])) ∧
        ∃ t, exec (.flightLoad fn clk) s = .next t ∧ (t.job c.wing).fl.pend = some f ∧ (t.job c.wing).fl.active = (q.job c.wing).fl.active) ∧
    (s.taken fn clk spcUnitQuery = some (q, c) → c.fn = 0 → bits (c.arg 0) 4 10 < unitCount (bits (c.arg 0) 0 4) →
      let u := q.unit (unitKey (bits (c.arg 0) 0 4) (bits (c.arg 0) 4 10))
      exec (.unitQuery fn clk) s = .next (s.keepService (q.complete c St.ok 0 [u.hw + u.want * 256 + b2n (u.hw ≠ u.want) * 2 ^ 16
        + u.epoch * 2 ^ 32, u.since.getD 0, if 3 ≤ bits (c.arg 0) 0 4 then 0 else sat 32 u.ce + sat 32 u.ue * 2 ^ 32]))) ∧
    (s.taken fn clk spcRepairList = some (q, c) →
      exec (.repairList fn clk) s = .next (s.keepService ((q.hostWrite c.fn (c.arg 0) (clean ((q.svc.repairs.take
        (min q.svc.repairs.length (c.arg 1 / 16))).flatMap (·.bytes)))).complete c St.ok 0 [q.svc.repairs.length]))) ∧
    (s.taken fn clk spcImageErase = some (q, c) → (q.findImage (c.arg 0)).isSome = true → (∀ d ∈ q.outOp 0x800, d.arg 0 ≠ c.arg 0) →
      let r : State := { q with trust := { q.trust with images := q.trust.images.filter fun x => x.id ≠ c.arg 0 } }
      exec (.imageErase fn clk) s
          = .next (s.keepTrust ((r.logEntry 6 none 0 (leBytes 8 (c.arg 0) ++ leBytes 1 1)).complete c St.ok 0 [])) ∧
        ∃ t, exec (.imageErase fn clk) s = .next t ∧ ∀ x ∈ t.trust.images, x.id ≠ c.arg 0) ∧
    (s.taken fn clk spcImageList = some (q, c) → c.arg 0 % 64 = 0 →
      let vis := q.trust.images.filter fun x => x.cid.isNone
        && (c.fn = 0 || !(q.keysFor (bits (q.pr (c.fn - 1) Reg.wngKeys) 0 8) x.keyHash).isEmpty)
      let n := min vis.length (c.arg 1 / 32)
      let ent (x : Image) : List Byte := leBytes 8 x.id ++ leBytes 8 x.total ++ sliceB x.keyHash 0 8 ++ leBytes 8 (x.written * 65536)
      exec (.imageList fn clk) s = .next (s.keepTrust ((q.hostWrite c.fn (c.arg 0) (clean ((vis.take n).flatMap ent))).complete c St.ok 0
        [vis.length, n, (q.hostWrite c.fn (c.arg 0) (clean ((vis.take n).flatMap ent))).freeImage]))) ∧
    (∀ (r : State) (l : List Nat), r.host.wf = true → r.newel.running = true → r.cplWritable c.fn = true →
      r.completed (r.complete c St.ok 0 l) c St.ok l)

/-- An accepted LAYOUT_LOAD clears the turn map and completes with EXPECT, the layout pending; FW_ACTIVATE with a staged image is outstanding,
stops the newel and raises the reset alert. (R282, R400, R401, R381) -/
def Obligations.LayoutLoadAndFirmware : Prop :=
  ∀ (s q : State) (fn : Fn) (clk : Clk) (c : Cmd),
    (s.taken fn clk spcLayoutLoad = some (q, c) →
      let w := c.wing
      let n := bits (q.peekN w (c.arg 0 + 4) 4) 0 17
      let r := (q.fetchIn w (c.arg 0) 64).fetchIn w (c.arg 0 + 64) (32 * n)
      let ex := r.expectOf w (r.layEnts w (c.arg 0) n)
      (q.job w).turn.pend = none → q.mappedIn w (q.bankNow w) [1] (c.arg 0) 64 = true →
      r.peekN w (c.arg 0) 4 = ((q.job w).turn.lep + 1) % 2 ^ 32 → r.mappedIn w (r.bankNow w) [1] (c.arg 0) (64 + 32 * n) = true →
      (ex ≠ 0 → r.mappedIn w (r.bankNow w) [1] (r.turnMap w) (mapBytes ex) = true) → r.layFail w (c.arg 0) n = none →
      exec (.layoutLoad fn clk) s = .next (s.keepCommand (((r.modTurn w fun t => { t with pend := some (c.arg 0, n), expect := ex % 2 ^ 32
                                                                                          landed := 0, failed := [], dup := 0, stale := 0
                                                                                          pzn := 0, rawreq := 0, raws := []
                                                                                          checks := [] }).mapClear w).complete c St.ok 0
        [ex % 2 ^ 32]))) ∧
    (s.taken fn clk spcFwActivate = some (q, c) → (Tab.find q.trust.fw (2 * (1 - q.boot.slot))).isSome = true →
      ∃ t, exec (.fwActivate fn clk) s = .next t ∧ t.newel.out = q.newel.out ++ [c] ∧ t.newel.running = false
        ∧ t.newel.activating = some c.cid ∧ bit t.board.alerts 3 = true)

/-- Where the function’s space answers, MBX_CMD_DB sets the tail within the ring, MBX_CPL_HEAD keeps what was written, and setting EN in
MBX_CTRL sets the heads and tails to 0 and the phase to 1; where it does not answer, nothing changes. (R363, R364, R365, R371) -/
def Obligations.MailboxRegisters : Prop :=
  ∀ (s : State) (fn : Fn) (v : BitVec 32),
    (s.fnAnswers fn.val = true → ∃ t, exec (.mbxCmdDb fn v) s = .next t
      ∧ (t.fnSt fn.val).tail = v.toNat % 65536 % ringSize (s.fnSt fn.val).cmd) ∧
    (s.fnAnswers fn.val = true → ∃ t, exec (.mbxCplHead fn v) s = .next t ∧ (t.fnSt fn.val).cplHead = v.toNat % 65536) ∧
    (s.fnAnswers fn.val = true → ∃ t, exec (.mbxCtrlEn fn v) s = .next t ∧ (t.fnSt fn.val).ctrl = v.toNat &&& 0x1FF9 ∧
      (bit v.toNat 0 = true → bit (s.fnSt fn.val).ctrl 0 = false →
        (t.fnSt fn.val).head = 0 ∧ (t.fnSt fn.val).tail = 0 ∧ (t.fnSt fn.val).cplTail = 0 ∧ (t.fnSt fn.val).cplHead = 0
          ∧ (t.fnSt fn.val).cphase = true)) ∧
    (s.fnAnswers fn.val = false → s.time.phase < treadClk → exec (.mbxCmdDb fn v) s = .next s ∧ exec (.mbxCplHead fn v) s = .next s
      ∧ exec (.mbxCtrlEn fn v) s = .next s)

/-- A wing’s channel takes the tail written, clears the STAT bits written as 1, and with EN rising on a ring within the HBM window, or in host
memory, runs with the bits written; a ring outside the window sets bit 3 of STAT and leaves EN 0. Every other channel stays. An index that
names no channel of the wing, or a space that does not answer, changes nothing. (R160, R161, R162, R165, R166) -/
def Obligations.DmaChannelRegisters : Prop :=
  ∀ (s : State) (fn : Fn) (w : WingId) (idx : ChanId) (v : BitVec 32),
    ((s.fnAnswers fn.val = false ∨ s.chanOf fn.val w.val idx.val = none) → exec (.dmaChTail fn w idx v) s = .next s
      ∧ exec (.dmaChStatClear fn w idx v) s = .next s ∧ exec (.dmaChCtrlEn fn w idx v) s = .next s) ∧
    ∀ c : Nat, s.fnAnswers fn.val = true → s.chanOf fn.val w.val idx.val = some c →
    (∃ t, exec (.dmaChTail fn w idx v) s = .next t ∧ (t.chan c).tail = v.toNat % 65536 ∧ (t.chan c).waitOwn = false
      ∧ (t.chan c).head = (s.chan c).head ∧ (t.chan c).stat = (s.chan c).stat ∧ ∀ d ≠ c, t.chan d = s.chan d) ∧
    (∃ t, exec (.dmaChStatClear fn w idx v) s = .next t ∧ (t.chan c).stat = (s.chan c).stat &&& (15 - v.toNat % 16)
      ∧ (t.chan c).tail = (s.chan c).tail ∧ ∀ d ≠ c, t.chan d = s.chan d) ∧
    (∃ t, exec (.dmaChCtrlEn fn w idx v) s = .next t ∧ (∀ d ≠ c, t.chan d = s.chan d) ∧
      (bit v.toNat 0 = true → bit (s.chan c).ctrl 0 = false →
        if bit (s.chan c).ring 0 = true ∧ s.inHbm w.val ((s.chan c).ring / 4096 * 4096) (64 * (s.chan c).size) = false then
          bit (t.chan c).ctrl 0 = false ∧ bit (t.chan c).stat 3 = true
        else (t.chan c).ctrl = v.toNat &&& 0xFD ∧ (t.chan c).stat = (s.chan c).stat))

/-- A running channel with work whose ring answers takes the descriptor at HEAD: one not owned stops the channel until the next tail write, one
of a reserved class ends INVALID, a list runs and ends, a grid runs and ends or waits for its remote source; while its remote reads are out,
the descriptor is not read again. (R161, R162, R163, R164, R168) -/
def Obligations.DescriptorsRun : Prop :=
  ∀ (s : State) (ch : ChanId) (clk : Clk) (w : Nat) (d : List Byte) (u : State), s.chanWing ch.val = some w →
    let out (x : State) : Bool := x.fab.reqs.any fun r => r.own = blockOwn (chanUnit ch.val) 0
    let x := s.at_ clk.val
    (bit (s.chan ch.val).ctrl 0 = true ∨ (s.chan ch.val).drain = true) → (s.chan ch.val).work = true → (s.chan ch.val).waitOwn = false →
    (if out x = true then ((x.descRead w (s.chan ch.val)).1, x) else x.descRead w (s.chan ch.val)) = (some d, u) →
    (bits (fieldN d 0 4) 29 2 ≠ 1 → bit (fieldN d 0 4) 31 = false → exec (.dmaList ch clk) s
      = .next (s.keepDma (u.modChan ch.val fun x => { x with waitOwn := true, idle := true, drain := false }))) ∧
    (bits (fieldN d 0 4) 29 2 = 0 → bit (fieldN d 0 4) 31 = true → exec (.dmaList ch clk) s
      = .next (s.keepDma ((u.listRun w d).2.descDone w ch.val (fieldN d 0 4) (u.listRun w d).1))) ∧
    (2 ≤ bits (fieldN d 0 4) 29 2 → bit (fieldN d 0 4) 31 = true →
      exec (.dmaList ch clk) s = .next (s.keepDma (u.descDone w ch.val (fieldN d 0 4) invalidEnd)) ∧
      exec (.dmaGrid ch clk) s = .next (s.keepDma (u.descDone w ch.val (fieldN d 0 4) invalidEnd))) ∧
    (bits (fieldN d 0 4) 29 2 ≠ 0 → bit (fieldN d 0 4) 31 = false → exec (.dmaGrid ch clk) s
      = .next (s.keepDma (u.modChan ch.val fun x => { x with waitOwn := true, idle := true, drain := false }))) ∧
    (bits (fieldN d 0 4) 29 2 = 1 → bit (fieldN d 0 4) 31 = true → exec (.dmaGrid ch clk) s
      = .next (s.keepDma (match u.gridRun w ch.val d with
        | (some e, x) => x.descDone w ch.val (fieldN d 0 4) e
        | (none, x) => if out x = true then x else s)))

/-- A write of a register of the protection set-up through the PF’s BAR0 sets the bits of its write mask within the bytes written, keeps the
others, and leaves what is in effect until a boundary. (R15, R16, R445) -/
def Obligations.RegistersOfThePfReadBack : Prop :=
  ∀ (s : State) (v : BitVec 64), s.fnAnswers 0 = true → ∀ r ∈ pfRegRows, r.cls = .prot → ∀ i < r.n,
    let off := r.key + r.stride * i
    let m := r.mask &&& (2 ^ (if 8 ≤ r.bytes then 64 else 32) - 1)
    ∃ t, exec (.registerWrite 0 off (8 ≤ r.bytes) (if 8 ≤ r.bytes then v else v &&& 0xFFFFFFFF)) s = .next t ∧ t.pfe = s.pfe
      ∧ t.pfw_ off &&& m = v.toNat &&& m ∧ t.pfw_ off ||| m = s.pfw_ off ||| m ∧ ∀ o ≠ off, t.pfw_ o = s.pfw_ o

/-- A register write through a VF, of any size and offset, leaves every register of the PF as written and as in effect. (R334, R335) -/
def Obligations.VfsLeaveThePf : Prop :=
  ∀ (s : State) (fn : Fn) (off : Nat) (wide : Bool) (v : BitVec 64), fn ≠ 0 →
    ∃ t, exec (.registerWrite fn off wide v) s = .next t ∧ t.pfw = s.pfw ∧ t.pfe = s.pfe

/-- An access through a space that answers, of a size other than 4 or 8 bytes or not aligned to its size, sets PCI_ERR.SEEN and raises its
COUNT, saturating at 0xFFFF; a read gives all ones; a write changes nothing else. (R445) -/
def Obligations.BadSizeAccesses : Prop :=
  ∀ (s : State) (fn : Fn) (off size : Nat), s.fnAnswers fn.val = true → s.time.phase < treadClk → 0 < size →
    ¬((size = 4 ∨ size = 8) ∧ off % size = 0) →
    exec (.badSizeAccess fn off size true) s
      = .next { s with pci := { s.pci with errSeen := true, errCount := min (s.pci.errCount + 1) 0xFFFF } } ∧
    exec (.badSizeAccess fn off size false) s
      = .next { s with pci := { s.pci with errSeen := true, errCount := min (s.pci.errCount + 1) 0xFFFF }
                       ans := { s.ans with reg := some 0xFFFFFFFFFFFFFFFF } }

/-- A 64-bit read of TRD_NOW by the PF gives tread and clk of one moment, clk 0 in the gap of a step; a 32-bit read at 0x008 gives the low half
and latches the high half, which the next 32-bit read at 0x00C by the PF gives whatever the clk then is. (R59) -/
def Obligations.TreadNumberIsReadWhole : Prop :=
  ∀ (s : State) (a b : Clk), s.fnAnswers 0 = true → s.time.tread < treadMod →
    let clk := if s.time.inGap.isSome then 0 else a.val
    (∃ t, exec (.trdNowRead 0 .full64 a) s = .next t ∧ t.ans.reg = some (s.time.tread * 65536 + clk)) ∧
    ∃ t u, exec (.trdNowRead 0 .lo32 a) s = .next t ∧ t.ans.reg = some ((s.time.tread * 65536 + clk) % 2 ^ 32)
      ∧ exec (.trdNowRead 0 .hi32 b) t = .next u ∧ u.ans.reg = some (s.time.tread / 65536)

/-- WNG_FLT.SEEN, SVC_BIST and PCI_ERR.SEEN clear where 1 is written; RETRAIN takes an UP port to RETRAIN; FORCE of WNG_TRN_CTRL, written by the
PF or the wing’s own VF, is held for the next boundary, which flags the step; ACC_CONS keeps what was written. A write by another VF, or to
a space that does not answer, changes nothing. (R308, R339, R425, R445, R250, R411) -/
def Obligations.RegistersWithAnAction : Prop :=
  ∀ s : State,
    (∀ (fn : Fn) (w : WingId) (v : BitVec 64), s.fnAnswers fn.val = true → (fn.val = 0 ∨ fn.val = w.val + 1) →
      ∃ t, exec (.wngFltClear fn w v) s = .next t ∧ (t.job w.val).fltSeen = ((s.job w.val).fltSeen && !bit v.toNat 63)
        ∧ (t.job w.val).fltCount = (s.job w.val).fltCount ∧ (t.job w.val).fltAddr = (s.job w.val).fltAddr) ∧
    (∀ v : BitVec 32, s.fnAnswers 0 = true → ∃ t, exec (.svcBistClear v) s = .next t
      ∧ t.svc = { s.svc with bist := s.svc.bist - (s.svc.bist &&& v.toNat % 4096) }) ∧
    (∀ v : BitVec 32, s.fnAnswers 0 = true → ∃ t, exec (.pciErrClear v) s = .next t
      ∧ t.pci = { s.pci with errSeen := s.pci.errSeen && !bit v.toNat 31 }) ∧
    (∀ (p : PortId) (v : BitVec 64), s.fnAnswers 0 = true → (s.port p.val).st = 2 → bit v.toNat 62 = true →
      ∃ t, exec (.halPortRetrain p v) s = .next t ∧ (t.port p.val).st = 3 ∧ t.pfe = s.pfe) ∧
    (∀ (fn : Fn) (w : WingId) (v : BitVec 32), s.fnAnswers fn.val = true → (fn.val = 0 ∨ fn.val = w.val + 1) → bit v.toNat 1 = true →
      ∃ t, exec (.trnForce fn w v) s = .next t ∧ (t.job w.val).trn.force = true ∧ (t.job w.val).trn.flags = (s.job w.val).trn.flags
        ∧ (t.takeForce w.val).job w.val = (State.trnFlag (t.modTrn w.val fun x => { x with force := false }) w.val
          (t.we w.val Reg.wngStep) 5).job w.val) ∧
    (∀ (fn : Fn) (w : WingId) (v : BitVec 32) (u : BitVec 64), s.time.phase < treadClk →
      (s.fnAnswers fn.val = false ∨ fn.val ≠ 0 ∧ fn.val ≠ w.val + 1) →
      exec (.trnForce fn w v) s = .next s ∧ exec (.wngFltClear fn w u) s = .next s) ∧
    (∀ (p : PortId) (v : BitVec 32) (u : BitVec 64), s.time.phase < treadClk → s.fnAnswers 0 = false → exec (.svcBistClear v) s = .next s
      ∧ exec (.pciErrClear v) s = .next s ∧ exec (.halPortRetrain p u) s = .next s ∧ exec (.accCons v) s = .next s) ∧
    (∀ v : BitVec 32, s.fnAnswers 0 = true → ∃ t, exec (.accCons v) s = .next t ∧ t.acct.cons = v.toNat)

/-- From the beginning of start-up on, DBG_ACCESS sets DEBUG_SEEN (and logs the first use), shifts out the last result and leaves the next one
in the register: its address, operation and space, its data and status. A read of register space gives the register of the PF’s BAR0 at the
offset, a write writes it; a read or write of memory takes eight bytes at a local address, with the wing’s banks as swapped, and answers
status 2 outside every region; memory that start-up has not initialised reads as a free value; operation 0 does nothing else, and operation
3 writes register space. Before, or without the rails, nothing changes. (R453, R454, R403, R456, R471) -/
def Obligations.DebugAccess : Prop :=
  ∀ (s : State) (dr : BitVec 128),
    let a := bits dr.toNat 17 47
    let data := bits dr.toNat 64 64
    let v := s.debugUse
    let u : State := { v with board := { v.board with tapIr := 0x20, pinsTaken := false }, ans := { v.ans with tap := v.board.tapDr } }
    let out (x : State) (d status : Nat) : State := { x with board := { x.board with
      tapDr := d * 2 ^ 64 + a * 2 ^ 17 + bits dr.toNat 15 2 * 2 ^ 15 + b2n (bit dr.toNat 8) * 256 + status } }
    let q : Req := { wing := none, owner := false }
    let loc := match u.ownerOf a with | some w => u.bankAddr w (u.bankNow w) a | none => a
    let mapped : Prop := u.region a ≠ .unmapped ∧ u.region (a + 7) ≠ .unmapped
    v.trust.dbgSeen = true ∧
    (s.tapLive = false → exec (.dbgAccess dr) s = .next s) ∧
    (s.tapLive = true →
    (bits dr.toNat 15 2 = 0 → exec (.dbgAccess dr) s = .next (s.keepDebug (out u data 0))) ∧
    (bits dr.toNat 15 2 = 1 → bit dr.toNat 8 = true → exec (.dbgAccess dr) s = .next (s.keepDebug (out u (u.readReg 0 a true) 0))) ∧
    (bits dr.toNat 15 2 = 1 → bit dr.toNat 8 = false → mapped → u.boot.hbmInit = true → exec (.dbgAccess dr) s
      = .next (s.keepDebug (out (u.read q loc 8).2 (leNat ((u.read q loc 8).1.map (·.1))) 0))) ∧
    (bits dr.toNat 15 2 = 1 → bit dr.toNat 8 = false → mapped → u.boot.hbmInit = false → exec (.dbgAccess dr) s
      = .next (s.keepDebug (out u.free.2 (u.free.1 % 2 ^ 64) 0))) ∧
    (bits dr.toNat 15 2 = 1 → bit dr.toNat 8 = false → ¬mapped → exec (.dbgAccess dr) s = .next (s.keepDebug (out u 0 2))) ∧
    ((bits dr.toNat 15 2 = 2 ∧ bit dr.toNat 8 = true ∨ bits dr.toNat 15 2 = 3) → exec (.dbgAccess dr) s
      = .next (s.keepDebug (out (u.writeReg 0 a true data) data 0))) ∧
    (bits dr.toNat 15 2 = 2 → bit dr.toNat 8 = false → mapped → exec (.dbgAccess dr) s
      = .next (s.keepDebug (out (u.write q loc (clean (leBytes 8 data))) data 0))) ∧
    (bits dr.toNat 15 2 = 2 → bit dr.toNat 8 = false → ¬mapped → exec (.dbgAccess dr) s = .next (s.keepDebug (out u data 2))))

/-- When a core’s slot holds an entry of the function whose LOAD blocks of buffer half 1 have retired, and the function has not ended, the row
runs it: the entry’s function has ended after it, or the entry has stopped at a refused access. A function that sends records does so while
its wing is not quiescing. (R75, R78, R155, R484, R106, R199, R175, R182, R183, R259, R266, R242) -/
def Obligations.FunctionsEnd : Prop :=
  ∀ (s : State) (core : CoreId) (slot : CtxSlot) (r : Run), s.runAt core.val (slot == .guest) = some r → r.fnDone = false →
    (∀ k ∈ upFrom 0 r.blks.length, blkDir (r.blks.getD k 0) = 0 → blkHalf (r.blks.getD k 0) = 1 → k ∈ r.retired) →
    (∀ x ∈ ([
      (.vector core slot, fun c => cwFunc c = 0),
      (.matmul core slot, fun c => cwFunc c = 1),
      (.attn core slot, fun c => cwFunc c = 2),
      (.plan core slot, isSample 0),
      (.draft core slot, isSample 1),
      (.verify core slot, isSample 2),
      (.openRound core slot, isReduce 1),
      (.accum core slot, isReduce 2),
      (.close core slot, isReduce 3),
      (.topen core slot, isReduce 4),
      (.tclose core slot, isReduce 5),
      (.combine core slot, isReduce 7),
      (.update core slot, isOptim 0),
      (.vote core slot, isOptim 1),
      (.verdict core slot, isOptim 2),
      (.loss core slot, isOptim 3),
      (.advance core slot, isOptim 4),
      (.xform core slot, fun c => cwFunc c = 7),
      (.convert core slot, fun c => cwFunc c = 8)] :
        List (Instr × (Nat → Bool))), x.2 r.cfg = true →
      ∃ t, exec x.1 s = .next t ∧ ∀ u, t.runAt core.val (slot == .guest) = some u → u.fnDone = true) ∧
    (∀ x ∈ ([(.route core slot, isRoute), (.send core slot, isReduce 0), (.returnRows core slot, isReduce 6), (.deltaSend core slot, isDelta)] :
        List (Instr × (Nat → Bool))), x.2 r.cfg = true → (s.wing r.wing).quiet = false →
      ∃ t, exec x.1 s = .next t ∧ ∀ u, t.runAt core.val (slot == .guest) = some u → u.fnDone = true)

/-- When a core’s slot holds an entry of the function that has begun, whose LOAD blocks of buffer half 1 have retired and whose function has not
ended, the next state is that of the function’s own rules, and the function has ended; a function that sends records does so while its wing
is not quiescing. An entry that has not begun begins first. A ragged entry of no rows ends its function at once, and an entry of another
function, or with an operand still to come, changes nothing. (R106, R117, R199, R175, R182, R183, R259, R266, R269, R274, R278, R242) -/
def Obligations.FunctionsRunTheirRules : Prop :=
  ∀ (s : State) (core : CoreId) (slot : CtxSlot) (r : Run),
    let g := slot == .guest
    let rows : List (Instr × (Nat → Bool) × Bool × (State → State) × (State → Run → State)) := [
      (.vector core slot, fun c => cwFunc c = 0, false, s.keepFunc, fun s r => s.vectorFn core.val (slot == .guest) r),
      (.matmul core slot, fun c => cwFunc c = 1, false, s.keepFunc, fun s r => s.matmulFn core.val (slot == .guest) r),
      (.attn core slot, fun c => cwFunc c = 2, false, s.keepFunc, fun s r => s.attnFn core.val (slot == .guest) r),
      (.plan core slot, isSample 0, false, s.keepFunc, fun s r => s.planFn core.val (slot == .guest) r),
      (.draft core slot, isSample 1, false, s.keepFunc, fun s r => s.draftFn core.val (slot == .guest) r),
      (.verify core slot, isSample 2, false, s.keepFunc, fun s r => s.verifyFn core.val (slot == .guest) r),
      (.update core slot, isOptim 0, false, s.keepFunc, fun s r => s.updateFn core.val (slot == .guest) r),
      (.vote core slot, isOptim 1, false, s.keepFunc, fun s r => s.recordsFn core.val (slot == .guest) r),
      (.verdict core slot, isOptim 2, false, s.keepFunc, fun s r => s.recordsFn core.val (slot == .guest) r),
      (.loss core slot, isOptim 3, false, s.keepFunc, fun s r => s.lossFn core.val (slot == .guest) r),
      (.advance core slot, isOptim 4, false, s.keepFunc, fun s r => (fun (_ : Run) => s) r),
      (.xform core slot, fun c => cwFunc c = 7, false, s.keepFunc, fun s r => s.xformFn core.val (slot == .guest) r),
      (.convert core slot, fun c => cwFunc c = 8, false, s.keepFunc, fun s r => s.vectorFn core.val (slot == .guest) r),
      (.openRound core slot, isReduce 1, false, s.keepFuncSend, fun s r => s.openFn core.val (slot == .guest) r),
      (.accum core slot, isReduce 2, false, s.keepFuncSend, fun s r => s.accumFn core.val (slot == .guest) r),
      (.close core slot, isReduce 3, false, s.keepFuncSend, fun s r => s.closeFn core.val (slot == .guest) r),
      (.topen core slot, isReduce 4, false, s.keepFuncSend, fun s r => s.topenFn core.val (slot == .guest) r),
      (.tclose core slot, isReduce 5, false, s.keepFuncSend, fun s r => s.tcloseFn core.val (slot == .guest) r),
      (.combine core slot, isReduce 7, false, s.keepFuncSend, fun s r => s.combineFn core.val (slot == .guest) r),
      (.route core slot, isRoute, true, s.keepFuncSend, fun s r => s.routeFn core.val (slot == .guest) r),
      (.send core slot, isReduce 0, true, s.keepFuncSend, fun s r => s.sendFn core.val (slot == .guest) r),
      (.returnRows core slot, isReduce 6, true, s.keepFuncSend, fun s r => s.returnFn core.val (slot == .guest) r),
      (.deltaSend core slot, isDelta, true, s.keepFuncSend, fun s r => s.deltaFn core.val (slot == .guest) r)]
    let ready : Prop := ∀ k ∈ upFrom 0 r.blks.length, blkDir (r.blks.getD k 0) = 0 → blkHalf (r.blks.getD k 0) = 1 → k ∈ r.retired
    s.runAt core.val g = some r →
    (∀ x ∈ rows, x.2.1 r.cfg = true → r.started = true → r.fnDone = false → ready → (x.2.2.1 = true → (s.wing r.wing).quiet = false) →
      exec x.1 s = .next (x.2.2.2.1 (if cwRagged r.cfg = true ∧ cwFunc r.cfg ≠ 4 ∧ r.rows = 0 then s.fnEnd core.val g
        else (x.2.2.2.2 s r).fnEnd core.val g))) ∧
    (∀ x ∈ rows, ∀ u : Run, x.2.1 r.cfg = true → r.fnDone = false → ready → (x.2.2.1 = true → (s.wing r.wing).quiet = false) →
      (s.beginRun core.val g).runAt core.val g = some u → (cwRagged u.cfg = true → cwFunc u.cfg ≠ 4 → u.rows ≠ 0) →
      exec x.1 s = .next (x.2.2.2.1 ((x.2.2.2.2 (s.beginRun core.val g) u).fnEnd core.val g))) ∧
    (∀ x ∈ rows, (x.2.1 r.cfg = false ∨ r.fnDone = true ∨ ¬ready ∨ x.2.2.1 = true ∧ (s.wing r.wing).quiet = true) →
      exec x.1 s = .next (x.2.2.2.1 s))

/-- A block that may issue and passes its address checks is issued; without a tag and in its own module the entry goes on with it, by the ways
and windows in force then, and a STORE’s clk is the entry’s last. A block that is issued, in its turn and answered retires, unless the entry
stops at a refused access; in its own module and without a tag, a LOAD leaves every byte of memory outside its place in SRAM, a STORE every
byte outside those that it moves, and a WARM every byte, as it was, or as it stood behind a dirty line whose write back is lost. An entry
whose function has ended and whose blocks have all retired frees its slot, and its completion record with STATUS DONE is staged behind the
earlier ones. (R43, R54, R155, R156, R152, R80, R81) -/
def Obligations.StreamSteps : Prop :=
  ∀ (s : State) (core : CoreId) (slot : CtxSlot) (k : Nat) (clk : Clk) (r : Run),
    let g := slot == .guest
    let b := (s.at_ clk.val).beginRun core.val g
    s.runAt core.val g = some r →
    (∀ v : Run, s.mayIssue r k clk.val = true → b.runAt core.val g = some v → b.blkRefused v (v.blks.getD k 0) = false →
      (blkDir (v.blks.getD k 0) ≠ 2 →
        b.sramRefused core.val g (b.halfBase core.val g (blkHalf (v.blks.getD k 0)) + blkLoff (v.blks.getD k 0)) (blkLen (v.blks.getD k 0)) = false) →
      (∃ t, exec (.streamBlockIssue core slot k clk) s = .next t ∧ ∀ u, t.runAt core.val g = some u → k ∈ u.issued) ∧
      ((blkAddr (v.blks.getD k 0) / 2 ^ 47 = b.me ∨ blkAddr (v.blks.getD k 0) / 2 ^ 47 = 0x1FFFF) → b.blkTag v.wing (v.blks.getD k 0) = none →
        ∃ t, exec (.streamBlockIssue core slot k clk) s = .next t ∧ t.runAt core.val g = some { v with
          issued := v.issued ++ [k], endClk := if blkDir (v.blks.getD k 0) = 1 then b.endClkAt clk.val else v.endClk
          via := Tab.set v.via k (b.ways v.wing, b.ctxSwap v.wing) })) ∧
    (k ∈ r.issued → k ∉ r.retired → s.inOrder r k = true → s.reqsDone (blockOwn (slotUnit core.val g) k) = true →
      ∃ t, exec (.blockRetire core slot k clk) s = .next t ∧ ∀ u, t.runAt core.val g = some u → k ∈ u.retired) ∧
    (let x := r.blks.getD k 0
      let base := s.halfBase core.val g (blkHalf x) + blkLoff x
      k ∈ r.issued → k ∉ r.retired → s.inOrder r k = true → s.reqsDone (blockOwn (slotUnit core.val g) k) = true →
      s.mem.wf = true → (blkAddr x / 2 ^ 47 = s.me ∨ blkAddr x / 2 ^ 47 = 0x1FFFF) → s.blkTag r.wing x = none →
      ∃ t, exec (.blockRetire core slot k clk) s = .next t ∧
        (blkDir x = 0 → s.sramRefused core.val g base (blkLen x) = false → ∀ a, ¬(base ≤ a ∧ a < base + blkLen x) → s.byteKept t a) ∧
        (blkDir x = 1 → ∀ a, (∀ y ∈ r.moved k, ∀ z ∈ linePieces (blkAddr x % 2 ^ 47 + y.1) y.2,
          ¬(s.place (s.blockReq r k) z.1 ≤ a ∧ a < s.place (s.blockReq r k) z.1 + z.2)) → s.byteKept t a) ∧
        (blkDir x = 2 → ∀ a, s.byteKept t a)) ∧
    (r.fnDone = true → r.retired.length = r.blks.length → ∃ t n, exec (.entryWorkEnd core slot clk) s = .next t ∧ t.runAt core.val g = none
      ∧ t.time.phase = (s.at_ clk.val).time.phase
      ∧ t.crecs = s.crecs ++ [⟨r.wing, g, r.tread, core.val, r.rank, n, crecBytes r.tread r.fid 0 core.val r.rank (entCfg r.ent) g (some { r with
          endClk := if r.blks.any (fun x => blkDir x = 1) then r.endClk else (s.at_ clk.val).endClkAt clk.val })⟩])

/-- A watchdog or an uncorrectable SRAM error stops a running newel with its cause and raises the reset alert; a timeout of FW_ACTIVATE reverts
it; a restart goes through the boot ROM, which runs the first copy of the slot it tries that passes: the newel runs again, the restart is
counted and the module is in READY. Where no copy passes the module stays in BOOT_FAIL (log entry 79). A running newel’s restart does not
end. (R362, R381, R382, R400, R401, R461, R467, Table 16.3) -/
def Obligations.NewelRows : Prop :=
  ∀ s : State,
    (s.newel.running = true → (∃ t, exec .newelWatchdog s = .next t ∧ t.newel.running = false ∧ t.newel.cause = 0
        ∧ t.newel.out = s.newel.out ∧ bit t.board.alerts 3 = true) ∧
      (∃ t, exec .newelSramUe s = .next t ∧ t.newel.running = false ∧ t.newel.cause = 1
        ∧ t.newel.out = s.newel.out ∧ bit t.board.alerts 3 = true) ∧
      ∀ bad, s.time.phase < treadClk → exec (.newelRestartDone bad) s = .next s) ∧
    (s.newel.activating.isSome = true → ∃ t, exec .fwActivateTimeout s = .next t ∧ t.newel = { s.newel with reverted := true } ∧ t.boot = s.boot) ∧
    (∀ tableBad k, s.newel.running = false → (s.boot.st = 5 ∨ s.boot.st = 6) →
      (fwOrder s.restartSlot).find? (fun k => s.fwPasses k) = some k → ∃ t, exec (.newelRestartDone tableBad) s = .next t ∧ t.boot.st = 5
      ∧ t.boot.slot = k / 2 ∧ t.boot.copy = k % 2 ∧ t.newel.running = true ∧ t.newel.restarts = s.newel.restarts + 1
      ∧ t.newel.activating = none ∧ (s.newel.activating = none → t.boot.active = s.boot.active)) ∧
    (∀ tableBad, s.newel.running = false → (s.boot.st = 5 ∨ s.boot.st = 6) →
      (fwOrder s.restartSlot).find? (fun k => s.fwPasses k) = none →
      exec (.newelRestartDone tableBad) s = .next (s.keepNewel { s with boot := { s.boot with st := 2, failed := 15 } }))

/-- While the newel runs, when the copies of an image are programmed, a firmware image is staged, fuses are verified, a self-test item ends or a
report is formed, the command that waited is outstanding no longer. (R391, R400, R407, R425, R436) -/
def Obligations.OutstandingWorkEnds : Prop :=
  ∀ (s : State) (c : Cmd),
    (∀ im ok, s.trust.images.find? (fun x => x.id = im.id && x.cid.isSome) = some im → s.newel.out.find? (fun d => some d.cid = im.cid) = some c →
      s.newel.running = true →
      ∃ t, exec (.copiesProgrammed im.id ok) s = .next t ∧ ∀ d ∈ t.newel.out, d.cid ≠ c.cid) ∧
    (∀ rest, s.newel.running = true → s.outOp 0x900 = c :: rest → ∃ t, exec .imageStaged s = .next t ∧ ∀ d ∈ t.newel.out, d.cid ≠ c.cid) ∧
    (∀ rest l, s.outOp 0x704 = c :: rest → ∃ t, exec (.fusingEnds l) s = .next t ∧ ∀ d ∈ t.newel.out, d.cid ≠ c.cid) ∧
    (∀ rest clk, s.newel.running = true → s.outOp 0x804 = c :: rest → ∃ t, exec (.reportFormed clk) s = .next t ∧ ∀ d ∈ t.newel.out, d.cid ≠ c.cid) ∧
    (∀ (item : Fin 8) (unit : Fin 832) v l p d, (s.outOp 0x706).find? (fun x => bits (x.arg 0) 0 4 = item.val && bits (x.arg 0) 4 10 = unit.val)
      = some c → ∃ t, exec (.itemEnds item unit v l p d) s = .next t ∧ ∀ x ∈ t.newel.out, x.cid ≠ c.cid)

/-- While the newel runs, a copy in progress writes the bytes that it brings at its shard’s place: one that times out or ends unreadable leaves
the head of its channel’s queue with what it had read written, and copy 2 follows or the load fails; a copy read as stored whose hash fits
counts its shard; one whose hash does not fit is marked bad. A write that the wing’s own protection refuses fails the load at its shard (log
entry 54). (R396, R398, R339) -/
def Obligations.ModelLoadRows : Prop :=
  ∀ (s : State) (w : WingId) (shard : Nat) (c : Cmd) (im : Image) (copy : Nat) (sh : Shard), s.newel.running = true →
    s.loading w.val = some (c, im) → (s.wing w.val).load.reading shard = some copy → im.shards[shard]? = some sh →
    let q := s.readOver w.val shard copy
    let end_ (x : State × Bool) (f : State → State) : State := if x.2 = true then f x.1 else x.1.loadFail w.val c im shard
    (∀ got, exec (.flashCopyTimeout w shard got) s = .next (s.keepModelLoad (end_ (q.shardWrite w.val sh (got.take (sh.len - 1)))
      fun x => x.copyFailed w.val c im shard copy))) ∧
    (im.lost.contains (4 * shard + 2 * copy + 1) = false → shake256 64 sh.data = sh.hash →
      exec (.shardReadDone w shard .asStored) s = .next (s.keepModelLoad (end_ (q.shardWrite w.val sh sh.data) fun x =>
        let u := x.modLoad w.val fun l => { l with written := shard :: l.written, done := l.done + 1 }
        if (u.wing w.val).load.written.length = im.shards.length then u.loadGood w.val c im else u))) ∧
    (∀ got, exec (.shardReadDone w shard (.unreadable got)) s = .next (s.keepModelLoad (end_ (q.shardWrite w.val sh (got.take (sh.len - 1)))
      fun x => (x.copyBad im.id shard copy).copyFailed w.val c im shard copy))) ∧
    (∀ b, im.lost.contains (4 * shard + 2 * copy + 1) = false → shake256 64 (sliceB b 0 sh.len) ≠ sh.hash →
      exec (.shardReadDone w shard (.other b)) s = .next (s.keepModelLoad (end_ (q.shardWrite w.val sh (sliceB b 0 sh.len)) fun x =>
        ((x.modLoad w.val fun l => { l with wrong := shard :: l.wrong }).copyBad im.id shard copy).copyFailed w.val c im shard copy))) ∧
    (∀ (x : State) (b : List Byte), b ≠ [] →
      let y := x.charge (some w.val) Acf.flash b.length
      let a := (y.wing w.val).load.base + sh.destOff
      x.shardWrite w.val sh b = if y.fixedTo w.val a b.length = true then (y.refuse w.val a false, false)
        else (y.write (y.reqOf w.val) a (clean b), true))

/-- A row that is a candidate takes a spare of its bank while it has one, else its granules are retired while the list has room; a gallery
location takes a spare of its slice, else it holds no line any more; either is a candidate no longer. A spare that scans good is ready for
its replacement tread, one that fails enters FAULT; a channel that fails training or found 64 uncorrectable errors enters FAULT from LIVE,
and is given up while RETIRING; a gallery slice that fails serves no lines; a migration flips the granules named; a replacement tread copies
the core. (R145, R147, R148, R430, R431, R433, R434, R150) -/
def Obligations.RepairsAct : Prop :=
  ∀ s : State,
    (∀ (ch : HbmCh) (bank : Fin 16) (row : Nat), ⟨ch.val, bank.val, row⟩ ∈ s.hbm.cands →
      let gs := s.rowGranules ch.val bank.val row
      ∃ t, exec (.rowfix ch bank row) s = .next t ∧ ⟨ch.val, bank.val, row⟩ ∉ t.hbm.cands ∧
        if Tab.cnt s.hbm.spares (ch.val * 16 + bank.val) < Config.spareRows (ch.val * 16 + bank.val) then
          t.hbm.spares = Tab.bump s.hbm.spares (ch.val * 16 + bank.val) 1 ∧ t.hbm.gone = s.hbm.gone
        else t.hbm.spares = s.hbm.spares
          ∧ t.hbm.gone = if s.hbm.gone.length + gs.length ≤ 4096 then s.hbm.gone ++ gs.map (· / 256) else s.hbm.gone) ∧
    (∀ (sl : SliceId) (set : Fin 4096) (way : Fin 16),
      let k := sl.val * 65536 + set.val * 16 + way.val
      k ∈ s.gal.candidates → ∃ t, exec (.linefix sl set way) s = .next t ∧ k ∉ t.gal.candidates ∧
        if Tab.cnt s.svc.galSpares sl.val < 128 then
          t.gal.spared = s.gal.spared ++ [k] ∧ t.svc.galSpares = Tab.bump s.svc.galSpares sl.val 1 ∧ t.gal.retired = s.gal.retired
        else t.gal.retired = s.gal.retired ++ [k] ∧ Tab.find t.gal.lines k = none ∧ t.svc.galSpares = s.svc.galSpares) ∧
    (∀ (core : CoreId) (r : Repl), s.svc.repl = [r] → r.core = core.val → r.phase = 0 →
      (∃ t, exec (.coreswap core true) s = .next t ∧ t.svc.repl = [{ r with phase := 1 }]) ∧
      ∃ t, exec (.coreswap core false) s = .next t ∧ (t.unit (unitKey 0 r.spare)).hw = 1) ∧
    (∀ (core : CoreId) (r : Repl), s.svc.repl.find? (fun r => r.core = core.val && r.phase = 2) = some r →
      exec (.replacementTread core) s = .next (s.keepRepair (if r.copied = true then s
        else (s.touch 2 0 (r.core * 0x200000) 0x200000).setRepl r.core (some { r with copied := true })))) ∧
    (∀ (ch : HbmCh) (training : Bool), (training = true ∨ 64 ≤ Tab.cnt s.hbm.ueTread ch.val) →
      ((s.unit (unitKey 2 ch.val)).hw = 0 → ∃ t, exec (.hbmChannelFault ch training) s = .next t ∧ (t.unit (unitKey 2 ch.val)).hw = 1
        ∧ (t.unit (unitKey 2 ch.val)).epoch = ((s.unit (unitKey 2 ch.val)).epoch + 1) % 2 ^ 32) ∧
      ((s.unit (unitKey 2 ch.val)).hw = 2 → ∃ t, exec (.hbmChannelFault ch training) s = .next t ∧ t.hbm.faultCh = some ch.val
        ∧ t.units = s.units)) ∧
    (∀ (sl : SliceId) (l : List Nat), s.sliceFault sl.val = false → ∃ t, exec (.gallerySliceFault sl l) s = .next t
      ∧ t.sliceFault sl.val = true ∧ ∀ x ∈ t.gal.lines, x.1 / 65536 ≠ sl.val) ∧
    (∀ (ch : HbmCh) (n : Nat), s.hbm.migrating = some ch.val → ∃ t, exec (.migrate ch n) s = .next t ∧ t.hbm.migrating = some ch.val
      ∧ t.hbm.order = s.hbm.order ∧ t.hbm.migrated = s.hbm.migrated + min n (chanGranules - s.hbm.migrated)) ∧
    (∀ (ch : HbmCh) (n : Nat), s.hbm.migrating ≠ some ch.val → exec (.migrate ch n) s = .next s)

/-- A unit of patrol reads its words in the pass that its first unit begins: a granule of HBM as HBM holds it, behind the gallery, where its
channel serves it; a gallery location whether it holds a line or not; 256 bytes of a core’s SRAM. Beyond the HBM in use nothing is read. A
pass that has run for more than twice its period makes one SCRUB_LATE record, and none sooner. (R143, R144, Table 6.4) -/
def Obligations.PatrolsAct : Prop :=
  ∀ s : State,
    (∀ granule, 256 * granule < s.hbmEnd → exec (.scrubHbm granule) s = .next (s.keepRepair (s.scrubUnit 0 (granule = 0)
      (256 * (granule + 1) ≥ s.hbmEnd) fun pass s => if s.below (hbmBase + 256 * granule) = .plain then
        (s.charge none Acf.hbmRd 256).touchBehind 1 pass (hbmBase + 256 * granule) else s))) ∧
    (∀ granule, s.hbmEnd ≤ 256 * granule → exec (.scrubHbm granule) s = .next s) ∧
    (∀ (sl : SliceId) (set : Fin 4096) (way : Fin 16),
      let k := sl.val * 65536 + set.val * 16 + way.val
      (∀ l : Line, Tab.find s.gal.lines k = some l → exec (.scrubGal sl set way) s
        = .next (s.keepRepair (s.scrubUnit 1 (k = 0) (k = 32 * 65536 - 1) fun pass s => s.touch 1 pass (l.tag * 256) 256))) ∧
      (Tab.find s.gal.lines k = none → exec (.scrubGal sl set way) s
        = .next (s.keepRepair (s.scrubUnit 1 (k = 0) (k = 32 * 65536 - 1) fun pass s => s.touchStale pass k)))) ∧
    (∀ (core : CoreId) (word : Nat), word < 0x80000 → exec (.scrubSram core word) s
      = .next (s.keepRepair (s.scrubUnit 2 (core.val = 0 && word / 64 * 64 = 0) (core.val = 799 && word / 64 * 64 = 0x80000 - 64)
        fun pass s => s.touch 1 pass (core.val * 0x200000 + 4 * (word / 64 * 64)) 256))) ∧
    (∀ x : ScrubStore,
      let late := match Tab.find s.svc.passStart (storeCode x) with
        | some t => treadPast t (2 * (if storeCode x = 0 then 720000000 else 1500000)) s.tread
        | none => false
      (storeCode x ∉ s.svc.scrubLate → late = true → ∃ t, exec (.scrubLate x) s = .next t
        ∧ t.svc.scrubLate = storeCode x :: s.svc.scrubLate) ∧
      ((storeCode x ∈ s.svc.scrubLate ∨ late = false) → exec (.scrubLate x) s = .next s))

/-- A SerDes adaptation of a lane in service moves each tap by one step at most and marks one at its limit; of a lane that is not, it does
nothing; sensors that disagree and a PLL off by more than 100 ppm are marked; a calibration is counted; a rewritten data block moves to the
free block of its channel of lowest count and is erased; a block retires when told and at its 3,000th erasure; a good copy of a firmware
slot replaces the other; the least worn data of a channel moves to a worn free block where the counts differ by more than 200 (log entry
78); LOGOUT stores the oldest queued entries while the newel runs; TELEM drains the queue; a deferred slice is counted. (R422, R423, R424,
R425, R428, R429, R385, R414, R421, R381) -/
def Obligations.MonitorsAct : Prop :=
  ∀ s : State,
    (∀ (p : Fin 12) (step : List Int) (atLimit done : Bool), s.laneOn p.val = true →
      ∃ t, exec (.serdesCal p step atLimit done) s = .next t ∧ (atLimit = true → p.val < 9 → bit t.svc.bist (3 + p.val) = true)
        ∧ (∀ i, (((Tab.find t.svc.taps p.val).getD []).getD i 0 - ((Tab.find s.svc.taps p.val).getD []).getD i 0).natAbs ≤ 1)
        ∧ (done = true → Tab.find t.svc.tapsDone p.val = Tab.find t.svc.taps p.val)) ∧
    (∀ (p : Fin 12) (step : List Int) (atLimit done : Bool), s.laneOn p.val = false → s.time.phase < treadClk →
      exec (.serdesCal p step atLimit done) s = .next s) ∧
    (∀ bad : BitVec 64, ∃ t, exec (.tempCal bad) s = .next t ∧ t.svc.ecal = s.svc.ecal + 1 ∧ t.svc.tsExcl = s.svc.tsExcl ||| bad.toNat) ∧
    (∀ (pll ref : Nat) (mon : BitVec 32), ∃ t, exec (.monitor pll ref mon) s = .next t ∧ t.svc.vmExcl = s.svc.vmExcl ||| mon.toNat
      ∧ (1600 < pll ∨ 1600 < ref → bit t.svc.bist 0 = true)) ∧
    (∀ block,
      let r : State := { s with svc := { s.svc with flRefreshed := min 262143 (s.svc.flRefreshed + 1) } }
      ((block < sysBlocks ∨ r.flashUsed block = false ∨ r.flashNext (flashChan block) = none) →
        exec (.flash (.rewrite block)) s = .next (s.keepMonitor r)) ∧
      ∀ b, sysBlocks ≤ block → r.flashUsed block = true → r.flashNext (flashChan block) = some b →
        exec (.flash (.rewrite block)) s = .next (s.keepMonitor ((r.flashMove block b).flashErased block))) ∧
    (∀ block lost, block < 262144 → ∃ t, exec (.flash (.retire block lost)) s = .next t ∧ block ∈ t.svc.flRetired) ∧
    (∀ block, (block < sysBlocks ∨ s.flashUsed block = false) →
      (Tab.cnt s.svc.flErase block < 2999 → exec (.flash (.eraseDone block)) s
        = .next (s.keepMonitor { s with svc := { s.svc with flErase := Tab.bump s.svc.flErase block 1 } })) ∧
      (2999 ≤ Tab.cnt s.svc.flErase block → block < 262144 → ∃ t, exec (.flash (.eraseDone block)) s = .next t ∧ block ∈ t.svc.flRetired)) ∧
    (∀ block, sysBlocks ≤ block → s.flashUsed block = true → exec (.flash (.eraseDone block)) s = .next (s.keepMonitor s)) ∧
    (∀ slot copy f, Tab.find s.trust.fw (2 * (slot % 2) + (1 - copy % 2)) = some f → s.fwPasses (2 * (slot % 2) + (1 - copy % 2)) = true →
      exec (.flash (.fwCopy slot copy)) s = .next (s.keepMonitor { s with trust := { s.trust with
        fw := Tab.set s.trust.fw (2 * (slot % 2) + copy % 2) f } })) ∧
    (∀ ch cold top hot,
      let used := flashBlocks ch fun b => b ≥ sysBlocks && s.flashUsed b && !s.svc.flRetired.contains b
      let cnt (b : Nat) : Nat := Tab.cnt s.svc.flErase b
      pickBlock (fun x m => cnt x < cnt m) used = some cold → pickBlock (fun x m => cnt m < cnt x) used = some top →
      pickBlock (fun x m => cnt m < cnt x) (s.flashFree ch) = some hot → cnt cold + 200 < cnt top →
      exec (.flash (.level ch)) s = .next (s.keepMonitor ((s.flashMove cold hot).flashErased cold))) ∧
    (∃ t, exec (.flash .passEnd) s = .next t ∧ (t.bg 10).last = s.tread % 2 ^ 47) ∧
    (∀ n, s.newel.running = true → s.trust.log.length + n ≤ 4194304 → n ≤ s.trust.logq.length → ∃ t, exec (.logout n) s = .next t
      ∧ t.trust.log = s.trust.log ++ s.trust.logq.take n ∧ t.trust.logq = s.trust.logq.drop n ∧ t.trust.chain = s.trust.chain) ∧
    (∀ n, exec (.telem n) s = .next (s.keepMonitor (State.accDrain (State.telDrain (min n s.acct.telq.length) s).acct.held.length
      (State.telDrain (min n s.acct.telq.length) s)))) ∧
    (∀ task : Fin 14, ∃ t, exec (.sliceDefer task) s = .next t ∧ (t.bg task.val).deferred = min ((s.bg task.val).deferred + 1) 0xFFFF)

/-- While the newel runs, a copy that has not landed lands: a discarded one with no byte moved, one whose link went down as a failure; a copy
within the pool with the bytes of its source frame, one to a CXL window or to host memory with those of the frame where its end answers, one
from there likewise; else it fails. A context that is being saved is copied out. (R205, R209, R210, R212, R352) -/
def Obligations.JobCopiesAct : Prop :=
  ∀ (s : State) (w : WingId),
    (∀ (copy : Nat) (clk : Clk) (c : KvCopy), (s.job w.val).gen.copies.find? (fun c => c.id = copy && !c.landed) = some c →
      (s.newel.running = false → exec (.kvCopyLands w copy clk) s = .next s) ∧
      (s.newel.running = true →
      let q := s.at_ clk.val
      let fb := (q.kvGeom w.val).fb
      let rq := q.reqOf w.val
      let cxl (i : Nat) : Nat := (q.kvCxl w.val).1 + i * fb
      let host (i : Nat) : Nat := q.wr w.val Reg.wngKvHost / 4096 * 4096 + i * fb
      let mark (x : State) (bad : Bool) : State := x.modGen w.val fun g =>
        { g with copies := g.copies.map fun y => if y.id = copy then { y with landed := true, failed := bad } else y }
      let b := q.read rq (q.kvFrame w.val c.src) fb
      (c.discard = true → exec (.kvCopyLands w copy clk) s = .next (s.keepCommand (mark q false))) ∧
      (c.discard = false → c.failed = true → exec (.kvCopyLands w copy clk) s = .next (s.keepCommand (mark q true))) ∧
      (c.discard = false → c.failed = false → (c.kind = 0 ∨ c.kind = 3) →
        exec (.kvCopyLands w copy clk) s = .next (s.keepCommand (mark (b.2.write rq (b.2.kvFrame w.val c.dst) b.1) false))) ∧
      (c.discard = false → c.failed = false → c.kind = 1 → c.loc = 1 → exec (.kvCopyLands w copy clk) s = .next (s.keepCommand
        (if b.2.linkUp (cxl c.dst) then mark (b.2.write rq (cxl c.dst) b.1) false else mark b.2 true))) ∧
      (c.discard = false → c.failed = false → c.kind = 1 → c.loc ≠ 1 → exec (.kvCopyLands w copy clk) s = .next (s.keepCommand
        (if b.2.hostOk (w.val + 1) (host c.dst) fb then mark (b.2.hostWrite (w.val + 1) (host c.dst) b.1) false else mark b.2 true))) ∧
      (c.discard = false → c.failed = false → c.kind = 2 → c.loc = 1 → q.linkUp (cxl c.src) = true →
        (∀ p ∈ linePieces (cxl c.src) fb, q.behind p.1 ≠ .dead ∧ q.timedOut p.1 = false) →
        let b := q.read rq (cxl c.src) fb
        exec (.kvCopyLands w copy clk) s = .next (s.keepCommand (mark (b.2.write rq (b.2.kvFrame w.val c.dst) b.1) false))) ∧
      (∀ bs, c.discard = false → c.failed = false → c.kind = 2 → c.loc ≠ 1 → q.hostRead (w.val + 1) (host c.src) fb = some bs →
        exec (.kvCopyLands w copy clk) s = .next (s.keepCommand (mark ((q.charge (some w.val) Acf.hostIn fb).write rq
          (q.kvFrame w.val c.dst) bs) false))))) ∧
    (∀ (i : Nat) (x : Ctx) (k : Nat), s.newel.running = true → (s.wing w.val).ctxs.find? (fun y => y.2.st = 6 && y.2.stamp ≠ 0xFFFFFFFFFFFFFFFF) = some (i, x) →
      x.slot = some k → exec (.contextSaveLands w) s = .next (s.keepCommand ((s.ctxCopy w.val k i true).modWing w.val fun y =>
        { y with ctxs := Tab.set y.ctxs i { x with stamp := 0xFFFFFFFFFFFFFFFF } })))

/-- While no test instruction has the pins, signal takes an enabled DOWN port to TRAIN, lock is kept in TRAIN and ends RETRAIN in UP; loss of
lock takes UP to RETRAIN and clears lock in TRAIN; the end of TRAIN’s time gives DOWN and of RETRAIN’s gives TRAIN; a DATA cell of the
expected sequence number is acknowledged and moves it on, one of another does not; an uncorrectable cell and one with a reserved type or
field are counted; ACK drops cells, NAK and a timeout resend them, eight sendings retrain; CREDIT returns credits; NEIGH is kept, and one
that is not consistent leaves MISWIRED; a CTRL cell carries at most 40 items. Where a clause says so, the other ports stay. (R301, R302,
R303, R308, R309, R310, R312, R313, R320, Table 14.3, Table 14.4) -/
def Obligations.PortsMove : Prop :=
  ∀ (s : State) (p : PortId),
    ((s.port p.val).st = 0 → s.portOn p.val = true → s.board.pinsTaken = false → ∃ t, exec (.portSignalDetect p) s = .next t ∧ (t.port p.val).st = 1
      ∧ (t.port p.val).trains = min ((s.port p.val).trains + 1) 0xFFFF ∧ ∀ q ≠ p.val, t.port q = s.port q) ∧
    (s.time.phase < treadClk → (s.board.pinsTaken = true ∨ s.portOn p.val = false) → exec (.portSignalDetect p) s = .next s) ∧
    ((s.port p.val).st = 1 → s.board.pinsTaken = false → ∃ t, exec (.codewordLock p) s = .next t ∧ (t.port p.val).locked = true) ∧
    ((s.port p.val).st = 3 → s.board.pinsTaken = false → ∃ t, exec (.codewordLock p) s = .next t ∧ (t.port p.val).st = 2 ∧ ∀ q ≠ p.val, t.port q = s.port q) ∧
    ((s.port p.val).st = 2 → ∃ t, exec (.codewordLockLoss p) s = .next t ∧ (t.port p.val).st = 3 ∧ (t.port p.val).kept = true) ∧
    ((s.port p.val).st = 1 → ∃ t, exec (.codewordLockLoss p) s = .next t ∧ (t.port p.val).locked = false ∧ (t.port p.val).st = 1) ∧
    ((s.port p.val).st = 1 → exec (.trainTimeout p) s = .next (s.keepPort (s.portDown p.val))) ∧
    ((s.port p.val).st = 3 → ∃ t, exec (.retrainTimeout p) s = .next t ∧ (t.port p.val).st = 1 ∧ (t.port p.val).kept = true) ∧
    (∀ (header : BitVec 20) (body : List Byte) (clk : Clk) (eighth : Fin 8), (s.port p.val).st = 2 → s.board.pinsTaken = false →
      (bits header.toNat 18 2 = 1 → bits header.toNat 0 6 = 0 →
        ∃ t, exec (.cellReceive p false header body clk eighth) s = .next t ∧
          if bits header.toNat 6 12 = (s.port p.val).expect then
            (t.port p.val).expect = ((s.port p.val).expect + 1) % 4096 ∧ (t.port p.val).nak = none
          else (t.port p.val).expect = (s.port p.val).expect ∧ (t.port p.val).nak.isSome = true) ∧
      ((bits header.toNat 18 2 = 3 ∨ bits header.toNat 0 6 ≠ 0) → ∃ t, exec (.cellReceive p false header body clk eighth) s = .next t
        ∧ (t.port p.val).expect = (s.port p.val).expect
        ∧ Tab.cnt (t.port p.val).perr Perr.badcell = min (Tab.cnt (s.port p.val).perr Perr.badcell + 1) 0xFFFF)) ∧
    (∀ (header : BitVec 20) (body : List Byte) (clk : Clk) (eighth : Fin 8), (s.port p.val).st ≠ 0 → s.board.pinsTaken = false →
      ∃ t, exec (.cellReceive p true header body clk eighth) s = .next t ∧ (t.port p.val).expect = (s.port p.val).expect
        ∧ Tab.cnt (t.port p.val).perr Perr.fecunc = min (Tab.cnt (s.port p.val).perr Perr.fecunc + 1) 0xFFFF) ∧
    (∀ (c : Fin 4096) (i : Nat), replayPos (s.port p.val).replay c.val = some i → ∃ t, exec (.ack p c) s = .next t
      ∧ (t.port p.val).replay = (s.port p.val).replay.drop (i + 1) ∧ ∀ q ≠ p.val, t.port q = s.port q) ∧
    (∀ (c : Fin 4096) (i : Nat), (s.port p.val).st = 2 → replayPos (s.port p.val).replay c.val = some i → ∃ t, exec (.nak p c) s = .next t
      ∧ (t.port p.val).replay = (s.port p.val).replay.take i ++ ((s.port p.val).replay.drop i).map fun c => (c.1, c.2 + 1)) ∧
    ((s.port p.val).st = 2 → (s.port p.val).replay ≠ [] → ∃ t, exec (.replayTimeout p) s = .next t
      ∧ (t.port p.val).replay = (s.port p.val).replay.map fun c => (c.1, c.2 + 1)) ∧
    ((s.port p.val).st = 2 → (∃ c ∈ (s.port p.val).replay, 8 ≤ c.2) → ∃ t, exec (.retryLimit p) s = .next t ∧ (t.port p.val).st = 3) ∧
    (∀ (vc : Fin 6) (pool : Fin 33) (freed : Fin 65536), (s.port p.val).st = 2 → ∃ t, exec (.credit p vc pool freed) s = .next t
      ∧ Tab.cnt (t.port p.val).heardFreed (vc.val * 64 + pool.val) = freed.val
      ∧ Tab.cnt (t.port p.val).used (vc.val * 64 + pool.val) = Tab.cnt (s.port p.val).used (vc.val * 64 + pool.val)
          - (freed.val + 65536 - Tab.cnt (s.port p.val).heardFreed (vc.val * 64 + pool.val)) % 65536) ∧
    (∀ (num : Fin 131072) (nport : Fin 16) (keep : Bool), (s.port p.val).st = 2 → s.board.pinsTaken = false → s.neighOk p.val num.val nport.val = true →
      ∃ t, exec (.neigh p num nport keep) s = .next t ∧ (t.port p.val).neigh = num.val ∧ (t.port p.val).nport = nport.val
        ∧ (t.port p.val).st = 2) ∧
    (∀ (num : Fin 131072) (nport : Fin 16) (keep : Bool), (s.port p.val).st = 2 → s.board.pinsTaken = false → s.neighOk p.val num.val nport.val = false →
      ∃ t, exec (.neigh p num nport keep) s = .next t ∧ (t.port p.val).st = 4) ∧
    ((s.port p.val).st = 2 → (s.port p.val).items ≠ [] → ∃ t, exec (.ctrlCellSend p) s = .next t
      ∧ (t.port p.val).ctrlOut = (s.port p.val).items.take 40 ∧ (t.port p.val).items = (s.port p.val).items.drop 40)

/-- An UP port whose arbitration chooses a frame among the first of each flow takes it out of its queue, whatever injection is set; with none
set, and nothing held back by REORDER, the frame stands at the port’s output and takes its pool’s credits. A frame that REORDER held back
goes first, once the replay buffer has room. With nothing to send, or on a port that is not UP, nothing changes. A well-formed transit frame
toward an open port waits there in the pool of transit, poisoned if its payload read uncorrectable, or behind a record that stands at the
head of its path; one with no open port is unreachable; a header error is counted, and so is a malformed frame, or one of another type than
MIRROR on T. A frame for this module is served, or joins its record. (R159, R313, R317, R319, R320, R322, R325, R332, R344, R360, Table
14.6) -/
def Obligations.FramesMove : Prop :=
  ∀ (s : State) (p : PortId),
    (∀ (q : Nat) (y : QFrame) (acc : Tab Int), (s.port p.val).st = 2 → (s.port p.val).late = [] →
      serveQueue (fun q => bits (s.pf Reg.dmaQwgt) (4 * q) 4) ((s.sendable p.val).map (·.q)).eraseDups (s.port p.val).acc = (some q, acc) →
      chooseFrame s.requesters s.fab.ptr ((s.sendable p.val).filter fun y => y.q = q) = some y →
      (∃ t, exec (.frameTransmit p) s = .next t ∧ (t.port p.val).txq = (s.port p.val).txq.erase y
        ∧ (t.port p.val).acc = acc.filter (fun z => ((s.port p.val).txq.erase y).any fun x => x.q = z.1)) ∧
      (bits (s.pf (Reg.halInj + 8 * p.val)) 32 3 = 0 → (s.port p.val).held = [] →
        ∃ t, exec (.frameTransmit p) s = .next t ∧ (t.port p.val).txq = (s.port p.val).txq.erase y ∧ (t.port p.val).out = [y.f]
          ∧ (t.port p.val).late = [] ∧ Tab.cnt (t.port p.val).used ((2 * classOf y.f.typ + y.f.vc) * 64 + y.f.pool)
            = Tab.cnt (s.port p.val).used ((2 * classOf y.f.typ + y.f.vc) * 64 + y.f.pool) + frameCredits y.f.payload.length)) ∧
    (∀ (y : QFrame) (rest : List QFrame), (s.port p.val).st = 2 → (s.port p.val).late = y :: rest →
      (s.port p.val).replay.length + (s.port p.val).newCells (32 + y.f.payload.length) ≤ 256 →
      ∃ t, exec (.frameTransmit p) s = .next t ∧ (t.port p.val).out = [y.f] ∧ (t.port p.val).late = rest
        ∧ (t.port p.val).txq = (s.port p.val).txq) ∧
    (s.time.phase < treadClk → ((s.port p.val).st ≠ 2 ∨ (s.port p.val).late = [] ∧ s.sendable p.val = []) →
      exec (.frameTransmit p) s = .next s) ∧
    (s.time.phase < treadClk → (s.port p.val).st ≠ 2 → ∀ f hb pb, exec (.frameForward p f hb pb) s = .next s) ∧
    (∀ (f : Frame) (bad : Bool), (s.port p.val).st = 2 →
      let u := s.takeFrame p.val f
      let g := if bad then { f with pzn := true } else f
      (s.malformed g = true ∨ p.val = 8 ∧ f.typ ≠ 7 → exec (.frameForward p f false bad) s = .next (s.keepFrame (u.dropMalformed p.val g))) ∧
      (s.malformed g = false → p.val ≠ 8 → f.dst ≠ s.me →
        (classOf f.typ ≠ 2 ∨ ∀ x ∈ s.fab.heads, ¬(x.2.port = p.val ∧ x.2.vc = f.vc % 2)) →
        (∀ q vc, s.inHall = true → s.route f.dst (some (p.val, f.vc)) = some (q, vc) → s.portOpen q = true →
          ∃ t rid, exec (.frameForward p f false bad) s = .next t ∧ (t.port q).txq = (s.port q).txq
              ++ [⟨{ g with vc := vc, pool := 32 }, f.prio, f.swing, 2048 + p.val, rid, some (p.val, frameVci f, f.pool % 64)⟩]
            ∧ ∀ r, r ≠ q → r ≠ p.val → t.port r = s.port r) ∧
        (∀ q vc, s.inHall = true → s.route f.dst (some (p.val, f.vc)) = some (q, vc) → s.portOpen q = false →
          exec (.frameForward p f false bad) s = .next (s.keepFrame ((u.unreachable q g).freeFrame p.val g)))) ∧
      (s.malformed g = false → p.val ≠ 8 → f.dst ≠ s.me → classOf f.typ = 2 →
        (∃ x ∈ s.fab.heads, x.2.port = p.val ∧ x.2.vc = f.vc % 2) →
        ∃ t x, exec (.frameForward p f false bad) s = .next t ∧ t.fab.heads = s.fab.heads ++ [x] ∧ x.2.port = p.val ∧ x.2.vc = f.vc % 2
          ∧ x.2.bytes = frameHead g ++ f.payload ∧ ∀ r, (t.port r).txq = (s.port r).txq) ∧
      (s.malformed g = false → (p.val ≠ 8 ∧ f.dst = s.me ∨ p.val = 8 ∧ f.typ = 7) → exec (.frameForward p f false bad) s
        = .next (s.keepFrame (if classOf f.typ = 2 then u.joinFrame State.deliverRec p.val g else u.serveFrame p.val g))) ∧
      ∃ t, exec (.frameForward p f true bad) s = .next t
        ∧ Tab.cnt (t.port p.val).perr Perr.malformed = min (Tab.cnt (s.port p.val).perr Perr.malformed + 1) 0xFFFF
        ∧ (t.port p.val).txq = (s.port p.val).txq ∧ ∀ q ≠ p.val, t.port q = s.port q)

/-- REQUEST_TIMEOUT of an open request whose RTO treads (at least one), counted from the first boundary at or behind its issue, are over ends
it: its answer is poison, TIMEOUTS of its port counts it, and what it was made for goes on. A request whose window is still open, or a tag
with no open request, changes nothing. (R326, R34, R11) -/
def Obligations.RequestTimesOut : Prop :=
  ∀ (s : State) (tag : Nat) (clk : Clk),
    let q := s.at_ clk.val
    (∀ r : RemReq, s.fab.reqs.find? (fun x => x.tag = tag && !x.done) = some r →
      treadReached (treadAdd r.tread (max 1 (bits (s.pf Reg.halRto) 0 16) + if r.clk = 0 then 0 else 1)) s.time.tread = true →
      exec (.requestTimeout tag clk) s = .next (s.keepFrame (((q.answerPoison r.tag).perr r.port Perr.timeouts 1).rawSettle))) ∧
    (∀ r : RemReq, s.fab.reqs.find? (fun x => x.tag = tag && !x.done) = some r →
      treadReached (treadAdd r.tread (max 1 (bits (s.pf Reg.halRto) 0 16) + if r.clk = 0 then 0 else 1)) s.time.tread = false →
      s.time.phase < treadClk → exec (.requestTimeout tag clk) s = .next s) ∧
    (s.fab.reqs.find? (fun x => x.tag = tag && !x.done) = none → s.time.phase < treadClk → exec (.requestTimeout tag clk) s = .next s) ∧
    ∀ (x : State) (r : RemReq), x.fab.reqs.find? (fun y => y.tag = r.tag) = some r →
      x.answerPoison r.tag = x.answer r.tag false (if r.write then [] else List.replicate r.len (0, true))

/-- At an UP hall port a well-formed request for this module is window-checked in wing DWING and answered OK or FAULT; a WRREQ leaves every byte
outside the lines’ parts it addresses as it was, or as it stood behind a dirty line whose write back is lost, and one that is refused
changes no byte. A response in the window of its request answers it; one after it ends the request as timed out, and either that or one with
no request counts in LATERSP. T carries none of them. (R27, R34, R316, R324, R291, R326) -/
def Obligations.RequestsAreServed : Prop :=
  ∀ (s : State) (p : PortId) (f : Frame) (clk : Clk), (s.port p.val).st = 2 → f.dst = s.me → s.malformed f = false →
    let w := f.dwing
    let q := ((s.takeFrame p.val f).at_ clk.val).delivered p.val f
    (p.val = 8 → ∀ i ∈ ([.rdreq p f clk, .rdrsp p f clk, .wrreq p f clk, .wrrsp p f clk, .rawreq p f clk] : List Instr),
      exec i s = .next (s.keepFrame s)) ∧
    (p.val ≠ 8 → f.typ = 0 → exec (.rdreq p f clk) s = .next (s.keepFrame (if q.mappedIn w (q.bankNow w) [1, 2] f.addr f.rlen then
      (q.read (q.reqOf w) f.addr f.rlen).2.respond p.val f 0 (q.read (q.reqOf w) f.addr f.rlen).1
      else (q.refuse w f.addr false).respond p.val f 1 []))) ∧
    (p.val ≠ 8 → f.typ = 2 →
      exec (.wrreq p f clk) s = .next (s.keepFrame (if q.mappedIn w (q.bankNow w) [1, 2] f.addr f.payload.length = true
          ∧ q.barred w f.addr f.payload.length = false then
        (q.write (q.reqOf w) f.addr (f.payload.map fun b => (b, f.pzn))).respond p.val f 0 []
        else (q.refuse w f.addr false).respond p.val f 1 []))) ∧
    (p.val ≠ 8 → f.typ = 2 → s.mem.wf = true → ∃ t, exec (.wrreq p f clk) s = .next t ∧ ∀ a,
      ((q.mappedIn w (q.bankNow w) [1, 2] f.addr f.payload.length && !q.barred w f.addr f.payload.length) = true →
        ∀ x ∈ linePieces f.addr f.payload.length, ¬(q.place (q.reqOf w) x.1 ≤ a ∧ a < q.place (q.reqOf w) x.1 + x.2)) →
      s.byteKept t a) ∧
    (p.val ≠ 8 → f.typ = 8 → exec (.rawreq p f clk) s = .next (s.keepFrame (match q.rawServe w f.addr f.rlen f.epoch with
      | (some d, x) => x.respond p.val f 0 d
      | (none, x) => x.respond p.val f 1 []))) ∧
    (∀ r, p.val ≠ 8 → f.typ = 1 → q.fab.reqs.find? (fun x => x.tag = f.tag && !x.done && !x.write) = some r →
      (q.reqLate r = false → f.status = 0 → exec (.rdrsp p f clk) s = .next (s.keepFrame ((q.answer f.tag false
        ((f.payload.take r.len).map (fun b => (b, f.pzn)) ++ List.replicate (r.len - f.payload.length) (0, true))).rawSettle))) ∧
      (q.reqLate r = false → f.status = 1 → exec (.rdrsp p f clk) s = .next (s.keepFrame (q.answer f.tag true []).rawSettle)) ∧
      (q.reqLate r = false → 1 < f.status → exec (.rdrsp p f clk) s = .next (s.keepFrame (q.answerPoison f.tag).rawSettle)) ∧
      (q.reqLate r = true → exec (.rdrsp p f clk) s
        = .next (s.keepFrame ((q.reqTimeout r fun s _ => s.rawSettle).perr p.val Perr.latersp 1)))) ∧
    (∀ r, p.val ≠ 8 → f.typ = 3 → q.fab.reqs.find? (fun x => x.tag = f.tag && !x.done && x.write) = some r →
      (q.reqLate r = false → f.status = 0 → exec (.wrrsp p f clk) s = .next (s.keepFrame (q.answer f.tag false []).rawSettle)) ∧
      (q.reqLate r = false → f.status = 1 → exec (.wrrsp p f clk) s = .next (s.keepFrame (q.answer f.tag true []).rawSettle)) ∧
      (q.reqLate r = false → 1 < f.status → exec (.wrrsp p f clk) s = .next (s.keepFrame (q.answerPoison f.tag).rawSettle)) ∧
      (q.reqLate r = true → exec (.wrrsp p f clk) s
        = .next (s.keepFrame ((q.reqTimeout r fun s _ => s.rawSettle).perr p.val Perr.latersp 1)))) ∧
    (p.val ≠ 8 → f.typ = 1 → q.fab.reqs.find? (fun x => x.tag = f.tag && !x.done && !x.write) = none →
      exec (.rdrsp p f clk) s = .next (s.keepFrame (q.perr p.val Perr.latersp 1))) ∧
    (p.val ≠ 8 → f.typ = 3 → q.fab.reqs.find? (fun x => x.tag = f.tag && !x.done && x.write) = none →
      exec (.wrrsp p f clk) s = .next (s.keepFrame (q.perr p.val Perr.latersp 1)))

/-- A record at an UP hall port behind no other of its path is charged and placed at once: a token record or a return record with no entry of
its XID counts in DROP, one of another round counts in LATE; a delta record acts by its epoch; a contribution enters its ring, or waits in
the hold while the ring is full, or else at the head of its path, which counts. A record behind one that waits on its path waits too. T
brings none of these. HOLD_PLACE places the first record of the hold that can be placed, and those at the heads of paths follow. (R27, R34,
R258, R262, R264, R271, R290, R321) -/
def Obligations.RecordsArrive : Prop :=
  ∀ (s : State) (r : RecIn) (clk : Clk),
    let q := (s.at_ clk.val).chargeRecord r
    (8 ≤ r.port → ∀ i ∈ ([.tokenRecord r clk, .returnRecord r clk, .contributionRecord r clk, .deltaRecord r clk] : List Instr),
      exec i s = .next (s.keepFrame s)) ∧
    (r.port < 8 → (s.port r.port).st = 2 → s.fab.heads.any (fun x => sameVc x.2 r) = false →
      exec (.tokenRecord r clk) s = .next (s.keepFrame ((q.tokenIn r).recordGone r)) ∧
      exec (.returnRecord r clk) s = .next (s.keepFrame ((q.returnIn r).recordGone r)) ∧
      exec (.deltaRecord r clk) s = .next (s.keepFrame ((q.deltaIn r).recordGone r)) ∧
      (∀ t, q.ringWaits 2 r (q.hold_ r.dwing) = false → q.contribIn r = (t, true) →
        exec (.contributionRecord r clk) s = .next (s.keepFrame (t.recordGone r))) ∧
      ((q.ringWaits 2 r (q.hold_ r.dwing) = true ∨ (q.contribIn r).2 = false) →
        exec (.contributionRecord r clk) s = .next (s.keepFrame (if q.holdRoom r.dwing r.bytes.length then
            (q.setHold r.dwing (q.hold_ r.dwing ++ [(2, r)])).recordGone r
          else
            let u := q.perr r.port Perr.holdwait 1
            { u with fab := { u.fab with heads := u.fab.heads ++ [(2, r)] } })))) ∧
    (r.port < 8 → (s.port r.port).st = 2 → s.fab.heads.any (fun x => sameVc x.2 r) = true →
      ∀ x ∈ ([(.tokenRecord r clk, 0), (.returnRecord r clk, 1), (.contributionRecord r clk, 2), (.deltaRecord r clk, 3)] : List (Instr × Nat)),
      ∃ t, exec x.1 s = .next t ∧ t.fab.heads = s.fab.heads ++ [(x.2, r)] ∧ t.mem = s.mem) ∧
    (let x := bits (fieldN r.bytes 8 8) 40 12
      let u := q.xchSee r.dwing x
      (u.xchEnt r.dwing x 1 = none → q.tokenIn r = u.xchDrop r.dwing) ∧
      ∀ e, u.xchEnt r.dwing x 1 = some e → (e.state ≠ 1 ∨ bits (fieldN r.bytes 0 8) 48 16 ≠ e.round) →
        q.tokenIn r = u.xchLate r.dwing x 1) ∧
    (let x := bits (fieldN r.bytes 0 8) 48 12
      let u := q.xchSee r.dwing x
      (u.xchEnt r.dwing x 2 = none → q.returnIn r = u.xchDrop r.dwing) ∧
      ∀ e, u.xchEnt r.dwing x 2 = some e → (e.state ≠ 1 ∨ bits (fieldN r.bytes 0 8) 32 16 ≠ e.round) →
        q.returnIn r = u.xchLate r.dwing x 1) ∧
    (∀ (w : WingId) (x : State), (s.at_ clk.val).holdStep w.val [] ((s.at_ clk.val).hold_ w.val) = some x →
      exec (.holdPlace w clk) s = .next (s.keepFrame (retryHeads x.fab.heads [] [] x)))

/-- The first block that waits for its raw codes is requested while fewer than 64 are out and the wing does not quiesce: it is counted, and the
reference copy is asked for the pending epoch, or served at once when it is this module’s own; one that names no module is refused, which is
a failed attempt. (R291, R292) -/
def Obligations.RawRequestsIssue : Prop :=
  ∀ (s : State) (w : WingId) (x : RawBlk) (c r : LayEnt), (s.job w.val).turn.raws.find? (fun x => !x.out) = some x →
    (s.pendEnts w.val)[x.entry]? = some c → s.rawOut w.val < 64 → (s.wing w.val).quiet = false → refOf (s.pendEnts w.val) c = some r →
    let v0 := match (s.job w.val).turn.pend with | some (b, _) => s.fetchIn w.val (b + 64 + 32 * x.entry) 32 | none => s
    let u := v0.modTurn w.val fun t => { t with
      rawreq := (t.rawreq + 1) % 2 ^ 32, raws := t.raws.map fun y => if y.idx = x.idx then { y with out := true } else y }
    let a := r.loc + refOff r c x.block
    let n := c.blen x.block
    let ep := ((s.job w.val).turn.lep + 1) % 2 ^ 32
    (u.namesMe r.gaddr = false → u.hallCount ≤ r.gaddr / 2 ^ 47 →
      exec (.rawRequestIssue w) s = .next (s.keepFrame ((u.refuse w.val a true).rawResult w.val x.idx [] true))) ∧
    (∀ v, u.namesMe r.gaddr = true → u.rawServe r.wing a n ep = (none, v) →
      exec (.rawRequestIssue w) s = .next (s.keepFrame (v.rawResult w.val x.idx [] true))) ∧
    (u.namesMe r.gaddr = false → r.gaddr / 2 ^ 47 < u.hallCount → exec (.rawRequestIssue w) s = .next (s.keepFrame ((u.remote w.val r.wing 2047 (rawOwn w.val x.idx) 0
      (r.gaddr / 2 ^ 47) a n (bits (u.we w.val Reg.wngTurnCtrl) 0 3) 8 ep none).rawSettle))) ∧
    (∀ d v, u.namesMe r.gaddr = true → u.rawServe r.wing a n ep = (some d, v) →
      exec (.rawRequestIssue w) s = .next (s.keepFrame (v.rawResult w.val x.idx d false)))

/-- A running round reads, codes and counts one block, and ends with a COMMIT record behind the last: where T takes it, the wing is then DONE
and not DIRTY, and where T is not UP or the wing has no pool on it, DIRTY and not DONE. At the twin a COMMIT record that names the number of
blocks landed exchanges the halves and keeps the round and the epochs, and any other fails the round; a raw block record with the right
check value lands in the half that is not committed, and one with another fails the round. A failure reply of the round fails it at the
sender. (R327, R329, R330, R331, Table 14.9) -/
def Obligations.MirrorRounds : Prop :=
  ∀ (s : State) (clk : Clk),
    (∀ (w : WingId) (i : Nat), (s.job w.val).mir.run = true → (s.wing w.val).quiet = false → s.mirFrom w.val (s.job w.val).mir.desc = some i →
      ∃ t, exec (.mirrorBlock w) s = .next t ∧ (t.job w.val).mir.count = ((s.job w.val).mir.count + 1) % 2 ^ 32
        ∧ (t.job w.val).mir.round = (s.job w.val).mir.round ∧
        let d := (s.fetchIn w.val (addrOf (s.wr w.val Reg.wngMir) 5 + 32 * i) 32).mirDesc w.val i
        (if d.nblk ≤ (s.job w.val).mir.block + 1 then (t.job w.val).mir.desc = i + 1 ∧ (t.job w.val).mir.block = 0
          else (t.job w.val).mir.desc = i ∧ (t.job w.val).mir.block = (s.job w.val).mir.block + 1)) ∧
    (∀ w : WingId, (s.job w.val).mir.run = true → (s.wing w.val).quiet = false → s.mirFrom w.val (s.job w.val).mir.desc = none →
      let sent := s.inHall && s.portOpen 8 && decide (s.wingPool 8 4 w.val ≠ 0)
      ∃ t, exec (.mirrorCommitSend w) s = .next t ∧ (t.job w.val).mir.run = false ∧ (t.job w.val).mir.done = sent
        ∧ (t.job w.val).mir.dirty = !sent ∧ (t.job w.val).mir.round = (s.job w.val).mir.round ∧ t.mem = s.mem) ∧
    (∀ r : RecIn, r.port = 8 → (s.port 8).st = 2 →
      let q := ((s.at_ clk.val).chargeRecord r).recordGone r
      let h := fieldN r.bytes 16 4
      let m := (s.job r.dwing).mir
      m.rr = some (fieldN r.bytes 0 4) → m.failed = false → bit (q.wr r.dwing Reg.wngMirRx) 30 = true →
      (bits h 22 2 = 3 → bits h 0 17 = 0 → fieldN r.bytes 20 4 = m.landed → ∃ t, exec (.mirrorCommit r clk) s = .next t
        ∧ (t.job r.dwing).mir.half = 1 - m.half ∧ (t.job r.dwing).mir.cround = fieldN r.bytes 0 4
        ∧ (t.job r.dwing).mir.wepoch = fieldN r.bytes 28 4 ∧ (t.job r.dwing).mir.lepoch = fieldN r.bytes 24 4
        ∧ (t.job r.dwing).mir.rr = none ∧ (t.job r.dwing).mir.landed = 0 ∧ t.mem = s.mem) ∧
      (bits h 22 2 = 3 → bits h 0 17 = 0 → fieldN r.bytes 20 4 ≠ m.landed → ∃ t, exec (.mirrorCommit r clk) s = .next t
        ∧ (t.job r.dwing).mir.failed = true ∧ (t.job r.dwing).mir.half = m.half ∧ (t.job r.dwing).mir.cround = m.cround) ∧
      (bits h 22 2 = 1 → r.pzn = false →
        let old := r.addr + m.half * r.nblk * 4096
        let new := r.addr + (1 - m.half) * r.nblk * 4096
        q.mappedIn r.dwing (q.bankNow r.dwing) [1, 2] old 4096 = true → q.mappedIn r.dwing (q.bankNow r.dwing) [1, 2] new 4096 = true →
        q.barred r.dwing new 4096 = false →
        exec (.mirrorRecord r clk) s = .next (s.keepFrame (if shakeCheck (sliceB (r.bytes.drop 32) 0 4096) = fieldN r.bytes 24 8 then
            (q.write (q.reqOf r.dwing) new (clean (sliceB (r.bytes.drop 32) 0 4096))).modMir
              r.dwing fun m => { m with landed := (m.landed + 1) % 2 ^ 32 }
          else q.mirRefuse r)))) ∧
    (∀ r : RecIn, r.port = 8 → (s.port 8).st = 2 → bits (fieldN r.bytes 16 4) 22 2 = 3 → bits (fieldN r.bytes 16 4) 0 17 = 1 →
      bit (s.wr r.dwing Reg.wngMir) 63 = true → fieldN r.bytes 0 4 = (s.job r.dwing).mir.round → ∃ t, exec (.mirrorFailureReply r) s = .next t
        ∧ (t.job r.dwing).mir.run = false ∧ (t.job r.dwing).mir.done = false ∧ (t.job r.dwing).mir.dirty = true ∧ t.mem = s.mem)

/-- In TRAIN, while no test instruction has the pins, a directly attached Type-3 device brings the port UP with its capacity in units of 256
MiB, at most 8,192, and any other partner leaves REJECT with nothing mapped; loss of the link gives TRAIN; a read that is not complete after
CXL_CTO.CTO µs, at least 50, is counted in TIMEOUTS, and not before, its later completion in LATE; a poisoned completion marks the line.
Loss of link changes no byte of memory and no line of the gallery. The other port stays. (R135, R137, R446, R447, R448) -/
def Obligations.CxlPortsAct : Prop :=
  ∀ (s : State) (p : Fin 2),
    (∀ x : CxlPartner, (s.cxlPort p.val).st = 1 → s.board.pinsTaken = false → ∃ t, exec (.cxlLinkUp p x) s = .next t ∧ (∀ q ≠ p.val, t.cxlPort q = s.cxlPort q) ∧
      if x.type3Direct = true then (t.cxlPort p.val).st = 2 ∧ (t.cxlPort p.val).size = min (x.capacity / 0x10000000) 8192
      else (t.cxlPort p.val).st = 3 ∧ (t.cxlPort p.val).size = 0) ∧
    (2 ≤ (s.cxlPort p.val).st → ∃ t, exec (.cxlLinkDown p) s = .next t ∧ (t.cxlPort p.val).st = 1 ∧ (t.cxlPort p.val).speed = 0
      ∧ (t.cxlPort p.val).width = 0 ∧ (t.cxlPort p.val).size = (s.cxlPort p.val).size ∧ t.mem = s.mem ∧ t.gal = s.gal
      ∧ ∀ q ≠ p.val, t.cxlPort q = s.cxlPort q) ∧
    (∀ a off, (s.cxlPort p.val).st = 2 → s.region a = .cxl p.val off → s.gal.locate a = none →
      (∀ openClk, max 50 (bits (s.pf (Reg.cxlCto + 0x100 * p.val)) 0 16) * 940 ≤ openClk →
      ∃ t, exec (.cxlCompletionTimeout p a openClk) s = .next t ∧ (t.cxlPort p.val).timeouts = min ((s.cxlPort p.val).timeouts + 1) 0xFFFF
        ∧ a / 256 ∈ (t.cxlPort p.val).timed ∧ a / 256 ∈ (t.cxlPort p.val).gone ∧ t.mem = s.mem) ∧
      ∀ openClk, openClk < max 50 (bits (s.pf (Reg.cxlCto + 0x100 * p.val)) 0 16) * 940 →
        exec (.cxlCompletionTimeout p a openClk) s = .next s) ∧
    (∀ a poison, a / 256 ∈ (s.cxlPort p.val).gone → ∃ t, exec (.cxlReadCompletion p a poison) s = .next t
      ∧ (t.cxlPort p.val).late = min ((s.cxlPort p.val).late + 1) 0xFFFF ∧ (t.cxlPort p.val).gone = (s.cxlPort p.val).gone.erase (a / 256)
      ∧ t.mem = s.mem) ∧
    (∀ a off, s.mem.wf = true → a / 256 ∉ (s.cxlPort p.val).gone → (s.cxlPort p.val).st = 2 → s.region a = .cxl p.val off →
      s.gal.locate a = none →
      exec (.cxlReadCompletion p a false) s = .next s ∧
      ∃ t, exec (.cxlReadCompletion p a true) s = .next t ∧ t.mem.cells = s.mem.cells
        ∧ ∀ w, Tab.cnt t.mem.errs w = if a / 256 * 64 ≤ w ∧ w < a / 256 * 64 + 64 then 127 else Tab.cnt s.mem.errs w)

/-- With the rails up every read gives the bytes of Table 20.5, ALERT_CLR clears the bits written as 1, and BCAP keeps a cap for the next
boundary; a write of the wrong length, a command code that is not assigned (for which the row IDENT stands, log entry 79), and any command
with the rails down or while the TAP holds the pins, is answered with NACK and changes nothing else. (R451, R452, R455, R458, Table 20.5) -/
def Obligations.SidebandAnswers : Prop :=
  ∀ s : State,
    let said (b : Option (List Byte)) : State := { s with ans := { s.ans with sb := b } }
    (s.boot.rails = true → s.board.pinsTaken = false →
      (∀ code, exec (.ident (some code)) s = .next (said none)) ∧
      exec (.ident none) s = .next (said (some (leBytes 16 Config.serial.toNat ++ [0x10] ++ leBytes 2 1 ++ leBytes 1 s.boot.slot))) ∧
      exec .stateRead s = .next (said (some (leBytes 4 (s.boot.st + s.time.lock * 16 + b2n (s.ready && bit (s.fnSt 0).ctrl 0) * 64 + b2n s.trust.dbgSeen * 128)))) ∧
      exec .temp s = .next (said (some (leBytes 4 (ofSigned 16 s.power.temp8 + popCount64 s.svc.tsExcl * 65536)))) ∧
      (∀ mv ma, exec (.power mv ma) s
        = .next (said (some (leBytes 2 (mv / 10) ++ leBytes 2 (ma / 10) ++ leBytes 2 s.power.avgW ++ leBytes 2 s.capW)))) ∧
      exec .alerts s = .next (said (some (leBytes 4 s.board.alerts))) ∧
      exec .bist s = .next (said (some (leBytes 4 s.svcBist))) ∧
      exec (.bcap none) s = .next (said (some (leBytes 2 (s.power.bcapNext.getD s.power.bcap)))) ∧
      (∀ b : List Byte, b.length = 4 → ∃ t, exec (.alertClr b) s = .next t ∧ t.board.alerts = s.board.alerts &&& (0xFFFFFFFF - leNat b)
        ∧ t.ans.sb = some []) ∧
      (∀ b : List Byte, b.length = 2 → ∃ t, exec (.bcap (some b)) s = .next t ∧ t.power.bcapNext = some (leNat b)
        ∧ t.power.bcap = s.power.bcap ∧ t.ans.sb = some [])) ∧
    (∀ b : List Byte, (b.length ≠ 4 → exec (.alertClr b) s = .next (said none)) ∧ (b.length ≠ 2 → exec (.bcap (some b)) s = .next (said none))) ∧
    ((s.boot.rails = false ∨ s.board.pinsTaken = true) → ∀ o, exec (.ident o) s = .next (said none) ∧ exec .alerts s = .next (said none))

/-- Once start-up has begun, with the rails up, BYPASS, by its own code or one that is not assigned, IDCODE and SAMPLE/PRELOAD leave the pins;
EXTEST, EXTEST_PULSE, EXTEST_TRAIN, CLAMP and HIGHZ take them and no port stays UP; the first return to Test-Logic-Reset after one of these
is a warm device reset, and any other changes the instruction register alone. Any of them sets DEBUG_SEEN; the first exit keeps its tread,
and later ones count. Before, or without the rails, the port does nothing. (R403, R405, R453, R455, R471, Table 20.7) -/
def Obligations.TestPortInstructions : Prop :=
  ∀ s : State,
    (s.boot.rails = false ∨ s.boot.st = 0 → ∀ i ∈ ([.idcode, .clamp, .highz, .tapTlrReturn] : List Instr), exec i s = .next s) ∧
    (s.boot.rails = true → s.boot.st ≠ 0 →
    (∀ code : BitVec 8, ∃ t, exec (.bypass code) s = .next t ∧ t.board.tapIr = code.toNat ∧ t.board.tapDr = 0 ∧ t.board.pinsTaken = false
      ∧ t.trust.dbgSeen = true ∧ t.ports = s.ports) ∧
    (∃ t, exec .idcode s = .next t ∧ t.board.tapIr = 1 ∧ t.ans.tap = 2 ^ 28 + 0x0940 * 2 ^ 12 + Config.jep106.toNat * 2 + 1
      ∧ t.board.pinsTaken = false ∧ t.trust.dbgSeen = true ∧ t.ports = s.ports) ∧
    (∀ preload, ∃ t, exec (.samplePreload preload) s = .next t ∧ t.board.tapIr = 2 ∧ t.board.bsr = preload ∧ t.board.pinsTaken = false
      ∧ t.trust.dbgSeen = true ∧ t.ports = s.ports) ∧
    (∀ drive : Nat, ∀ x ∈ ([(.extest drive, 3, drive), (.extestPulse drive, 4, drive), (.extestTrain drive, 5, drive), (.clamp, 6, s.board.bsr),
        (.highz, 7, s.board.bsr)] : List (Instr × Nat × Nat)),
      ∃ t, exec x.1 s = .next t ∧ t.board.tapIr = x.2.1 ∧ t.board.pinsTaken = true ∧ t.board.pinsUsed = true ∧ t.board.bsr = x.2.2
        ∧ t.trust.dbgSeen = true
        ∧ (∀ p < 9, (t.port p).st ≠ 2 ∧ ((s.port p).st ≠ 2 → t.port p = s.port p)) ∧ ∀ p < 2, (t.cxlPort p).st ≠ 2) ∧
    (∀ clk : Clk, (s.trust.dbgSeen = false → ∃ t, exec (.tapTlrExit clk) s = .next t ∧ t.trust.dbgSeen = true ∧ t.trust.dbgFirst = s.tread
        ∧ t.trust.dbgCount = s.trust.dbgCount) ∧
      (s.trust.dbgSeen = true → ∃ t, exec (.tapTlrExit clk) s = .next t
        ∧ t.trust = { s.trust with dbgCount := min (s.trust.dbgCount + 1) 0xFFFF })) ∧
    (s.board.pinsUsed = false → exec .tapTlrReturn s
      = .next { s with board := { s.board with tapIr := 1, pinsTaken := false, pinsUsed := false } }) ∧
    (s.board.pinsUsed = true → ∃ t, exec .tapTlrReturn s = .next t ∧ t.boot.st = 0 ∧ t.boot.cause = 1 ∧ t.wings = []))

/-- Every granule has one channel of 128 and one place in it, and the channel with the place gives the granule back; every aligned run of 32 KiB
holds exactly one granule on each channel. (R126) -/
def Obligations.HbmPlacementInverts : Prop :=
  (∀ ch c : Nat, ch < 128 → c < 2 ^ 24 → hbmChannel (hbmGranule ch c) = ch ∧ hbmChanAddr (hbmGranule ch c) = 256 * c) ∧
  (∀ o : Nat, o < 2 ^ 39 → hbmGranule (hbmChannel o) (hbmChanAddr o / 256) = o / 256 * 256) ∧
  (∀ run ch : Nat, run < 2 ^ 24 → ch < 128 → ∃ g, 128 * run ≤ g ∧ g < 128 * run + 128 ∧ hbmChannel (256 * g) = ch
    ∧ ∀ h, 128 * run ≤ h → h < 128 * run + 128 → hbmChannel (256 * h) = ch → h = g)

/-- In a hall of dimensions SA to SD, the number of a number’s coordinates is that number, the coordinates lie within the dimensions, and n =
((a × SB + b) × SC + c) × SD + d. (R311) -/
def Obligations.HallNumbersInvert : Prop :=
  (∀ a b c d n : Nat, 0 < a → 0 < b → 0 < c → 0 < d → n < a * b * c * d →
    numberOf [a, b, c, d] (coordsOf [a, b, c, d] n) = n) ∧
  (∀ sa sb sc sd a b c d : Nat, a < sa → b < sb → c < sc → d < sd →
    numberOf [sa, sb, sc, sd] [a, b, c, d] = ((a * sb + b) * sc + c) * sd + d ∧
    coordsOf [sa, sb, sc, sd] (((a * sb + b) * sc + c) * sd + d) = [a, b, c, d])
end

