-- ==== Sys2Proof/Laws/Table.lean ====
section
/-!
SUPPORT. Laws of sparse tables: an entry written reads back, the others stay, and the keys stay rising.
-/
namespace Sys2Proof.Machine

variable {α : Type}

@[simp] theorem find_set_same (t : Tab α) (k : Nat) (v : α) : Tab.find (Tab.set t k v) k = some v := by
  induction t with
  | nil => simp [Tab.set, Tab.find]
  | cons x t ih =>
    obtain ⟨a, b⟩ := x
    unfold Tab.set
    split
    · simp [Tab.find]
    · split
      · simp [Tab.find]
      · rename_i h1 h2
        have : a ≠ k := fun h => h2 h.symm
        simp [Tab.find, this, ih]

theorem find_set_ne (t : Tab α) (k j : Nat) (v : α) (h : j ≠ k) : Tab.find (Tab.set t k v) j = Tab.find t j := by
  induction t with
  | nil => simp [Tab.set, Tab.find, h.symm]
  | cons x t ih =>
    obtain ⟨a, b⟩ := x
    unfold Tab.set
    split
    · simp [Tab.find, h.symm]
    · split
      · rename_i _ h2
        subst h2
        simp [Tab.find, h.symm]
      · simp [Tab.find, ih]

@[simp] theorem cnt_set_same (t : Tab Nat) (k v : Nat) : Tab.cnt (Tab.set t k v) k = v := by simp [Tab.cnt]

theorem cnt_set_ne (t : Tab Nat) (k j v : Nat) (h : j ≠ k) : Tab.cnt (Tab.set t k v) j = Tab.cnt t j := by
  simp [Tab.cnt, find_set_ne t k j v h]

/-- Membership in a written table: the new entry or an old one. -/
theorem mem_set {t : Tab α} {k : Nat} {v : α} {x : Nat × α} (h : x ∈ Tab.set t k v) : x = (k, v) ∨ x ∈ t := by
  induction t with
  | nil => simpa [Tab.set] using h
  | cons y t ih =>
    obtain ⟨a, b⟩ := y
    unfold Tab.set at h
    split at h
    · simpa using h
    · split at h
      · simp only [List.mem_cons] at h ⊢
        tauto
      · simp only [List.mem_cons] at h ⊢
        rcases h with h | h
        · exact .inr (.inl h)
        · rcases ih h with h | h
          · exact .inl h
          · exact .inr (.inr h)

theorem mem_erase {t : Tab α} {k : Nat} {x : Nat × α} (h : x ∈ Tab.erase t k) : x ∈ t := by
  induction t with
  | nil => simp [Tab.erase] at h
  | cons y t ih =>
    obtain ⟨a, b⟩ := y
    unfold Tab.erase at h
    split at h
    · exact List.mem_cons_of_mem _ h
    · simp only [List.mem_cons] at h ⊢
      tauto

/-- The first key of a table lies above a bound, or the table is empty. -/
theorem rising_cons (x : Nat × α) (t : List (Nat × α)) :
    risingKeys (x :: t) = true ↔ (∀ y ∈ t.head?, x.1 < y.1) ∧ risingKeys t = true := by
  cases t <;> simp [risingKeys]

theorem head_set (t : Tab α) (k : Nat) (v : α) (y : Nat × α) (h : y ∈ (Tab.set t k v).head?) : y.1 = k ∨ y ∈ t.head? := by
  cases t with
  | nil => simp [Tab.set] at h; simp [← h]
  | cons x t =>
    obtain ⟨a, b⟩ := x
    unfold Tab.set at h
    split at h
    · simp at h; simp [← h]
    · split at h
      · simp at h; simp [← h]
      · simp at h; simp [← h]

theorem rising_set (t : Tab α) (k : Nat) (v : α) (h : risingKeys t = true) : risingKeys (Tab.set t k v) = true := by
  induction t with
  | nil => simp [Tab.set, risingKeys]
  | cons x t ih =>
    obtain ⟨a, b⟩ := x
    rw [rising_cons] at h
    unfold Tab.set
    split
    · rename_i h1
      rw [rising_cons]
      refine ⟨by simpa using h1, ?_⟩
      rw [rising_cons]; exact h
    · rename_i h1
      split
      · rename_i h2
        subst h2
        rw [rising_cons]; exact h
      · rename_i h2
        rw [rising_cons]
        refine ⟨fun y hy => ?_, ih h.2⟩
        rcases head_set t k v y hy with h3 | h3
        · simp only [h3]; omega
        · exact h.1 y h3

/-- All keys of a rising table lie above its first one. -/
theorem rising_lt (x : Nat × α) (t : List (Nat × α)) (h : risingKeys (x :: t) = true) : ∀ y ∈ t, x.1 < y.1 := by
  induction t generalizing x with
  | nil => simp
  | cons z t ih =>
    rw [rising_cons] at h
    have hz : x.1 < z.1 := h.1 z (by simp)
    intro y hy
    rcases List.mem_cons.1 hy with rfl | hy
    · exact hz
    · exact lt_trans hz (ih z h.2 y hy)

theorem rising_filter (f : Nat × α → Bool) (t : List (Nat × α)) (h : risingKeys t = true) : risingKeys (t.filter f) = true := by
  induction t with
  | nil => simpa using h
  | cons x t ih =>
    have h2 := ((rising_cons x t).1 h).2
    simp only [List.filter_cons]
    split
    · rw [rising_cons]
      refine ⟨fun y hy => rising_lt x t h y ?_, ih h2⟩
      exact (List.mem_filter.1 (List.mem_of_mem_head? hy)).1
    · exact ih h2

theorem rising_erase (t : Tab α) (k : Nat) (h : risingKeys t = true) : risingKeys (Tab.erase t k) = true := by
  induction t with
  | nil => simp [Tab.erase, risingKeys]
  | cons x t ih =>
    obtain ⟨a, b⟩ := x
    have h2 := ((rising_cons _ t).1 h).2
    unfold Tab.erase
    split
    · exact h2
    · rw [rising_cons]
      refine ⟨fun y hy => rising_lt _ t h y ?_, ih h2⟩
      exact mem_erase (List.mem_of_mem_head? hy)

end Sys2Proof.Machine
end

