-- ==== Sys2Proof/Laws/State.lean ====
section
/-!
SUPPORT. What each update of one part of the state leaves alone: one lemma for each field and update.
-/
namespace Sys2Proof.Machine

variable (s : State)

@[simp] theorem at_pending (clk : Nat) : (s.at_ clk).pending = s.pending := rfl
@[simp] theorem at_fresh (clk : Nat) : (s.at_ clk).fresh = s.fresh := rfl
@[simp] theorem at_boot (clk : Nat) : (s.at_ clk).boot = s.boot := rfl
@[simp] theorem at_pci (clk : Nat) : (s.at_ clk).pci = s.pci := rfl
@[simp] theorem at_power (clk : Nat) : (s.at_ clk).power = s.power := rfl
@[simp] theorem at_mem (clk : Nat) : (s.at_ clk).mem = s.mem := rfl
@[simp] theorem at_host (clk : Nat) : (s.at_ clk).host = s.host := rfl
@[simp] theorem at_hostBad (clk : Nat) : (s.at_ clk).hostBad = s.hostBad := rfl
@[simp] theorem at_gal (clk : Nat) : (s.at_ clk).gal = s.gal := rfl
@[simp] theorem at_hbm (clk : Nat) : (s.at_ clk).hbm = s.hbm := rfl
@[simp] theorem at_units (clk : Nat) : (s.at_ clk).units = s.units := rfl
@[simp] theorem at_recs (clk : Nat) : (s.at_ clk).recs = s.recs := rfl
@[simp] theorem at_pfw (clk : Nat) : (s.at_ clk).pfw = s.pfw := rfl
@[simp] theorem at_pfe (clk : Nat) : (s.at_ clk).pfe = s.pfe := rfl
@[simp] theorem at_wings (clk : Nat) : (s.at_ clk).wings = s.wings := rfl
@[simp] theorem at_cores (clk : Nat) : (s.at_ clk).cores = s.cores := rfl
@[simp] theorem at_phys (clk : Nat) : (s.at_ clk).phys = s.phys := rfl
@[simp] theorem at_crecs (clk : Nat) : (s.at_ clk).crecs = s.crecs := rfl
@[simp] theorem at_ended (clk : Nat) : (s.at_ clk).ended = s.ended := rfl
@[simp] theorem at_chans (clk : Nat) : (s.at_ clk).chans = s.chans := rfl
@[simp] theorem at_cxl (clk : Nat) : (s.at_ clk).cxl = s.cxl := rfl
@[simp] theorem at_board (clk : Nat) : (s.at_ clk).board = s.board := rfl
@[simp] theorem at_ports (clk : Nat) : (s.at_ clk).ports = s.ports := rfl
@[simp] theorem at_fab (clk : Nat) : (s.at_ clk).fab = s.fab := rfl
@[simp] theorem at_acct (clk : Nat) : (s.at_ clk).acct = s.acct := rfl
@[simp] theorem at_svc (clk : Nat) : (s.at_ clk).svc = s.svc := rfl
@[simp] theorem at_trust (clk : Nat) : (s.at_ clk).trust = s.trust := rfl
@[simp] theorem at_fns (clk : Nat) : (s.at_ clk).fns = s.fns := rfl
@[simp] theorem at_newel (clk : Nat) : (s.at_ clk).newel = s.newel := rfl
@[simp] theorem at_ans (clk : Nat) : (s.at_ clk).ans = s.ans := rfl

@[simp] theorem modWing_pending (w : Nat) (f : Wing → Wing) : (s.modWing w f).pending = s.pending := rfl
@[simp] theorem modWing_fresh (w : Nat) (f : Wing → Wing) : (s.modWing w f).fresh = s.fresh := rfl
@[simp] theorem modWing_boot (w : Nat) (f : Wing → Wing) : (s.modWing w f).boot = s.boot := rfl
@[simp] theorem modWing_pci (w : Nat) (f : Wing → Wing) : (s.modWing w f).pci = s.pci := rfl
@[simp] theorem modWing_time (w : Nat) (f : Wing → Wing) : (s.modWing w f).time = s.time := rfl
@[simp] theorem modWing_power (w : Nat) (f : Wing → Wing) : (s.modWing w f).power = s.power := rfl
@[simp] theorem modWing_mem (w : Nat) (f : Wing → Wing) : (s.modWing w f).mem = s.mem := rfl
@[simp] theorem modWing_host (w : Nat) (f : Wing → Wing) : (s.modWing w f).host = s.host := rfl
@[simp] theorem modWing_hostBad (w : Nat) (f : Wing → Wing) : (s.modWing w f).hostBad = s.hostBad := rfl
@[simp] theorem modWing_gal (w : Nat) (f : Wing → Wing) : (s.modWing w f).gal = s.gal := rfl
@[simp] theorem modWing_hbm (w : Nat) (f : Wing → Wing) : (s.modWing w f).hbm = s.hbm := rfl
@[simp] theorem modWing_units (w : Nat) (f : Wing → Wing) : (s.modWing w f).units = s.units := rfl
@[simp] theorem modWing_recs (w : Nat) (f : Wing → Wing) : (s.modWing w f).recs = s.recs := rfl
@[simp] theorem modWing_pfw (w : Nat) (f : Wing → Wing) : (s.modWing w f).pfw = s.pfw := rfl
@[simp] theorem modWing_pfe (w : Nat) (f : Wing → Wing) : (s.modWing w f).pfe = s.pfe := rfl
@[simp] theorem modWing_cores (w : Nat) (f : Wing → Wing) : (s.modWing w f).cores = s.cores := rfl
@[simp] theorem modWing_phys (w : Nat) (f : Wing → Wing) : (s.modWing w f).phys = s.phys := rfl
@[simp] theorem modWing_crecs (w : Nat) (f : Wing → Wing) : (s.modWing w f).crecs = s.crecs := rfl
@[simp] theorem modWing_ended (w : Nat) (f : Wing → Wing) : (s.modWing w f).ended = s.ended := rfl
@[simp] theorem modWing_chans (w : Nat) (f : Wing → Wing) : (s.modWing w f).chans = s.chans := rfl
@[simp] theorem modWing_cxl (w : Nat) (f : Wing → Wing) : (s.modWing w f).cxl = s.cxl := rfl
@[simp] theorem modWing_board (w : Nat) (f : Wing → Wing) : (s.modWing w f).board = s.board := rfl
@[simp] theorem modWing_ports (w : Nat) (f : Wing → Wing) : (s.modWing w f).ports = s.ports := rfl
@[simp] theorem modWing_fab (w : Nat) (f : Wing → Wing) : (s.modWing w f).fab = s.fab := rfl
@[simp] theorem modWing_acct (w : Nat) (f : Wing → Wing) : (s.modWing w f).acct = s.acct := rfl
@[simp] theorem modWing_svc (w : Nat) (f : Wing → Wing) : (s.modWing w f).svc = s.svc := rfl
@[simp] theorem modWing_trust (w : Nat) (f : Wing → Wing) : (s.modWing w f).trust = s.trust := rfl
@[simp] theorem modWing_fns (w : Nat) (f : Wing → Wing) : (s.modWing w f).fns = s.fns := rfl
@[simp] theorem modWing_newel (w : Nat) (f : Wing → Wing) : (s.modWing w f).newel = s.newel := rfl
@[simp] theorem modWing_ans (w : Nat) (f : Wing → Wing) : (s.modWing w f).ans = s.ans := rfl

@[simp] theorem modJob_pending (w : Nat) (f : Job → Job) : (s.modJob w f).pending = s.pending := rfl
@[simp] theorem modJob_fresh (w : Nat) (f : Job → Job) : (s.modJob w f).fresh = s.fresh := rfl
@[simp] theorem modJob_boot (w : Nat) (f : Job → Job) : (s.modJob w f).boot = s.boot := rfl
@[simp] theorem modJob_pci (w : Nat) (f : Job → Job) : (s.modJob w f).pci = s.pci := rfl
@[simp] theorem modJob_time (w : Nat) (f : Job → Job) : (s.modJob w f).time = s.time := rfl
@[simp] theorem modJob_power (w : Nat) (f : Job → Job) : (s.modJob w f).power = s.power := rfl
@[simp] theorem modJob_mem (w : Nat) (f : Job → Job) : (s.modJob w f).mem = s.mem := rfl
@[simp] theorem modJob_host (w : Nat) (f : Job → Job) : (s.modJob w f).host = s.host := rfl
@[simp] theorem modJob_hostBad (w : Nat) (f : Job → Job) : (s.modJob w f).hostBad = s.hostBad := rfl
@[simp] theorem modJob_gal (w : Nat) (f : Job → Job) : (s.modJob w f).gal = s.gal := rfl
@[simp] theorem modJob_hbm (w : Nat) (f : Job → Job) : (s.modJob w f).hbm = s.hbm := rfl
@[simp] theorem modJob_units (w : Nat) (f : Job → Job) : (s.modJob w f).units = s.units := rfl
@[simp] theorem modJob_recs (w : Nat) (f : Job → Job) : (s.modJob w f).recs = s.recs := rfl
@[simp] theorem modJob_pfw (w : Nat) (f : Job → Job) : (s.modJob w f).pfw = s.pfw := rfl
@[simp] theorem modJob_pfe (w : Nat) (f : Job → Job) : (s.modJob w f).pfe = s.pfe := rfl
@[simp] theorem modJob_cores (w : Nat) (f : Job → Job) : (s.modJob w f).cores = s.cores := rfl
@[simp] theorem modJob_phys (w : Nat) (f : Job → Job) : (s.modJob w f).phys = s.phys := rfl
@[simp] theorem modJob_crecs (w : Nat) (f : Job → Job) : (s.modJob w f).crecs = s.crecs := rfl
@[simp] theorem modJob_ended (w : Nat) (f : Job → Job) : (s.modJob w f).ended = s.ended := rfl
@[simp] theorem modJob_chans (w : Nat) (f : Job → Job) : (s.modJob w f).chans = s.chans := rfl
@[simp] theorem modJob_cxl (w : Nat) (f : Job → Job) : (s.modJob w f).cxl = s.cxl := rfl
@[simp] theorem modJob_board (w : Nat) (f : Job → Job) : (s.modJob w f).board = s.board := rfl
@[simp] theorem modJob_ports (w : Nat) (f : Job → Job) : (s.modJob w f).ports = s.ports := rfl
@[simp] theorem modJob_fab (w : Nat) (f : Job → Job) : (s.modJob w f).fab = s.fab := rfl
@[simp] theorem modJob_acct (w : Nat) (f : Job → Job) : (s.modJob w f).acct = s.acct := rfl
@[simp] theorem modJob_svc (w : Nat) (f : Job → Job) : (s.modJob w f).svc = s.svc := rfl
@[simp] theorem modJob_trust (w : Nat) (f : Job → Job) : (s.modJob w f).trust = s.trust := rfl
@[simp] theorem modJob_fns (w : Nat) (f : Job → Job) : (s.modJob w f).fns = s.fns := rfl
@[simp] theorem modJob_newel (w : Nat) (f : Job → Job) : (s.modJob w f).newel = s.newel := rfl
@[simp] theorem modJob_ans (w : Nat) (f : Job → Job) : (s.modJob w f).ans = s.ans := rfl

@[simp] theorem modFn_pending (fn : Nat) (f : FnSt → FnSt) : (s.modFn fn f).pending = s.pending := rfl
@[simp] theorem modFn_fresh (fn : Nat) (f : FnSt → FnSt) : (s.modFn fn f).fresh = s.fresh := rfl
@[simp] theorem modFn_boot (fn : Nat) (f : FnSt → FnSt) : (s.modFn fn f).boot = s.boot := rfl
@[simp] theorem modFn_pci (fn : Nat) (f : FnSt → FnSt) : (s.modFn fn f).pci = s.pci := rfl
@[simp] theorem modFn_time (fn : Nat) (f : FnSt → FnSt) : (s.modFn fn f).time = s.time := rfl
@[simp] theorem modFn_power (fn : Nat) (f : FnSt → FnSt) : (s.modFn fn f).power = s.power := rfl
@[simp] theorem modFn_mem (fn : Nat) (f : FnSt → FnSt) : (s.modFn fn f).mem = s.mem := rfl
@[simp] theorem modFn_host (fn : Nat) (f : FnSt → FnSt) : (s.modFn fn f).host = s.host := rfl
@[simp] theorem modFn_hostBad (fn : Nat) (f : FnSt → FnSt) : (s.modFn fn f).hostBad = s.hostBad := rfl
@[simp] theorem modFn_gal (fn : Nat) (f : FnSt → FnSt) : (s.modFn fn f).gal = s.gal := rfl
@[simp] theorem modFn_hbm (fn : Nat) (f : FnSt → FnSt) : (s.modFn fn f).hbm = s.hbm := rfl
@[simp] theorem modFn_units (fn : Nat) (f : FnSt → FnSt) : (s.modFn fn f).units = s.units := rfl
@[simp] theorem modFn_recs (fn : Nat) (f : FnSt → FnSt) : (s.modFn fn f).recs = s.recs := rfl
@[simp] theorem modFn_pfw (fn : Nat) (f : FnSt → FnSt) : (s.modFn fn f).pfw = s.pfw := rfl
@[simp] theorem modFn_pfe (fn : Nat) (f : FnSt → FnSt) : (s.modFn fn f).pfe = s.pfe := rfl
@[simp] theorem modFn_wings (fn : Nat) (f : FnSt → FnSt) : (s.modFn fn f).wings = s.wings := rfl
@[simp] theorem modFn_cores (fn : Nat) (f : FnSt → FnSt) : (s.modFn fn f).cores = s.cores := rfl
@[simp] theorem modFn_phys (fn : Nat) (f : FnSt → FnSt) : (s.modFn fn f).phys = s.phys := rfl
@[simp] theorem modFn_crecs (fn : Nat) (f : FnSt → FnSt) : (s.modFn fn f).crecs = s.crecs := rfl
@[simp] theorem modFn_ended (fn : Nat) (f : FnSt → FnSt) : (s.modFn fn f).ended = s.ended := rfl
@[simp] theorem modFn_chans (fn : Nat) (f : FnSt → FnSt) : (s.modFn fn f).chans = s.chans := rfl
@[simp] theorem modFn_cxl (fn : Nat) (f : FnSt → FnSt) : (s.modFn fn f).cxl = s.cxl := rfl
@[simp] theorem modFn_board (fn : Nat) (f : FnSt → FnSt) : (s.modFn fn f).board = s.board := rfl
@[simp] theorem modFn_ports (fn : Nat) (f : FnSt → FnSt) : (s.modFn fn f).ports = s.ports := rfl
@[simp] theorem modFn_fab (fn : Nat) (f : FnSt → FnSt) : (s.modFn fn f).fab = s.fab := rfl
@[simp] theorem modFn_acct (fn : Nat) (f : FnSt → FnSt) : (s.modFn fn f).acct = s.acct := rfl
@[simp] theorem modFn_svc (fn : Nat) (f : FnSt → FnSt) : (s.modFn fn f).svc = s.svc := rfl
@[simp] theorem modFn_trust (fn : Nat) (f : FnSt → FnSt) : (s.modFn fn f).trust = s.trust := rfl
@[simp] theorem modFn_newel (fn : Nat) (f : FnSt → FnSt) : (s.modFn fn f).newel = s.newel := rfl
@[simp] theorem modFn_ans (fn : Nat) (f : FnSt → FnSt) : (s.modFn fn f).ans = s.ans := rfl

@[simp] theorem modUnit_pending (k : Nat) (f : UnitSt → UnitSt) : (s.modUnit k f).pending = s.pending := rfl
@[simp] theorem modUnit_fresh (k : Nat) (f : UnitSt → UnitSt) : (s.modUnit k f).fresh = s.fresh := rfl
@[simp] theorem modUnit_boot (k : Nat) (f : UnitSt → UnitSt) : (s.modUnit k f).boot = s.boot := rfl
@[simp] theorem modUnit_pci (k : Nat) (f : UnitSt → UnitSt) : (s.modUnit k f).pci = s.pci := rfl
@[simp] theorem modUnit_time (k : Nat) (f : UnitSt → UnitSt) : (s.modUnit k f).time = s.time := rfl
@[simp] theorem modUnit_power (k : Nat) (f : UnitSt → UnitSt) : (s.modUnit k f).power = s.power := rfl
@[simp] theorem modUnit_mem (k : Nat) (f : UnitSt → UnitSt) : (s.modUnit k f).mem = s.mem := rfl
@[simp] theorem modUnit_host (k : Nat) (f : UnitSt → UnitSt) : (s.modUnit k f).host = s.host := rfl
@[simp] theorem modUnit_hostBad (k : Nat) (f : UnitSt → UnitSt) : (s.modUnit k f).hostBad = s.hostBad := rfl
@[simp] theorem modUnit_gal (k : Nat) (f : UnitSt → UnitSt) : (s.modUnit k f).gal = s.gal := rfl
@[simp] theorem modUnit_hbm (k : Nat) (f : UnitSt → UnitSt) : (s.modUnit k f).hbm = s.hbm := rfl
@[simp] theorem modUnit_recs (k : Nat) (f : UnitSt → UnitSt) : (s.modUnit k f).recs = s.recs := rfl
@[simp] theorem modUnit_pfw (k : Nat) (f : UnitSt → UnitSt) : (s.modUnit k f).pfw = s.pfw := rfl
@[simp] theorem modUnit_pfe (k : Nat) (f : UnitSt → UnitSt) : (s.modUnit k f).pfe = s.pfe := rfl
@[simp] theorem modUnit_wings (k : Nat) (f : UnitSt → UnitSt) : (s.modUnit k f).wings = s.wings := rfl
@[simp] theorem modUnit_cores (k : Nat) (f : UnitSt → UnitSt) : (s.modUnit k f).cores = s.cores := rfl
@[simp] theorem modUnit_phys (k : Nat) (f : UnitSt → UnitSt) : (s.modUnit k f).phys = s.phys := rfl
@[simp] theorem modUnit_crecs (k : Nat) (f : UnitSt → UnitSt) : (s.modUnit k f).crecs = s.crecs := rfl
@[simp] theorem modUnit_ended (k : Nat) (f : UnitSt → UnitSt) : (s.modUnit k f).ended = s.ended := rfl
@[simp] theorem modUnit_chans (k : Nat) (f : UnitSt → UnitSt) : (s.modUnit k f).chans = s.chans := rfl
@[simp] theorem modUnit_cxl (k : Nat) (f : UnitSt → UnitSt) : (s.modUnit k f).cxl = s.cxl := rfl
@[simp] theorem modUnit_board (k : Nat) (f : UnitSt → UnitSt) : (s.modUnit k f).board = s.board := rfl
@[simp] theorem modUnit_ports (k : Nat) (f : UnitSt → UnitSt) : (s.modUnit k f).ports = s.ports := rfl
@[simp] theorem modUnit_fab (k : Nat) (f : UnitSt → UnitSt) : (s.modUnit k f).fab = s.fab := rfl
@[simp] theorem modUnit_acct (k : Nat) (f : UnitSt → UnitSt) : (s.modUnit k f).acct = s.acct := rfl
@[simp] theorem modUnit_svc (k : Nat) (f : UnitSt → UnitSt) : (s.modUnit k f).svc = s.svc := rfl
@[simp] theorem modUnit_trust (k : Nat) (f : UnitSt → UnitSt) : (s.modUnit k f).trust = s.trust := rfl
@[simp] theorem modUnit_fns (k : Nat) (f : UnitSt → UnitSt) : (s.modUnit k f).fns = s.fns := rfl
@[simp] theorem modUnit_newel (k : Nat) (f : UnitSt → UnitSt) : (s.modUnit k f).newel = s.newel := rfl
@[simp] theorem modUnit_ans (k : Nat) (f : UnitSt → UnitSt) : (s.modUnit k f).ans = s.ans := rfl

@[simp] theorem modCore_pending (c : Nat) (f : Core → Core) : (s.modCore c f).pending = s.pending := rfl
@[simp] theorem modCore_fresh (c : Nat) (f : Core → Core) : (s.modCore c f).fresh = s.fresh := rfl
@[simp] theorem modCore_boot (c : Nat) (f : Core → Core) : (s.modCore c f).boot = s.boot := rfl
@[simp] theorem modCore_pci (c : Nat) (f : Core → Core) : (s.modCore c f).pci = s.pci := rfl
@[simp] theorem modCore_time (c : Nat) (f : Core → Core) : (s.modCore c f).time = s.time := rfl
@[simp] theorem modCore_power (c : Nat) (f : Core → Core) : (s.modCore c f).power = s.power := rfl
@[simp] theorem modCore_mem (c : Nat) (f : Core → Core) : (s.modCore c f).mem = s.mem := rfl
@[simp] theorem modCore_host (c : Nat) (f : Core → Core) : (s.modCore c f).host = s.host := rfl
@[simp] theorem modCore_hostBad (c : Nat) (f : Core → Core) : (s.modCore c f).hostBad = s.hostBad := rfl
@[simp] theorem modCore_gal (c : Nat) (f : Core → Core) : (s.modCore c f).gal = s.gal := rfl
@[simp] theorem modCore_hbm (c : Nat) (f : Core → Core) : (s.modCore c f).hbm = s.hbm := rfl
@[simp] theorem modCore_units (c : Nat) (f : Core → Core) : (s.modCore c f).units = s.units := rfl
@[simp] theorem modCore_recs (c : Nat) (f : Core → Core) : (s.modCore c f).recs = s.recs := rfl
@[simp] theorem modCore_pfw (c : Nat) (f : Core → Core) : (s.modCore c f).pfw = s.pfw := rfl
@[simp] theorem modCore_pfe (c : Nat) (f : Core → Core) : (s.modCore c f).pfe = s.pfe := rfl
@[simp] theorem modCore_wings (c : Nat) (f : Core → Core) : (s.modCore c f).wings = s.wings := rfl
@[simp] theorem modCore_phys (c : Nat) (f : Core → Core) : (s.modCore c f).phys = s.phys := rfl
@[simp] theorem modCore_crecs (c : Nat) (f : Core → Core) : (s.modCore c f).crecs = s.crecs := rfl
@[simp] theorem modCore_ended (c : Nat) (f : Core → Core) : (s.modCore c f).ended = s.ended := rfl
@[simp] theorem modCore_chans (c : Nat) (f : Core → Core) : (s.modCore c f).chans = s.chans := rfl
@[simp] theorem modCore_cxl (c : Nat) (f : Core → Core) : (s.modCore c f).cxl = s.cxl := rfl
@[simp] theorem modCore_board (c : Nat) (f : Core → Core) : (s.modCore c f).board = s.board := rfl
@[simp] theorem modCore_ports (c : Nat) (f : Core → Core) : (s.modCore c f).ports = s.ports := rfl
@[simp] theorem modCore_fab (c : Nat) (f : Core → Core) : (s.modCore c f).fab = s.fab := rfl
@[simp] theorem modCore_acct (c : Nat) (f : Core → Core) : (s.modCore c f).acct = s.acct := rfl
@[simp] theorem modCore_svc (c : Nat) (f : Core → Core) : (s.modCore c f).svc = s.svc := rfl
@[simp] theorem modCore_trust (c : Nat) (f : Core → Core) : (s.modCore c f).trust = s.trust := rfl
@[simp] theorem modCore_fns (c : Nat) (f : Core → Core) : (s.modCore c f).fns = s.fns := rfl
@[simp] theorem modCore_newel (c : Nat) (f : Core → Core) : (s.modCore c f).newel = s.newel := rfl
@[simp] theorem modCore_ans (c : Nat) (f : Core → Core) : (s.modCore c f).ans = s.ans := rfl

@[simp] theorem modPort_pending (p : Nat) (f : PortSt → PortSt) : (s.modPort p f).pending = s.pending := rfl
@[simp] theorem modPort_fresh (p : Nat) (f : PortSt → PortSt) : (s.modPort p f).fresh = s.fresh := rfl
@[simp] theorem modPort_boot (p : Nat) (f : PortSt → PortSt) : (s.modPort p f).boot = s.boot := rfl
@[simp] theorem modPort_pci (p : Nat) (f : PortSt → PortSt) : (s.modPort p f).pci = s.pci := rfl
@[simp] theorem modPort_time (p : Nat) (f : PortSt → PortSt) : (s.modPort p f).time = s.time := rfl
@[simp] theorem modPort_power (p : Nat) (f : PortSt → PortSt) : (s.modPort p f).power = s.power := rfl
@[simp] theorem modPort_mem (p : Nat) (f : PortSt → PortSt) : (s.modPort p f).mem = s.mem := rfl
@[simp] theorem modPort_host (p : Nat) (f : PortSt → PortSt) : (s.modPort p f).host = s.host := rfl
@[simp] theorem modPort_hostBad (p : Nat) (f : PortSt → PortSt) : (s.modPort p f).hostBad = s.hostBad := rfl
@[simp] theorem modPort_gal (p : Nat) (f : PortSt → PortSt) : (s.modPort p f).gal = s.gal := rfl
@[simp] theorem modPort_hbm (p : Nat) (f : PortSt → PortSt) : (s.modPort p f).hbm = s.hbm := rfl
@[simp] theorem modPort_units (p : Nat) (f : PortSt → PortSt) : (s.modPort p f).units = s.units := rfl
@[simp] theorem modPort_recs (p : Nat) (f : PortSt → PortSt) : (s.modPort p f).recs = s.recs := rfl
@[simp] theorem modPort_pfw (p : Nat) (f : PortSt → PortSt) : (s.modPort p f).pfw = s.pfw := rfl
@[simp] theorem modPort_pfe (p : Nat) (f : PortSt → PortSt) : (s.modPort p f).pfe = s.pfe := rfl
@[simp] theorem modPort_wings (p : Nat) (f : PortSt → PortSt) : (s.modPort p f).wings = s.wings := rfl
@[simp] theorem modPort_cores (p : Nat) (f : PortSt → PortSt) : (s.modPort p f).cores = s.cores := rfl
@[simp] theorem modPort_phys (p : Nat) (f : PortSt → PortSt) : (s.modPort p f).phys = s.phys := rfl
@[simp] theorem modPort_crecs (p : Nat) (f : PortSt → PortSt) : (s.modPort p f).crecs = s.crecs := rfl
@[simp] theorem modPort_ended (p : Nat) (f : PortSt → PortSt) : (s.modPort p f).ended = s.ended := rfl
@[simp] theorem modPort_chans (p : Nat) (f : PortSt → PortSt) : (s.modPort p f).chans = s.chans := rfl
@[simp] theorem modPort_cxl (p : Nat) (f : PortSt → PortSt) : (s.modPort p f).cxl = s.cxl := rfl
@[simp] theorem modPort_board (p : Nat) (f : PortSt → PortSt) : (s.modPort p f).board = s.board := rfl
@[simp] theorem modPort_fab (p : Nat) (f : PortSt → PortSt) : (s.modPort p f).fab = s.fab := rfl
@[simp] theorem modPort_acct (p : Nat) (f : PortSt → PortSt) : (s.modPort p f).acct = s.acct := rfl
@[simp] theorem modPort_svc (p : Nat) (f : PortSt → PortSt) : (s.modPort p f).svc = s.svc := rfl
@[simp] theorem modPort_trust (p : Nat) (f : PortSt → PortSt) : (s.modPort p f).trust = s.trust := rfl
@[simp] theorem modPort_fns (p : Nat) (f : PortSt → PortSt) : (s.modPort p f).fns = s.fns := rfl
@[simp] theorem modPort_newel (p : Nat) (f : PortSt → PortSt) : (s.modPort p f).newel = s.newel := rfl
@[simp] theorem modPort_ans (p : Nat) (f : PortSt → PortSt) : (s.modPort p f).ans = s.ans := rfl

@[simp] theorem modChan_pending (c : Nat) (f : Chan → Chan) : (s.modChan c f).pending = s.pending := rfl
@[simp] theorem modChan_fresh (c : Nat) (f : Chan → Chan) : (s.modChan c f).fresh = s.fresh := rfl
@[simp] theorem modChan_boot (c : Nat) (f : Chan → Chan) : (s.modChan c f).boot = s.boot := rfl
@[simp] theorem modChan_pci (c : Nat) (f : Chan → Chan) : (s.modChan c f).pci = s.pci := rfl
@[simp] theorem modChan_time (c : Nat) (f : Chan → Chan) : (s.modChan c f).time = s.time := rfl
@[simp] theorem modChan_power (c : Nat) (f : Chan → Chan) : (s.modChan c f).power = s.power := rfl
@[simp] theorem modChan_mem (c : Nat) (f : Chan → Chan) : (s.modChan c f).mem = s.mem := rfl
@[simp] theorem modChan_host (c : Nat) (f : Chan → Chan) : (s.modChan c f).host = s.host := rfl
@[simp] theorem modChan_hostBad (c : Nat) (f : Chan → Chan) : (s.modChan c f).hostBad = s.hostBad := rfl
@[simp] theorem modChan_gal (c : Nat) (f : Chan → Chan) : (s.modChan c f).gal = s.gal := rfl
@[simp] theorem modChan_hbm (c : Nat) (f : Chan → Chan) : (s.modChan c f).hbm = s.hbm := rfl
@[simp] theorem modChan_units (c : Nat) (f : Chan → Chan) : (s.modChan c f).units = s.units := rfl
@[simp] theorem modChan_recs (c : Nat) (f : Chan → Chan) : (s.modChan c f).recs = s.recs := rfl
@[simp] theorem modChan_pfw (c : Nat) (f : Chan → Chan) : (s.modChan c f).pfw = s.pfw := rfl
@[simp] theorem modChan_pfe (c : Nat) (f : Chan → Chan) : (s.modChan c f).pfe = s.pfe := rfl
@[simp] theorem modChan_wings (c : Nat) (f : Chan → Chan) : (s.modChan c f).wings = s.wings := rfl
@[simp] theorem modChan_cores (c : Nat) (f : Chan → Chan) : (s.modChan c f).cores = s.cores := rfl
@[simp] theorem modChan_phys (c : Nat) (f : Chan → Chan) : (s.modChan c f).phys = s.phys := rfl
@[simp] theorem modChan_crecs (c : Nat) (f : Chan → Chan) : (s.modChan c f).crecs = s.crecs := rfl
@[simp] theorem modChan_ended (c : Nat) (f : Chan → Chan) : (s.modChan c f).ended = s.ended := rfl
@[simp] theorem modChan_cxl (c : Nat) (f : Chan → Chan) : (s.modChan c f).cxl = s.cxl := rfl
@[simp] theorem modChan_board (c : Nat) (f : Chan → Chan) : (s.modChan c f).board = s.board := rfl
@[simp] theorem modChan_ports (c : Nat) (f : Chan → Chan) : (s.modChan c f).ports = s.ports := rfl
@[simp] theorem modChan_fab (c : Nat) (f : Chan → Chan) : (s.modChan c f).fab = s.fab := rfl
@[simp] theorem modChan_acct (c : Nat) (f : Chan → Chan) : (s.modChan c f).acct = s.acct := rfl
@[simp] theorem modChan_svc (c : Nat) (f : Chan → Chan) : (s.modChan c f).svc = s.svc := rfl
@[simp] theorem modChan_trust (c : Nat) (f : Chan → Chan) : (s.modChan c f).trust = s.trust := rfl
@[simp] theorem modChan_fns (c : Nat) (f : Chan → Chan) : (s.modChan c f).fns = s.fns := rfl
@[simp] theorem modChan_newel (c : Nat) (f : Chan → Chan) : (s.modChan c f).newel = s.newel := rfl
@[simp] theorem modChan_ans (c : Nat) (f : Chan → Chan) : (s.modChan c f).ans = s.ans := rfl

@[simp] theorem fire_pending (fn v : Nat) : (s.fire fn v).pending = s.pending := rfl
@[simp] theorem fire_fresh (fn v : Nat) : (s.fire fn v).fresh = s.fresh := rfl
@[simp] theorem fire_boot (fn v : Nat) : (s.fire fn v).boot = s.boot := rfl
@[simp] theorem fire_pci (fn v : Nat) : (s.fire fn v).pci = s.pci := rfl
@[simp] theorem fire_time (fn v : Nat) : (s.fire fn v).time = s.time := rfl
@[simp] theorem fire_power (fn v : Nat) : (s.fire fn v).power = s.power := rfl
@[simp] theorem fire_mem (fn v : Nat) : (s.fire fn v).mem = s.mem := rfl
@[simp] theorem fire_host (fn v : Nat) : (s.fire fn v).host = s.host := rfl
@[simp] theorem fire_hostBad (fn v : Nat) : (s.fire fn v).hostBad = s.hostBad := rfl
@[simp] theorem fire_gal (fn v : Nat) : (s.fire fn v).gal = s.gal := rfl
@[simp] theorem fire_hbm (fn v : Nat) : (s.fire fn v).hbm = s.hbm := rfl
@[simp] theorem fire_units (fn v : Nat) : (s.fire fn v).units = s.units := rfl
@[simp] theorem fire_recs (fn v : Nat) : (s.fire fn v).recs = s.recs := rfl
@[simp] theorem fire_pfw (fn v : Nat) : (s.fire fn v).pfw = s.pfw := rfl
@[simp] theorem fire_pfe (fn v : Nat) : (s.fire fn v).pfe = s.pfe := rfl
@[simp] theorem fire_wings (fn v : Nat) : (s.fire fn v).wings = s.wings := rfl
@[simp] theorem fire_cores (fn v : Nat) : (s.fire fn v).cores = s.cores := rfl
@[simp] theorem fire_phys (fn v : Nat) : (s.fire fn v).phys = s.phys := rfl
@[simp] theorem fire_crecs (fn v : Nat) : (s.fire fn v).crecs = s.crecs := rfl
@[simp] theorem fire_ended (fn v : Nat) : (s.fire fn v).ended = s.ended := rfl
@[simp] theorem fire_chans (fn v : Nat) : (s.fire fn v).chans = s.chans := rfl
@[simp] theorem fire_cxl (fn v : Nat) : (s.fire fn v).cxl = s.cxl := rfl
@[simp] theorem fire_board (fn v : Nat) : (s.fire fn v).board = s.board := rfl
@[simp] theorem fire_ports (fn v : Nat) : (s.fire fn v).ports = s.ports := rfl
@[simp] theorem fire_fab (fn v : Nat) : (s.fire fn v).fab = s.fab := rfl
@[simp] theorem fire_acct (fn v : Nat) : (s.fire fn v).acct = s.acct := rfl
@[simp] theorem fire_svc (fn v : Nat) : (s.fire fn v).svc = s.svc := rfl
@[simp] theorem fire_trust (fn v : Nat) : (s.fire fn v).trust = s.trust := rfl
@[simp] theorem fire_newel (fn v : Nat) : (s.fire fn v).newel = s.newel := rfl
@[simp] theorem fire_ans (fn v : Nat) : (s.fire fn v).ans = s.ans := rfl

@[simp] theorem hold_pending (c : Cmd) : (s.hold c).pending = s.pending := rfl
@[simp] theorem hold_fresh (c : Cmd) : (s.hold c).fresh = s.fresh := rfl
@[simp] theorem hold_boot (c : Cmd) : (s.hold c).boot = s.boot := rfl
@[simp] theorem hold_pci (c : Cmd) : (s.hold c).pci = s.pci := rfl
@[simp] theorem hold_time (c : Cmd) : (s.hold c).time = s.time := rfl
@[simp] theorem hold_power (c : Cmd) : (s.hold c).power = s.power := rfl
@[simp] theorem hold_mem (c : Cmd) : (s.hold c).mem = s.mem := rfl
@[simp] theorem hold_host (c : Cmd) : (s.hold c).host = s.host := rfl
@[simp] theorem hold_hostBad (c : Cmd) : (s.hold c).hostBad = s.hostBad := rfl
@[simp] theorem hold_gal (c : Cmd) : (s.hold c).gal = s.gal := rfl
@[simp] theorem hold_hbm (c : Cmd) : (s.hold c).hbm = s.hbm := rfl
@[simp] theorem hold_units (c : Cmd) : (s.hold c).units = s.units := rfl
@[simp] theorem hold_recs (c : Cmd) : (s.hold c).recs = s.recs := rfl
@[simp] theorem hold_pfw (c : Cmd) : (s.hold c).pfw = s.pfw := rfl
@[simp] theorem hold_pfe (c : Cmd) : (s.hold c).pfe = s.pfe := rfl
@[simp] theorem hold_wings (c : Cmd) : (s.hold c).wings = s.wings := rfl
@[simp] theorem hold_cores (c : Cmd) : (s.hold c).cores = s.cores := rfl
@[simp] theorem hold_phys (c : Cmd) : (s.hold c).phys = s.phys := rfl
@[simp] theorem hold_crecs (c : Cmd) : (s.hold c).crecs = s.crecs := rfl
@[simp] theorem hold_ended (c : Cmd) : (s.hold c).ended = s.ended := rfl
@[simp] theorem hold_chans (c : Cmd) : (s.hold c).chans = s.chans := rfl
@[simp] theorem hold_cxl (c : Cmd) : (s.hold c).cxl = s.cxl := rfl
@[simp] theorem hold_board (c : Cmd) : (s.hold c).board = s.board := rfl
@[simp] theorem hold_ports (c : Cmd) : (s.hold c).ports = s.ports := rfl
@[simp] theorem hold_fab (c : Cmd) : (s.hold c).fab = s.fab := rfl
@[simp] theorem hold_acct (c : Cmd) : (s.hold c).acct = s.acct := rfl
@[simp] theorem hold_svc (c : Cmd) : (s.hold c).svc = s.svc := rfl
@[simp] theorem hold_trust (c : Cmd) : (s.hold c).trust = s.trust := rfl
@[simp] theorem hold_fns (c : Cmd) : (s.hold c).fns = s.fns := rfl
@[simp] theorem hold_ans (c : Cmd) : (s.hold c).ans = s.ans := rfl

@[simp] theorem free_pending : s.free.2.pending = s.pending := rfl
@[simp] theorem free_boot : s.free.2.boot = s.boot := rfl
@[simp] theorem free_pci : s.free.2.pci = s.pci := rfl
@[simp] theorem free_time : s.free.2.time = s.time := rfl
@[simp] theorem free_power : s.free.2.power = s.power := rfl
@[simp] theorem free_mem : s.free.2.mem = s.mem := rfl
@[simp] theorem free_host : s.free.2.host = s.host := rfl
@[simp] theorem free_hostBad : s.free.2.hostBad = s.hostBad := rfl
@[simp] theorem free_gal : s.free.2.gal = s.gal := rfl
@[simp] theorem free_hbm : s.free.2.hbm = s.hbm := rfl
@[simp] theorem free_units : s.free.2.units = s.units := rfl
@[simp] theorem free_recs : s.free.2.recs = s.recs := rfl
@[simp] theorem free_pfw : s.free.2.pfw = s.pfw := rfl
@[simp] theorem free_pfe : s.free.2.pfe = s.pfe := rfl
@[simp] theorem free_wings : s.free.2.wings = s.wings := rfl
@[simp] theorem free_cores : s.free.2.cores = s.cores := rfl
@[simp] theorem free_phys : s.free.2.phys = s.phys := rfl
@[simp] theorem free_crecs : s.free.2.crecs = s.crecs := rfl
@[simp] theorem free_ended : s.free.2.ended = s.ended := rfl
@[simp] theorem free_chans : s.free.2.chans = s.chans := rfl
@[simp] theorem free_cxl : s.free.2.cxl = s.cxl := rfl
@[simp] theorem free_board : s.free.2.board = s.board := rfl
@[simp] theorem free_ports : s.free.2.ports = s.ports := rfl
@[simp] theorem free_fab : s.free.2.fab = s.fab := rfl
@[simp] theorem free_acct : s.free.2.acct = s.acct := rfl
@[simp] theorem free_svc : s.free.2.svc = s.svc := rfl
@[simp] theorem free_trust : s.free.2.trust = s.trust := rfl
@[simp] theorem free_fns : s.free.2.fns = s.fns := rfl
@[simp] theorem free_newel : s.free.2.newel = s.newel := rfl
@[simp] theorem free_ans : s.free.2.ans = s.ans := rfl

/-! What was changed reads back, and the other entries of its table stay. -/

theorem at_phase (clk : Nat) (h : s.time.inGap = none) : (s.at_ clk).time.phase = clk := by simp [State.at_, h]
@[simp] theorem at_tread (clk : Nat) : (s.at_ clk).time.tread = s.time.tread := rfl
@[simp] theorem modWing_same (w : Nat) (f : Wing → Wing) : (s.modWing w f).wing w = f (s.wing w) := by simp [State.modWing, State.wing]
theorem modWing_ne (w v : Nat) (f : Wing → Wing) (h : v ≠ w) : (s.modWing w f).wing v = s.wing v := by
  simp [State.modWing, State.wing, find_set_ne _ _ _ _ h]
@[simp] theorem modJob_same (w : Nat) (f : Job → Job) : (s.modJob w f).job w = f (s.job w) := by simp [State.modJob, State.job]
@[simp] theorem modFn_same (fn : Nat) (f : FnSt → FnSt) : (s.modFn fn f).fnSt fn = f (s.fnSt fn) := by simp [State.modFn, State.fnSt]
theorem modFn_ne (fn g : Nat) (f : FnSt → FnSt) (h : g ≠ fn) : (s.modFn fn f).fnSt g = s.fnSt g := by
  simp [State.modFn, State.fnSt, find_set_ne _ _ _ _ h]
@[simp] theorem modUnit_same (k : Nat) (f : UnitSt → UnitSt) : (s.modUnit k f).unit k = f (s.unit k) := by simp [State.modUnit, State.unit]
@[simp] theorem modCore_same (c : Nat) (f : Core → Core) : (s.modCore c f).core c = f (s.core c) := by simp [State.modCore, State.core]
theorem modCore_ne (c d : Nat) (f : Core → Core) (h : d ≠ c) : (s.modCore c f).core d = s.core d := by
  simp [State.modCore, State.core, find_set_ne _ _ _ _ h]
@[simp] theorem modPort_same (p : Nat) (f : PortSt → PortSt) : (s.modPort p f).port p = f (s.port p) := by simp [State.modPort, State.port]
theorem modPort_ne (p q : Nat) (f : PortSt → PortSt) (h : q ≠ p) : (s.modPort p f).port q = s.port q := by
  simp [State.modPort, State.port, find_set_ne _ _ _ _ h]
@[simp] theorem modChan_same (c : Nat) (f : Chan → Chan) : (s.modChan c f).chan c = f (s.chan c) := by simp [State.modChan, State.chan]
theorem modChan_ne (c d : Nat) (f : Chan → Chan) (h : d ≠ c) : (s.modChan c f).chan d = s.chan d := by
  simp [State.modChan, State.chan, find_set_ne _ _ _ _ h]

end Sys2Proof.Machine
end

