-- ==== Sys2Proof/Laws/Confine.lean ====
section
/-!
SUPPORT. What each family of commands leaves alone, read off its confinement: the kept parts, and the clk as the only change of the hall-time
unit where that is so.
-/
namespace Sys2Proof.Machine

variable (s r : State)

theorem keepReset_keeps : s.keeps (s.keepReset r) [] := by simp [State.keeps, State.same, State.keepReset]
theorem keepBoundary_keeps : s.keeps (s.keepBoundary r) [.pci, .hostBad, .ans] := by simp [State.keeps, State.same, State.keepBoundary]
theorem keepHost_keeps : s.keeps (s.keepHost r) [.fresh, .power, .hostBad, .pfw, .pfe, .cores, .phys, .crecs, .ended, .chans, .ports, .fab, .svc, .trust] := by simp [State.keeps, State.same, State.keepHost]
theorem keepHost_clock : s.sameClock (s.keepHost r) := rfl
theorem keepTread_keeps : s.keeps (s.keepTread r) [.fresh, .boot, .pci, .power, .hostBad, .pfw, .pfe, .phys, .svc, .trust, .ans] := by simp [State.keeps, State.same, State.keepTread]
theorem keepTread_clock : s.sameClock (s.keepTread r) := rfl
theorem keepMarker_keeps : s.keeps (s.keepMarker r) [.fresh, .boot, .pci, .power, .mem, .host, .hostBad, .gal, .hbm, .units, .recs, .pfw, .pfe, .wings, .cores, .phys, .crecs, .ended, .chans, .cxl, .board, .ports, .fab, .acct, .svc, .trust, .fns, .newel, .ans] := by simp [State.keeps, State.same, State.keepMarker]
theorem keepMailbox_keeps : s.keeps (s.keepMailbox r) [.fresh, .pci, .power, .hostBad, .pfw, .pfe, .cores, .phys, .crecs, .ended, .chans, .ports, .fab, .svc, .trust, .ans] := by simp [State.keeps, State.same, State.keepMailbox]
theorem keepMailbox_clock : s.sameClock (s.keepMailbox r) := rfl
theorem keepCommand_keeps : s.keeps (s.keepCommand r) [.fresh, .boot, .pci, .power, .hostBad, .pfw, .pfe, .cores, .phys, .crecs, .ended, .chans, .ports, .fab, .svc, .trust, .ans] := by simp [State.keeps, State.same, State.keepCommand]
theorem keepCommand_clock : s.sameClock (s.keepCommand r) := rfl
theorem keepLoad_keeps : s.keeps (s.keepLoad r) [.fresh, .boot, .pci, .power, .hostBad, .pfw, .pfe, .phys, .crecs, .ended, .chans, .ports, .fab, .svc, .trust, .ans] := by simp [State.keeps, State.same, State.keepLoad]
theorem keepLoad_clock : s.sameClock (s.keepLoad r) := rfl
theorem keepService_keeps : s.keeps (s.keepService r) [.fresh, .boot, .pci, .power, .hostBad, .pfw, .pfe, .cores, .phys, .crecs, .ended, .chans, .fab, .trust, .ans] := by simp [State.keeps, State.same, State.keepService]
theorem keepService_clock : s.sameClock (s.keepService r) := rfl
theorem keepTrust_keeps : s.keeps (s.keepTrust r) [.boot, .pci, .power, .hostBad, .pfw, .pfe, .cores, .phys, .crecs, .ended, .chans, .ports, .fab, .ans] := by simp [State.keeps, State.same, State.keepTrust]
theorem keepTrust_clock : s.sameClock (s.keepTrust r) := rfl
theorem keepNewel_keeps : s.keeps (s.keepNewel r) [.fresh, .pci, .power, .hostBad, .pfw, .pfe, .cores, .phys, .crecs, .ended, .chans, .ports, .fab, .svc, .ans] := by simp [State.keeps, State.same, State.keepNewel]
theorem keepNewel_clock : s.sameClock (s.keepNewel r) := rfl
theorem keepDmaReg_keeps : s.keeps (s.keepDmaReg r) [.fresh, .boot, .pci, .time, .power, .mem, .host, .hostBad, .gal, .hbm, .units, .recs, .pfw, .pfe, .wings, .cores, .phys, .crecs, .ended, .cxl, .board, .ports, .fab, .acct, .svc, .trust, .fns, .newel, .ans] := by simp [State.keeps, State.same, State.keepDmaReg]
theorem keepDma_keeps : s.keeps (s.keepDma r) [.boot, .pci, .power, .hostBad, .pfw, .pfe, .cores, .phys, .crecs, .ended, .svc, .trust, .ans] := by simp [State.keeps, State.same, State.keepDma]
theorem keepDma_clock : s.sameClock (s.keepDma r) := rfl
theorem keepRegRow_keeps : s.keeps (s.keepRegRow r) [.fresh, .boot, .power, .host, .hostBad, .gal, .hbm, .units, .recs, .pfw, .pfe, .cores, .phys, .crecs, .ended, .chans, .cxl, .board, .fab, .acct, .trust, .fns, .newel] := by simp [State.keeps, State.same, State.keepRegRow]
theorem keepRegWrite_keeps : s.keeps (s.keepRegWrite r) [.fresh, .time, .power, .hostBad, .pfe, .cores, .phys, .crecs, .ended, .fab, .trust] := by simp [State.keeps, State.same, State.keepRegWrite]
theorem keepDebug_keeps : s.keeps (s.keepDebug r) [.time, .power, .hostBad, .pfe, .cores, .phys, .crecs, .ended, .fab] := by simp [State.keeps, State.same, State.keepDebug]
theorem keepFunc_keeps : s.keeps (s.keepFunc r) [.boot, .pci, .time, .power, .hostBad, .pfw, .pfe, .phys, .chans, .ports, .svc, .trust, .ans] := by simp [State.keeps, State.same, State.keepFunc]
theorem keepFuncSend_keeps : s.keeps (s.keepFuncSend r) [.boot, .pci, .time, .power, .hostBad, .pfw, .pfe, .phys, .chans, .svc, .trust, .ans] := by simp [State.keeps, State.same, State.keepFuncSend]
theorem keepStream_keeps : s.keeps (s.keepStream r) [.boot, .pci, .power, .hostBad, .pfw, .pfe, .phys, .chans, .svc, .trust, .ans] := by simp [State.keeps, State.same, State.keepStream]
theorem keepStream_clock : s.sameClock (s.keepStream r) := rfl
theorem keepRepair_keeps : s.keeps (s.keepRepair r) [.fresh, .boot, .pci, .time, .power, .hostBad, .pfw, .pfe, .cores, .phys, .crecs, .ended, .chans, .ports, .fab, .trust, .ans] := by simp [State.keeps, State.same, State.keepRepair]
theorem keepMonitor_keeps : s.keeps (s.keepMonitor r) [.fresh, .boot, .pci, .power, .hostBad, .pfw, .pfe, .cores, .phys, .crecs, .ended, .chans, .ports, .fab, .ans] := by simp [State.keeps, State.same, State.keepMonitor]
theorem keepMonitor_clock : s.sameClock (s.keepMonitor r) := rfl
theorem keepModelLoad_keeps : s.keeps (s.keepModelLoad r) [.fresh, .boot, .pci, .power, .hostBad, .pfw, .pfe, .cores, .phys, .crecs, .ended, .chans, .ports, .fab, .svc, .ans] := by simp [State.keeps, State.same, State.keepModelLoad]
theorem keepModelLoad_clock : s.sameClock (s.keepModelLoad r) := rfl
theorem keepPort_keeps : s.keeps (s.keepPort r) [.fresh, .boot, .pci, .power, .hostBad, .pfw, .pfe, .cores, .phys, .crecs, .ended, .chans, .svcBut, .trust, .ans] := by simp [State.keeps, State.same, State.keepPort]
theorem keepPort_clock : s.sameClock (s.keepPort r) := rfl
theorem keepFrame_keeps : s.keeps (s.keepFrame r) [.boot, .pci, .power, .hostBad, .pfw, .pfe, .cores, .phys, .crecs, .ended, .chans, .svc, .trust, .ans] := by simp [State.keeps, State.same, State.keepFrame]
theorem keepFrame_clock : s.sameClock (s.keepFrame r) := rfl
theorem keepCxl_keeps : s.keeps (s.keepCxl r) [.fresh, .boot, .pci, .time, .power, .hostBad, .pfw, .pfe, .cores, .phys, .crecs, .ended, .chans, .ports, .fab, .svc, .trust, .ans] := by simp [State.keeps, State.same, State.keepCxl]
theorem keepSideband_keeps : s.keeps (s.keepSideband r) [.fresh, .boot, .pci, .time, .mem, .host, .hostBad, .gal, .hbm, .units, .recs, .pfw, .pfe, .wings, .cores, .phys, .crecs, .ended, .chans, .cxl, .ports, .fab, .acct, .svc, .trust, .fns, .newel] := by simp [State.keeps, State.same, State.keepSideband]
theorem keepTapExit_keeps : s.keeps (s.keepTapExit r) [.fresh, .boot, .pci, .power, .mem, .host, .hostBad, .gal, .hbm, .units, .recs, .pfw, .pfe, .wings, .cores, .phys, .crecs, .ended, .chans, .cxl, .board, .ports, .fab, .acct, .svc, .fns, .newel, .ans] := by simp [State.keeps, State.same, State.keepTapExit]
theorem keepTapExit_clock : s.sameClock (s.keepTapExit r) := rfl
theorem keepTapPins_keeps : s.keeps (s.keepTapPins r) [.boot, .pci, .time, .power, .hostBad, .pfw, .pfe, .cores, .phys, .crecs, .ended, .chans, .svcBut, .fab] := by simp [State.keeps, State.same, State.keepTapPins]

end Sys2Proof.Machine
end

