-- ==== Sys2Proof/Laws/Memory.lean ====
section
/-!
SUPPORT. Laws of memory: a byte written reads back, every other byte stays, and each operation keeps the canonical form.
-/
namespace Sys2Proof.Machine

/-- Cells in canonical form. -/
def wfCells (c : List Host.Cell) : Prop := risingKeys c = true ∧ ∀ x ∈ c, x.2 ≠ 0

/-- Syndromes in canonical form. -/
def wfErrs (e : Tab Nat) : Prop := risingKeys e = true ∧ ∀ x ∈ e, x.2 ≠ 0

theorem wf_iff (m : Mem) : m.wf = true ↔ wfCells m.cells ∧ wfErrs m.errs := by
  simp only [Mem.wf, wfCells, wfErrs, Bool.and_eq_true, List.all_eq_true, decide_eq_true_eq]
  tauto

theorem mem_setCell {c : List Host.Cell} {a : Nat} {b : Byte} {x : Host.Cell} (h : x ∈ setCell c a b) : x = (a, b) ∧ b ≠ 0 ∨ x ∈ c := by
  induction c with
  | nil =>
    unfold setCell at h
    split at h
    · simp at h
    · rename_i hb; exact .inl ⟨by simpa using h, hb⟩
  | cons y t ih =>
    obtain ⟨k, v⟩ := y
    unfold setCell at h
    split at h
    · split at h
      · exact .inr h
      · rename_i hb
        rcases List.mem_cons.1 h with h | h
        · exact .inl ⟨h, hb⟩
        · exact .inr h
    · split at h
      · split at h
        · exact .inr (List.mem_cons_of_mem _ h)
        · rename_i hb
          rcases List.mem_cons.1 h with h | h
          · exact .inl ⟨h, hb⟩
          · exact .inr (List.mem_cons_of_mem _ h)
      · rcases List.mem_cons.1 h with h | h
        · exact .inr (h ▸ List.mem_cons_self)
        · rcases ih h with h | h
          · exact .inl h
          · exact .inr (List.mem_cons_of_mem _ h)

theorem wfCells_setCell (c : List Host.Cell) (a : Nat) (b : Byte) (h : wfCells c) : wfCells (setCell c a b) := by
  refine ⟨?_, fun x hx => ?_⟩
  · induction c with
    | nil => unfold setCell; split <;> simp [risingKeys]
    | cons y t ih =>
      obtain ⟨k, v⟩ := y
      have hr := (rising_cons _ t).1 h.1
      have ht : wfCells t := ⟨hr.2, fun x hx => h.2 x (List.mem_cons_of_mem _ hx)⟩
      unfold setCell
      split
      · rename_i h1
        split
        · exact h.1
        · rw [rising_cons]; exact ⟨by simpa using h1, h.1⟩
      · rename_i h1
        split
        · rename_i h2
          subst h2
          split
          · exact hr.2
          · rw [rising_cons]; exact hr
        · rename_i h2
          rw [rising_cons]
          refine ⟨fun y hy => ?_, ih ht⟩
          rcases mem_setCell (List.mem_of_mem_head? hy) with h3 | h3
          · rw [h3.1]; simp only; omega
          · exact rising_lt _ t h.1 y h3
  · rcases mem_setCell hx with h1 | h1
    · rw [h1.1]; exact h1.2
    · exact h.2 x h1

/-- A byte put into canonical cells reads back. -/
theorem getCell_setCell_same (c : List Host.Cell) (a : Nat) (b : Byte) (h : risingKeys c = true) : getCell (setCell c a b) a = b := by
  induction c with
  | nil => unfold setCell; split <;> simp_all [getCell]
  | cons y t ih =>
    obtain ⟨k, v⟩ := y
    have hr := (rising_cons _ t).1 h
    have low : ∀ x ∈ t, k < x.1 := rising_lt _ t h
    have zero : ∀ (l : List Host.Cell), (∀ x ∈ l, a < x.1) → getCell l a = 0 := by
      intro l hl
      induction l with
      | nil => rfl
      | cons z l il =>
        obtain ⟨p, q⟩ := z
        have : a < p := hl (p, q) List.mem_cons_self
        have hne : p ≠ a := by omega
        simp only [getCell, hne, if_false]
        exact il fun x hx => hl x (List.mem_cons_of_mem _ hx)
    unfold setCell
    split
    · rename_i h1
      split
      · rename_i hb
        rw [hb]
        refine zero _ fun x hx => ?_
        rcases List.mem_cons.1 hx with rfl | hx
        · exact h1
        · exact lt_trans h1 (low x hx)
      · simp [getCell]
    · split
      · rename_i h2
        subst h2
        split
        · rename_i hb
          rw [hb]; exact zero t low
        · simp [getCell]
      · rename_i h2
        have : k ≠ a := fun e => h2 e.symm
        simp only [getCell, this, if_false]
        exact ih hr.2

/-- A byte put leaves every other byte. -/
theorem getCell_setCell_ne (c : List Host.Cell) (a x : Nat) (b : Byte) (h : x ≠ a) : getCell (setCell c a b) x = getCell c x := by
  induction c with
  | nil => unfold setCell; split <;> simp [getCell, h.symm]
  | cons y t ih =>
    obtain ⟨k, v⟩ := y
    unfold setCell
    split
    · split
      · rfl
      · simp [getCell, h.symm]
    · split
      · rename_i h2
        subst h2
        split <;> simp [getCell, h.symm]
      · simp [getCell, ih]

theorem wfCells_store (bs : List Byte) (c : List Host.Cell) (a : Nat) (h : wfCells c) : wfCells (storeCells c a bs) := by
  induction bs generalizing c a with
  | nil => exact h
  | cons b bs ih => exact ih _ _ (wfCells_setCell c a b h)

/-- Bytes stored leave every address outside them. -/
theorem getCell_store_out (bs : List Byte) (c : List Host.Cell) (a x : Nat) (h : x < a ∨ a + bs.length ≤ x) :
    getCell (storeCells c a bs) x = getCell c x := by
  induction bs generalizing c a with
  | nil => rfl
  | cons b bs ih =>
    simp only [List.length_cons] at h
    simp only [storeCells]
    rw [ih _ _ (by omega), getCell_setCell_ne _ _ _ _ (by omega)]

/-- Bytes stored read back. -/
theorem getCell_store_in (bs : List Byte) (c : List Host.Cell) (a i : Nat) (h : wfCells c) (hi : i < bs.length) :
    getCell (storeCells c a bs) (a + i) = bs.getD i 0 := by
  induction bs generalizing c a i with
  | nil => simp at hi
  | cons b bs ih =>
    simp only [storeCells]
    cases i with
    | zero =>
      simp only [Nat.add_zero, List.getD_cons_zero]
      rw [getCell_store_out _ _ _ _ (by omega), getCell_setCell_same _ _ _ h.1]
    | succ i =>
      have := ih (setCell c a b) (a + 1) i (wfCells_setCell c a b h) (by simpa using hi)
      rw [show a + (i + 1) = a + 1 + i by omega, this]
      simp

theorem wfErrs_set (e : Tab Nat) (w y : Nat) (h : wfErrs e) : wfErrs (setErr e w y) := by
  unfold setErr
  split
  · exact ⟨rising_erase e w h.1, fun x hx => h.2 x (mem_erase hx)⟩
  · rename_i hy
    refine ⟨rising_set e w y h.1, fun x hx => ?_⟩
    rcases mem_set hx with h1 | h1
    · rw [h1]; exact hy
    · exact h.2 x h1

theorem wfErrs_filter (f : Nat × Nat → Bool) (e : Tab Nat) (h : wfErrs e) : wfErrs (e.filter f) :=
  ⟨rising_filter f e h.1, fun x hx => h.2 x (List.mem_filter.1 hx).1⟩

theorem wfCells_filter (f : Host.Cell → Bool) (c : List Host.Cell) (h : wfCells c) : wfCells (c.filter f) :=
  ⟨rising_filter f c h.1, fun x hx => h.2 x (List.mem_filter.1 hx).1⟩

/-- A fold of syndrome changes keeps the canonical form. -/
theorem wfErrs_foldl {β : Type} (l : List β) (f : Tab Nat → β → Tab Nat) (hf : ∀ e x, wfErrs e → wfErrs (f e x)) (e : Tab Nat)
    (h : wfErrs e) : wfErrs (l.foldl f e) := by
  induction l generalizing e with
  | nil => exact h
  | cons x l ih => exact ih _ (hf e x h)

/-- A write keeps the canonical form. -/
theorem wf_write (m : Mem) (a : Nat) (bs : List PByte) (h : m.wf = true) : (m.write a bs).wf = true := by
  rw [wf_iff] at h ⊢
  exact ⟨wfCells_store _ _ _ h.1, wfErrs_foldl _ _ (fun e x he => wfErrs_set _ _ _ he) _ h.2⟩

/-- A write of bytes leaves every address outside them. -/
theorem write_out (m : Mem) (a x : Nat) (bs : List PByte) (h : x < a ∨ a + bs.length ≤ x) :
    getCell (m.write a bs).cells x = getCell m.cells x :=
  getCell_store_out _ _ _ _ (by simpa using h)

/-- A write of bytes reads back. -/
theorem write_in (m : Mem) (a i : Nat) (bs : List PByte) (h : m.wf = true) (hi : i < bs.length) :
    getCell (m.write a bs).cells (a + i) = (bs.getD i (0, false)).1 := by
  have := getCell_store_in (bs.map (·.1)) m.cells a i ((wf_iff m).1 h).1 (by simpa using hi)
  have e : (bs.map (·.1)).getD i 0 = (bs.getD i (0, false)).1 := by
    simp only [List.getD_eq_getElem?_getD, List.getElem?_map]
    cases bs[i]? <;> rfl
  rw [← e]; exact this

/-- Zeroing a range keeps the canonical form. -/
theorem wf_zero (s : State) (a n : Nat) (h : s.mem.wf = true) : (s.zero a n).mem.wf = true := by
  rw [wf_iff] at h ⊢
  exact ⟨wfCells_filter _ _ h.1, wfErrs_filter _ _ h.2⟩

theorem getCell_filter_out (c : List Host.Cell) (f : Host.Cell → Bool) (x : Nat) (h : ∀ b, f (x, b) = false) : getCell (c.filter f) x = 0 := by
  induction c with
  | nil => rfl
  | cons y t ih =>
    obtain ⟨k, v⟩ := y
    simp only [List.filter_cons]
    split
    · rename_i hk
      have : k ≠ x := by rintro rfl; simp [h v] at hk
      simp [getCell, this, ih]
    · exact ih

theorem getCell_filter_in (c : List Host.Cell) (f : Host.Cell → Bool) (x : Nat) (h : ∀ b, f (x, b) = true) : getCell (c.filter f) x = getCell c x := by
  induction c with
  | nil => rfl
  | cons y t ih =>
    obtain ⟨k, v⟩ := y
    simp only [List.filter_cons]
    split
    · simp [getCell, ih]
    · rename_i hk
      have : k ≠ x := by rintro rfl; simp [h v] at hk
      simp [getCell, this, ih]

/-- A zeroed range reads 0, and every byte outside it stays. -/
theorem zero_in (s : State) (a n x : Nat) (h : a ≤ x) (h2 : x < a + n) : getCell (s.zero a n).mem.cells x = 0 :=
  getCell_filter_out _ _ _ fun b => by simp; omega

theorem zero_out (s : State) (a n x : Nat) (h : x < a ∨ a + n ≤ x) : getCell (s.zero a n).mem.cells x = getCell s.mem.cells x :=
  getCell_filter_in _ _ _ fun b => by simpa using h

/-- Other syndromes for a line keep the canonical form. -/
theorem wfErrs_setLine (e : Tab Nat) (tag : Nat) (new : Tab Nat) (h : wfErrs e) : wfErrs (setLineErrs e tag new) :=
  wfErrs_foldl _ _ (fun _ _ he => wfErrs_set _ _ _ he) _ (wfErrs_filter _ _ h)

/-- What stands behind a line, made visible again, is in canonical form. -/
theorem wf_uncover (m : Mem) (l : Line) (h : m.wf = true) : (m.uncover l).wf = true := by
  rw [wf_iff] at h ⊢
  refine ⟨?_, wfErrs_setLine _ _ _ h.2⟩
  unfold Mem.uncover
  dsimp only
  split
  · exact wfCells_store _ _ _ h.1
  · exact h.1

/-- Losing the lines of the gallery keeps the canonical form. -/
theorem wf_galLose (s : State) (h : s.mem.wf = true) : s.galLose.mem.wf = true := by
  have key : ∀ (l : Tab Line) (m : Mem), m.wf = true → (l.foldl (fun (m : Mem) x => m.uncover x.2) m).wf = true := by
    intro l
    induction l with
    | nil => exact fun m h => h
    | cons x l ih => exact fun m hm => ih _ (wf_uncover m x.2 hm)
  exact key _ _ h

/-! Records, events and charges leave memory alone. -/

/-- A fold whose every step leaves memory alone leaves it alone. -/
theorem mem_foldl {β : Type} (l : List β) (f : State → β → State) (hf : ∀ s x, (f s x).mem = s.mem) (s : State) : (l.foldl f s).mem = s.mem := by
  induction l generalizing s with
  | nil => rfl
  | cons x l ih => rw [List.foldl_cons, ih, hf]

@[simp] theorem charge_mem (s : State) (w : Option Nat) (f n : Nat) : (s.charge w f n).mem = s.mem := by
  unfold State.charge
  split
  · rfl
  · dsimp only; split <;> rfl

@[simp] theorem hostWrite_mem (s : State) (fn a : Nat) (bs : List PByte) : (s.hostWrite fn a bs).mem = s.mem := by
  unfold State.hostWrite
  dsimp only
  split
  · split <;> simp
  · rfl

@[simp] theorem alert_mem (s : State) (b : Nat) : (s.alert b).mem = s.mem := by
  unfold State.alert; split <;> rfl

@[simp] theorem writeEvt_mem (s : State) (fn : Nat) (b : List Byte) (c : Nat) : (s.writeEvt fn b c).mem = s.mem := by
  unfold State.writeEvt
  dsimp only
  split
  · split <;> simp [State.modFn, State.fire]
  · rfl

@[simp] theorem countLost_mem (s : State) (b : LostBy) (n : Nat) : (s.countLost b n).mem = s.mem := by cases b <;> rfl

@[simp] theorem postEvt_mem (s : State) (fns : List Nat) (b : List Byte) (c : Nat) (u : Option (LostBy × Nat)) : (s.postEvt fns b c u).mem = s.mem := by
  unfold State.postEvt
  split
  · exact mem_foldl _ _ (fun _ _ => writeEvt_mem _ _ _ _) _
  · split
    · rfl
    · dsimp only; split <;> simp

@[simp] theorem memRecord_mem (s : State) (k st src syn key a : Nat) : (s.memRecord k st src syn key a).mem = s.mem := by
  unfold State.memRecord
  dsimp only
  split
  · rfl
  · rw [postEvt_mem]; split <;> (split <;> (try split) <;> simp)

@[simp] theorem setHw_mem (s : State) (k st : Nat) (own : Bool) : (s.setHw k st own).mem = s.mem := by
  unfold State.setHw State.unitEvt
  split
  · rfl
  · simp

@[simp] theorem hbmUeLimit_mem (s : State) (ch : Nat) : (s.hbmUeLimit ch).mem = s.mem := by
  unfold State.hbmUeLimit; split <;> simp

@[simp] theorem found_mem (s : State) (src pass y i a : Nat) (loc : Option Nat) : (s.found src pass y i a loc).mem = s.mem := by
  unfold State.found
  dsimp only
  rw [memRecord_mem]
  split <;> simp

@[simp] theorem retiredAccess_mem (s : State) (src a : Nat) : (s.retiredAccess src a).mem = s.mem := by simp [State.retiredAccess]

@[simp] theorem writeLost_mem (s : State) (a : Nat) : (s.writeLost a).mem = s.mem := by
  unfold State.writeLost; split <;> rfl

@[simp] theorem forgetTimed_mem (s : State) (a : Nat) : (s.forgetTimed a).mem = s.mem := by
  unfold State.forgetTimed; split <;> rfl

@[simp] theorem chargeMem_mem (s : State) (r : Req) (a n : Nat) (w : Bool) : (s.chargeMem r a n w).mem = s.mem := by
  unfold State.chargeMem
  dsimp only
  split <;> simp

/-! Every operation over local memory keeps its canonical form. -/

/-- A fold whose every step keeps the canonical form keeps it. -/
theorem wf_foldl {β : Type} (l : List β) (f : State → β → State) (hf : ∀ s x, s.mem.wf = true → (f s x).mem.wf = true) (s : State)
    (h : s.mem.wf = true) : (l.foldl f s).mem.wf = true := by
  induction l generalizing s with
  | nil => exact h
  | cons x l ih => exact ih _ (hf s x h)

theorem wf_readFix (s : State) (src pass word : Nat) (h : s.mem.wf = true) : (s.readFix src pass word).mem.wf = true := by
  unfold State.readFix
  dsimp only
  split
  · exact h
  · rw [found_mem]
    rw [wf_iff] at h ⊢
    exact ⟨h.1, wfErrs_set _ _ _ h.2⟩

theorem wf_touch (s : State) (src pass a n : Nat) (h : s.mem.wf = true) : (s.touch src pass a n).mem.wf = true :=
  wf_foldl _ _ (fun _ _ hs => wf_readFix _ _ _ _ hs) _ h

theorem wf_mergeRead (s : State) (src a n : Nat) (h : s.mem.wf = true) : (s.mergeRead src a n).mem.wf = true :=
  wf_foldl _ _ (fun _ _ hs => wf_readFix _ _ _ _ hs) _ h

theorem wf_evict (s : State) (k : Nat) (h : s.mem.wf = true) : (s.evict k).mem.wf = true := by
  unfold State.evict
  split
  · exact h
  · rename_i l _
    dsimp only
    have ht : (if l.dirty then s.touch 0 0 (l.tag * 256) 256 else s).mem.wf = true := by
      split
      · exact wf_touch _ _ _ _ _ h
      · exact h
    split
    · exact wf_uncover _ _ ht
    · split
      · exact ht
      · rw [retiredAccess_mem]; exact wf_uncover _ _ ht
      · rw [writeLost_mem]; exact wf_uncover _ _ ht

theorem wf_galFlush (s : State) (h : s.mem.wf = true) : s.galFlush.mem.wf = true := wf_foldl _ _ (fun _ _ hs => wf_evict _ _ hs) _ h

theorem victim_mem (s t : State) (mask sl set k : Nat) (h : s.victim mask sl set = some (k, t)) : t.mem = s.mem := by
  unfold State.victim at h
  dsimp only at h
  split at h
  · cases h
  · split at h
    · cases h; rfl
    · cases h

theorem wf_galAccess (s : State) (mask : Nat) (na w whole : Bool) (a : Nat) (h : s.mem.wf = true) :
    (s.galAccess mask na w whole a).mem.wf = true := by
  unfold State.galAccess
  dsimp only
  split
  · split <;> exact h
  · split
    · exact h
    · split
      · exact h
      · rename_i k t hv
        have ht : t.mem.wf = true := by rw [victim_mem _ _ _ _ _ _ hv]; exact h
        split
        · exact wf_evict _ _ ht
        · exact wf_touch _ _ _ _ _ (wf_evict _ _ ht)

theorem wf_readPiece (s : State) (r : Req) (a n : Nat) (h : s.mem.wf = true) : (s.readPiece r a n).2.mem.wf = true := by
  unfold State.readPiece
  split
  · exact h
  · exact wf_touch _ _ _ _ _ h
  · split
    · simpa using h
    · simpa using h
    · split
      · simpa using h
      · exact wf_touch _ _ _ _ _ (wf_galAccess _ _ _ _ _ _ h)

/-- A read keeps the canonical form of memory. -/
theorem wf_read (s : State) (r : Req) (a n : Nat) (h : s.mem.wf = true) : (s.read r a n).2.mem.wf = true := by
  have key : ∀ (l : List (Nat × Nat)) (acc : List PByte × State), acc.2.mem.wf = true →
      (l.foldl (fun (acc : List PByte × State) (p : Nat × Nat) =>
        let y := acc.2.place r p.1
        let (b, s') := (acc.2.chargeMem r y p.2 false).readPiece r y p.2
        (acc.1 ++ b, s')) acc).2.mem.wf = true := by
    intro l
    induction l with
    | nil => exact fun acc h => h
    | cons p l ih => exact fun acc ha => ih _ (wf_readPiece _ _ _ _ (by rw [chargeMem_mem]; exact ha))
  exact key _ _ h

theorem wf_writePiece (s : State) (r : Req) (a : Nat) (bs : List PByte) (h : s.mem.wf = true) : (s.writePiece r a bs).mem.wf = true := by
  unfold State.writePiece
  dsimp only
  split
  · exact h
  · exact wf_write _ _ _ (wf_mergeRead _ _ _ _ h)
  · split
    · simpa using h
    · simpa using h
    · split
      · refine wf_write _ _ _ ?_
        rw [wf_iff] at h ⊢
        exact ⟨h.1, wfErrs_foldl _ _ (fun _ _ he => wfErrs_set _ _ _ he) _ h.2⟩
      · exact wf_write _ _ _ (wf_mergeRead _ _ _ _ (wf_galAccess _ _ _ _ _ _ h))

/-- A write keeps the canonical form of memory. -/
theorem wf_stateWrite (s : State) (r : Req) (a : Nat) (bs : List PByte) (h : s.mem.wf = true) : (s.write r a bs).mem.wf = true :=
  wf_foldl _ _ (fun _ _ hs => wf_writePiece _ _ _ _ (by rw [chargeMem_mem]; exact hs)) _ h

theorem wf_fetch (s : State) (w a n : Nat) (h : s.mem.wf = true) : (s.fetch w a n).mem.wf = true := wf_read _ _ _ _ h

theorem reset_mem_wf : State.reset.mem.wf = true ∧ State.reset.host.wf = true := by decide

end Sys2Proof.Machine
end

