-- ==== Sys2Proof/Laws/Kept.lean ====
section
/-!
SUPPORT. What reads and writes through the gallery leave of memory: every byte outside the place written is as it was, or as it stood behind a
dirty line whose write back is lost.
-/
namespace Sys2Proof.Machine

/-! Records, events and charges leave the gallery alone. -/

/-- A fold whose every step leaves the gallery alone leaves it alone. -/
theorem gal_foldl {β : Type} (l : List β) (f : State → β → State) (hf : ∀ s x, (f s x).gal = s.gal) (s : State) : (l.foldl f s).gal = s.gal := by
  induction l generalizing s with
  | nil => rfl
  | cons x l ih => rw [List.foldl_cons, ih, hf]

@[simp] theorem charge_gal (s : State) (w : Option Nat) (f n : Nat) : (s.charge w f n).gal = s.gal := by
  unfold State.charge
  split
  · rfl
  · dsimp only; split <;> rfl

@[simp] theorem hostWrite_gal (s : State) (fn a : Nat) (bs : List PByte) : (s.hostWrite fn a bs).gal = s.gal := by
  unfold State.hostWrite
  dsimp only
  split
  · split <;> simp
  · rfl

@[simp] theorem alert_gal (s : State) (b : Nat) : (s.alert b).gal = s.gal := by
  unfold State.alert; split <;> rfl

@[simp] theorem writeEvt_gal (s : State) (fn : Nat) (b : List Byte) (c : Nat) : (s.writeEvt fn b c).gal = s.gal := by
  unfold State.writeEvt
  dsimp only
  split
  · split <;> simp [State.modFn, State.fire]
  · rfl

@[simp] theorem countLost_gal (s : State) (b : LostBy) (n : Nat) : (s.countLost b n).gal = s.gal := by cases b <;> rfl

@[simp] theorem postEvt_gal (s : State) (fns : List Nat) (b : List Byte) (c : Nat) (u : Option (LostBy × Nat)) : (s.postEvt fns b c u).gal = s.gal := by
  unfold State.postEvt
  split
  · exact gal_foldl _ _ (fun _ _ => writeEvt_gal _ _ _ _) _
  · split
    · rfl
    · dsimp only; split <;> simp

@[simp] theorem memRecord_gal (s : State) (k st src syn key a : Nat) : (s.memRecord k st src syn key a).gal = s.gal := by
  unfold State.memRecord
  dsimp only
  split
  · rfl
  · rw [postEvt_gal]; split <;> (split <;> (try split) <;> simp)

@[simp] theorem setHw_gal (s : State) (k st : Nat) (own : Bool) : (s.setHw k st own).gal = s.gal := by
  unfold State.setHw State.unitEvt
  split
  · rfl
  · simp

@[simp] theorem hbmUeLimit_gal (s : State) (ch : Nat) : (s.hbmUeLimit ch).gal = s.gal := by
  unfold State.hbmUeLimit; split <;> simp

@[simp] theorem note_lines (g : Gallery) (loc word pass : Nat) (ue : Bool) : (g.note loc word pass ue).lines = g.lines := by
  have key : ∀ c : Bool, (if c then { g with candidates := g.candidates ++ [loc] } else g).lines = g.lines := by intro c; cases c <;> rfl
  unfold Gallery.note
  dsimp only
  cases ue
  · exact key _
  · exact key _

@[simp] theorem found_lines (s : State) (src pass y i a : Nat) (loc : Option Nat) : (s.found src pass y i a loc).gal.lines = s.gal.lines := by
  unfold State.found
  dsimp only
  rw [memRecord_gal]
  split <;> simp

@[simp] theorem retiredAccess_gal (s : State) (src a : Nat) : (s.retiredAccess src a).gal = s.gal := by simp [State.retiredAccess]

@[simp] theorem writeLost_gal (s : State) (a : Nat) : (s.writeLost a).gal = s.gal := by
  unfold State.writeLost; split <;> rfl

@[simp] theorem forgetTimed_gal (s : State) (a : Nat) : (s.forgetTimed a).gal = s.gal := by
  unfold State.forgetTimed; split <;> rfl

@[simp] theorem chargeMem_gal (s : State) (r : Req) (a n : Nat) (w : Bool) : (s.chargeMem r a n w).gal = s.gal := by
  unfold State.chargeMem
  dsimp only
  split <;> simp

/-! Reading a word changes no data byte and no line. -/

@[simp] theorem readFix_cells (s : State) (src pass word : Nat) : (s.readFix src pass word).mem.cells = s.mem.cells := by
  unfold State.readFix
  dsimp only
  split
  · rfl
  · rw [found_mem]

@[simp] theorem readFix_lines (s : State) (src pass word : Nat) : (s.readFix src pass word).gal.lines = s.gal.lines := by
  unfold State.readFix
  dsimp only
  split
  · rfl
  · rw [found_lines]

theorem readFixes_same (l : List Nat) (src pass : Nat) (s : State) :
    (l.foldl (fun s w => s.readFix src pass w) s).mem.cells = s.mem.cells
      ∧ (l.foldl (fun s w => s.readFix src pass w) s).gal.lines = s.gal.lines := by
  induction l generalizing s with
  | nil => exact ⟨rfl, rfl⟩
  | cons w l ih => exact ⟨(ih _).1.trans (readFix_cells ..), (ih _).2.trans (readFix_lines ..)⟩

@[simp] theorem touch_cells (s : State) (src pass a n : Nat) : (s.touch src pass a n).mem.cells = s.mem.cells := (readFixes_same _ src pass s).1
@[simp] theorem touch_lines (s : State) (src pass a n : Nat) : (s.touch src pass a n).gal.lines = s.gal.lines := (readFixes_same _ src pass s).2

/-! ## What the gallery keeps -/

/-- A value of a byte that `State.byteKept` allows: that of memory, or that behind a dirty line. -/
def State.value (s : State) (a : Nat) (v : Byte) : Prop :=
  v = getCell s.mem.cells a ∨ ∃ l ∈ s.gal.lines, l.2.dirty = true ∧ l.2.tag = a / 256 ∧ v = l.2.back.getD (a % 256) 0

/-- The bytes of a set of addresses are kept, and so is what the dirty lines have behind them. -/
def State.bytesKept (s : State) (P : Nat → Prop) (t : State) : Prop :=
  t.mem.wf = true ∧ ∀ a, P a → s.value a (getCell t.mem.cells a) ∧
    ∀ l ∈ t.gal.lines, l.2.dirty = true → l.2.tag = a / 256 → s.value a (l.2.back.getD (a % 256) 0)

theorem State.bytesKept.byteKept {s t : State} {P : Nat → Prop} (h : s.bytesKept P t) {a : Nat} (ha : P a) : s.byteKept t a := (h.2 a ha).1

theorem bytesKept_refl (s : State) (P : Nat → Prop) (h : s.mem.wf = true) : s.bytesKept P s :=
  ⟨h, fun _ _ => ⟨.inl rfl, fun l hl hd ht => .inr ⟨l, hl, hd, ht, rfl⟩⟩⟩

/-- The same data bytes, and no dirty line with anything else behind it. -/
theorem bytesKept_of_lines {s t u : State} {P : Nat → Prop} (h : s.bytesKept P t) (hw : u.mem.wf = true) (hc : u.mem.cells = t.mem.cells)
    (hl : ∀ l ∈ u.gal.lines, l.2.dirty = true → ∃ m ∈ t.gal.lines, m.2.dirty = true ∧ m.2.tag = l.2.tag ∧ m.2.back = l.2.back) : s.bytesKept P u := by
  refine ⟨hw, fun a ha => ⟨hc ▸ (h.2 a ha).1, fun l hm hd ht => ?_⟩⟩
  obtain ⟨m, hm', hd', ht', hb⟩ := hl l hm hd
  exact hb ▸ (h.2 a ha).2 m hm' hd' (ht'.trans ht)

theorem bytesKept_of_same {s t u : State} {P : Nat → Prop} (h : s.bytesKept P t) (hw : u.mem.wf = true) (hc : u.mem.cells = t.mem.cells)
    (hl : u.gal.lines = t.gal.lines) : s.bytesKept P u :=
  bytesKept_of_lines h hw hc fun l hm hd => ⟨l, hl ▸ hm, hd, rfl, rfl⟩

theorem bytesKept_touch {s t : State} {P : Nat → Prop} (h : s.bytesKept P t) (src pass a n : Nat) : s.bytesKept P (t.touch src pass a n) :=
  bytesKept_of_same h (wf_touch _ _ _ _ _ h.1) (touch_cells ..) (touch_lines ..)

theorem bytesKept_mergeRead {s t : State} {P : Nat → Prop} (h : s.bytesKept P t) (src a n : Nat) : s.bytesKept P (t.mergeRead src a n) := by
  refine bytesKept_of_same h (wf_mergeRead _ _ _ _ h.1) ?_ ?_
  · unfold State.mergeRead
    induction (wordsOf a n).filter fun x => !x.2 generalizing t with
    | nil => rfl
    | cons w l ih => exact (ih (bytesKept_of_same h (wf_readFix _ _ _ _ h.1) (readFix_cells ..) (readFix_lines ..))).trans (readFix_cells ..)
  · unfold State.mergeRead
    induction (wordsOf a n).filter fun x => !x.2 generalizing t with
    | nil => rfl
    | cons w l ih => exact (ih (bytesKept_of_same h (wf_readFix _ _ _ _ h.1) (readFix_cells ..) (readFix_lines ..))).trans (readFix_lines ..)

theorem mem_tabFind {α : Type} {t : Tab α} {k : Nat} {v : α} (h : Tab.find t k = some v) : (k, v) ∈ t := by
  induction t with
  | nil => cases h
  | cons y t ih =>
    unfold Tab.find at h
    split at h
    · rename_i hk; cases h; subst hk; exact .head _
    · exact .tail _ (ih h)

/-- A line that leaves its location brings back what is behind it. -/
theorem bytesKept_uncover {s t : State} {P : Nat → Prop} (h : s.bytesKept P t) {l : Nat × Line} (hl : l ∈ t.gal.lines) (u : State)
    (hm : u.mem = t.mem.uncover l.2) (hg : ∀ x ∈ u.gal.lines, x ∈ t.gal.lines) : s.bytesKept P u := by
  have hw : u.mem.wf = true := hm ▸ wf_uncover _ _ h.1
  by_cases hd : l.2.dirty = true
  · refine ⟨hw, fun a ha => ⟨?_, fun x hx hd' ht => (h.2 a ha).2 x (hg x hx) hd' ht⟩⟩
    have hc : u.mem.cells = storeCells t.mem.cells (l.2.tag * 256) (l.2.back.take 256) := by
      rw [hm]; simp only [Mem.uncover, hd, if_true]
    rw [hc]
    by_cases ho : a < l.2.tag * 256 ∨ l.2.tag * 256 + (l.2.back.take 256).length ≤ a
    · rw [getCell_store_out _ _ _ _ ho]; exact (h.2 a ha).1
    · have hlen : (l.2.back.take 256).length ≤ 256 := by rw [List.length_take]; omega
      obtain ⟨i, rfl⟩ : ∃ i, a = l.2.tag * 256 + i := ⟨a - l.2.tag * 256, by omega⟩
      have hi : i < (l.2.back.take 256).length := by omega
      rw [getCell_store_in _ _ _ _ ((wf_iff _).1 h.1).1 hi]
      have := (h.2 _ ha).2 l hl hd (by omega)
      have e : (l.2.tag * 256 + i) % 256 = i := by omega
      rw [e] at this
      have hi' : i < l.2.back.length := by rw [List.length_take] at hi; omega
      have hb : (l.2.back.take 256).getD i 0 = l.2.back.getD i 0 := by
        simp only [List.getD_eq_getElem?_getD, List.getElem?_take, show i < 256 by omega, if_true]
      rw [← hb] at this
      simpa only [List.getD_eq_getElem _ _ hi] using this
  · refine bytesKept_of_lines h hw ?_ fun x hx hdx => ⟨x, hg x hx, hdx, rfl, rfl⟩
    rw [hm]; simp only [Mem.uncover, hd]; rfl

theorem bytesKept_evict {s t : State} {P : Nat → Prop} (h : s.bytesKept P t) (k : Nat) : s.bytesKept P (t.evict k) := by
  unfold State.evict
  split
  · exact h
  · rename_i l hf
    dsimp only
    generalize hu : (if l.dirty then t.touch 0 0 (l.tag * 256) 256 else t) = u
    have hk : s.bytesKept P u := by rw [← hu]; split; exacts [bytesKept_touch h .., h]
    have hl : u.gal.lines = t.gal.lines := by rw [← hu]; split; exacts [touch_lines .., rfl]
    have hm : (k, l) ∈ u.gal.lines := hl ▸ mem_tabFind hf
    split
    · exact bytesKept_uncover hk hm _ rfl fun x hx => mem_erase hx
    · split
      · exact bytesKept_of_lines hk hk.1 rfl fun x hx hd => ⟨x, mem_erase hx, hd, rfl, rfl⟩
      · exact bytesKept_uncover hk hm _ (retiredAccess_mem ..) fun x hx => by rw [retiredAccess_gal] at hx; exact mem_erase hx
      · exact bytesKept_uncover hk hm _ (writeLost_mem ..) fun x hx => by rw [writeLost_gal] at hx; exact mem_erase hx

/-- Choosing a victim changes no line but its count. -/
theorem victim_lines (s t : State) (mask sl set k : Nat) (h : s.victim mask sl set = some (k, t)) :
    ∀ x ∈ t.gal.lines, ∃ y ∈ s.gal.lines, y.2.dirty = x.2.dirty ∧ y.2.tag = x.2.tag ∧ y.2.back = x.2.back := by
  have key : ∀ (c : Nat → Nat) (m : Nat) (el : List Nat) (g : Tab Line),
      (∀ x ∈ g, ∃ y ∈ s.gal.lines, y.2.dirty = x.2.dirty ∧ y.2.tag = x.2.tag ∧ y.2.back = x.2.back) →
      ∀ x ∈ el.foldl (fun t y => match Tab.find t (c y) with | some l => Tab.set t (c y) { l with reuse := l.reuse - m } | none => t) g,
      ∃ y ∈ s.gal.lines, y.2.dirty = x.2.dirty ∧ y.2.tag = x.2.tag ∧ y.2.back = x.2.back := by
    intro c m el
    induction el with
    | nil => exact fun g h => h
    | cons e el ih =>
      intro g hg
      refine ih _ fun x hx => ?_
      dsimp only at hx
      split at hx
      · rename_i l hf
        rcases mem_set hx with rfl | hx
        · exact hg (c e, l) (mem_tabFind hf)
        · exact hg x hx
      · exact hg x hx
  unfold State.victim at h
  dsimp only at h
  split at h
  · cases h
  · split at h
    · cases h
      dsimp only
      split
      · exact fun x hx => ⟨x, hx, rfl, rfl, rfl⟩
      · exact key _ _ _ _ fun x hx => ⟨x, hx, rfl, rfl, rfl⟩
    · cases h

theorem bytes_getD (m : Mem) (a n i : Nat) (h : i < n) : (m.bytes a n).getD i 0 = getCell m.cells (a + i) := by
  have key : ∀ (n a i : Nat), i < n → ((upFrom a n).map (getCell m.cells)).getD i 0 = getCell m.cells (a + i) := by
    intro n
    induction n with
    | zero => intro a i h; omega
    | succ n ih =>
      intro a i h
      cases i with
      | zero => rfl
      | succ i => rw [show a + (i + 1) = a + 1 + i by omega]; exact ih (a + 1) i (by omega)
  exact key n a i h

/-- A line put in a location, dirty by this write or as it was. -/
theorem bytesKept_set {s t : State} {P : Nat → Prop} (h : s.bytesKept P t) (k : Nat) (l : Line) (u : State) (hm : u.mem = t.mem)
    (hg : u.gal.lines = Tab.set t.gal.lines k l)
    (hl : l.dirty = true → (∃ m ∈ t.gal.lines, m.2.dirty = true ∧ m.2.tag = l.tag ∧ m.2.back = l.back) ∨ l.back = t.mem.bytes (l.tag * 256) 256) :
    s.bytesKept P u := by
  refine ⟨hm ▸ h.1, fun a ha => ⟨hm ▸ (h.2 a ha).1, fun x hx hd ht => ?_⟩⟩
  rw [hg] at hx
  rcases mem_set hx with rfl | hx
  · rcases hl hd with ⟨m, hmm, hd', ht', hb⟩ | hb
    · exact hb ▸ (h.2 a ha).2 m hmm hd' (ht'.trans ht)
    · dsimp only at ht ⊢
      rw [hb, bytes_getD _ _ _ _ (Nat.mod_lt _ (by decide)), ht, show a / 256 * 256 + a % 256 = a by omega]
      exact (h.2 a ha).1
  · exact (h.2 a ha).2 x hx hd ht

theorem locate_tag {g : Gallery} {a k : Nat} {l : Line} (h : g.locate a = some k) (hf : Tab.find g.lines k = some l) : l.tag = a / 256 := by
  unfold Gallery.locate at h
  have := List.find?_some h
  rw [hf] at this
  simpa using this

theorem bytesKept_galAccess {s t : State} {P : Nat → Prop} (h : s.bytesKept P t) (mask : Nat) (na w whole : Bool) (a : Nat) :
    s.bytesKept P (t.galAccess mask na w whole a) := by
  unfold State.galAccess
  dsimp only
  split
  · rename_i k hk
    split
    · rename_i l hf
      refine bytesKept_set h k _ _ rfl rfl fun hd => ?_
      have htag := locate_tag hk hf
      split
      · exact .inr (by rw [← htag])
      · rename_i hc
        rw [if_neg hc] at hd
        exact .inl ⟨(k, l), mem_tabFind hf, hd, rfl, rfl⟩
    · exact h
  · split
    · exact h
    · split
      · exact h
      · rename_i k v hv
        have h1 : s.bytesKept P v := bytesKept_of_lines h (victim_mem _ _ _ _ _ _ hv ▸ h.1) (by rw [victim_mem _ _ _ _ _ _ hv]) fun x hx hd => by
          obtain ⟨y, hy, e1, e2, e3⟩ := victim_lines _ _ _ _ _ _ hv x hx
          exact ⟨y, hy, e1.trans hd, e2, e3⟩
        have h2 := bytesKept_evict h1 k
        generalize v.evict k = e at h2 ⊢
        have h3 : s.bytesKept P (if (w && whole) = true then e else e.touch 0 0 (a / 256 * 256) 256) := by
          split
          exacts [h2, bytesKept_touch h2 ..]
        refine bytesKept_set h3 k _ _ rfl rfl fun hd => .inr ?_
        cases w
        · simp at hd
        · rfl

theorem bytesKept_readPiece {s t : State} {P : Nat → Prop} (h : s.bytesKept P t) (r : Req) (a n : Nat) : s.bytesKept P (t.readPiece r a n).2 := by
  unfold State.readPiece
  split
  · exact h
  · exact bytesKept_touch h ..
  · split
    · exact bytesKept_of_same h (by simpa using h.1) (by simp) (by simp)
    · exact bytesKept_of_same h (by simpa using h.1) (by simp) (by simp)
    · split
      · exact bytesKept_of_same h (by simpa using h.1) (by simp) (by simp)
      · exact bytesKept_touch (bytesKept_galAccess h ..) ..

/-- A read keeps every byte of memory. -/
theorem bytesKept_read {s t : State} {P : Nat → Prop} (h : s.bytesKept P t) (r : Req) (a n : Nat) : s.bytesKept P (t.read r a n).2 := by
  have key : ∀ (l : List (Nat × Nat)) (acc : List PByte × State), s.bytesKept P acc.2 →
      s.bytesKept P (l.foldl (fun (acc : List PByte × State) (p : Nat × Nat) =>
        let y := acc.2.place r p.1
        let (b, s') := (acc.2.chargeMem r y p.2 false).readPiece r y p.2
        (acc.1 ++ b, s')) acc).2 := by
    intro l
    induction l with
    | nil => exact fun acc h => h
    | cons p l ih => exact fun acc ha => ih _ (bytesKept_readPiece (bytesKept_of_same ha (by simpa using ha.1) (by simp) (by simp)) ..)
  exact key _ _ h

/-- Bytes put at an address keep every other byte. -/
theorem bytesKept_store {s t u : State} {P : Nat → Prop} (h : s.bytesKept P t) (a : Nat) (bs : List Byte) (hw : u.mem.wf = true)
    (hc : u.mem.cells = storeCells t.mem.cells a bs) (hl : u.gal.lines = t.gal.lines) (hp : ∀ x, P x → x < a ∨ a + bs.length ≤ x) :
    s.bytesKept P u :=
  ⟨hw, fun x hx => ⟨by rw [hc, getCell_store_out _ _ _ _ (hp x hx)]; exact (h.2 x hx).1, hl ▸ (h.2 x hx).2⟩⟩

theorem bytesKept_put {s t : State} {P : Nat → Prop} (h : s.bytesKept P t) (a : Nat) (bs : List PByte) (hp : ∀ x, P x → x < a ∨ a + bs.length ≤ x) :
    s.bytesKept P { t with mem := t.mem.write a bs } :=
  bytesKept_store h a (bs.map (·.1)) (wf_write _ _ _ h.1) rfl rfl (by simpa using hp)

/-- A write within one line keeps every byte but those that it writes. -/
theorem bytesKept_writePiece {s t : State} {P : Nat → Prop} (h : s.bytesKept P t) (r : Req) (a : Nat) (bs : List PByte)
    (hp : ∀ x, P x → x < a ∨ a + bs.length ≤ x) : s.bytesKept P (t.writePiece r a bs) := by
  unfold State.writePiece
  dsimp only
  split
  · exact h
  · exact bytesKept_put (bytesKept_mergeRead h ..) _ _ hp
  · split
    · exact bytesKept_of_same h (by simpa using h.1) (by simp) (by simp)
    · exact bytesKept_of_same h (by simpa using h.1) (by simp) (by simp)
    · split
      · refine bytesKept_store h a (bs.map (·.1)) (wf_write _ _ _ ?_) rfl (congrArg _ (forgetTimed_gal t a)) (by simpa using hp)
        have := h.1
        rw [wf_iff] at this ⊢
        exact ⟨this.1, wfErrs_foldl _ _ (fun _ _ he => wfErrs_set _ _ _ he) _ this.2⟩
      · exact bytesKept_put (bytesKept_mergeRead (bytesKept_galAccess h ..) ..) _ _ hp

/-- A read of memory leaves every byte as it was, or as it stood behind a dirty line whose write back is lost. -/
theorem read_byteKept (s : State) (r : Req) (a n x : Nat) (h : s.mem.wf = true) : s.byteKept (s.read r a n).2 x :=
  (bytesKept_read (P := fun _ => True) (bytesKept_refl s _ h) r a n).byteKept trivial

end Sys2Proof.Machine
end

