-- ==== Sys2Proof/Laws/Rows.lean ====
section
/-!
SUPPORT. What the shared shapes of rows can do, each said once: a mailbox entry taken, a function run, a frame served, a boundary carried out.
-/
namespace Sys2Proof.Machine

/-- A command row whose entry is taken runs the command’s own rules on the state past the head. -/
theorem mailRow_taken {s q : State} {fn : Fn} {clk : Clk} {k : CmdSpec} {c : Cmd} (h : s.taken fn clk k = some (q, c))
    (body : State → Cmd → State) : s.mailRow fn.val clk.val k body = body q c := by
  unfold State.taken at h
  unfold State.mailRow
  generalize State.takeRest 4096 (s.at_ clk.val) = s1 at h ⊢
  dsimp only at h ⊢
  split at h
  · cases h
  · rename_i e he
    split at h
    · rename_i hc
      cases h
      simp only [he, hc.1, ne_eq, not_true_eq_false, if_false, hc.2]
    · cases h

/-- The operands of a function are in: every LOAD block of buffer half 1 has retired (R156). -/
def Run.opsIn (r : Run) : Prop :=
  ∀ k ∈ upFrom 0 r.blks.length, blkDir (r.blks.getD k 0) = 0 → blkHalf (r.blks.getD k 0) = 1 → k ∈ r.retired

theorem ready_iff (r : Run) : ((upFrom 0 r.blks.length).all fun k =>
    !(blkDir (r.blks.getD k 0) = 0 && blkHalf (r.blks.getD k 0) = 1) || r.retired.contains k) = true ↔ r.opsIn := by
  simp only [List.all_eq_true, Run.opsIn]
  refine forall_congr' fun k => forall_congr' fun _ => ?_
  by_cases h1 : blkDir (r.blks.getD k 0) = 0 <;> by_cases h2 : blkHalf (r.blks.getD k 0) = 1 <;> simp_all

/-- A function row whose entry waits for it begins the entry, if it has not begun, and runs the function, which has then ended. -/
theorem fnRow_runs {s : State} {c : Nat} {g : Bool} {is : Nat → Bool} {r : Run} (h : s.runAt c g = some r) (hi : is r.cfg = true)
    (hd : r.fnDone = false) (hr : r.opsIn) (body : State → Run → State) :
    s.fnRow c g is body = match (s.beginRun c g).runAt c g with
      | none => s.beginRun c g
      | some r => if cwRagged r.cfg && cwFunc r.cfg ≠ 4 && r.rows = 0 then (s.beginRun c g).fnEnd c g else (body (s.beginRun c g) r).fnEnd c g := by
  have e := (ready_iff r).2 hr
  simp only [State.fnRow, h, hd, hi, e, Bool.not_true, Bool.or_self, Bool.false_eq_true, if_false]
  all_goals rfl

/-- A function row does nothing for an entry of another function, one whose function has ended, or one with an operand to come. -/
theorem fnRow_waits {s : State} {c : Nat} {g : Bool} {is : Nat → Bool} {r : Run} (h : s.runAt c g = some r)
    (hn : is r.cfg = false ∨ r.fnDone = true ∨ ¬r.opsIn) (body : State → Run → State) : s.fnRow c g is body = s := by
  simp only [State.fnRow, h]
  rcases hn with hn | hn | hn
  · simp [hn]
  · simp [hn]
  · have e := mt (ready_iff r).1 hn
    simp only [Bool.not_eq_true] at e
    simp only [e, Bool.not_false, Bool.or_true, Bool.true_or, if_true]

/-- The first issue of an entry that has begun changes nothing. -/
theorem beginRun_started {s : State} {c : Nat} {g : Bool} {r : Run} (h : s.runAt c g = some r) (hs : r.started = true) :
    s.beginRun c g = s := by
  simp [State.beginRun, h, hs]

/-- A row that sends records is the function row while the wing does not quiesce, and nothing else. -/
theorem sendRow_eq {s : State} {c : Nat} {g : Bool} {r : Run} (h : s.runAt c g = some r) (is : Nat → Bool) (body : State → Run → State) :
    s.sendRow c g is body = if (s.wing r.wing).quiet then s else s.fnRow c g is body := by
  simp only [State.sendRow, h]

/-- A frame for this module of the row’s type at an UP hall port is dropped as malformed or served. -/
theorem reqRow_eq {s : State} {p : Nat} {f : Frame} {typ : Nat} (clk : Nat) (hp : p ≠ 8) (hs : (s.port p).st = 2) (ht : f.typ = typ)
    (hd : f.dst = s.me) (serve : State → State) :
    s.reqRow p f clk typ serve = if ((s.takeFrame p f).at_ clk).malformed f then ((s.takeFrame p f).at_ clk).dropMalformed p f
      else serve (((s.takeFrame p f).at_ clk).delivered p f) := by
  simp [State.reqRow, hp, hs, ht, hd]

/-- T brings no request and no response. -/
theorem reqRow_twin (s : State) (f : Frame) (clk typ : Nat) (serve : State → State) : s.reqRow 8 f clk typ serve = s := by
  simp [State.reqRow]

/-- A row that stands for an action of the coming boundary carries it out when the action is due, and changes nothing when it is not. -/
theorem boundaryRow_due {s : State} (e : BoundaryEnv) (hc : s.time.crossed = false) (hs : s.boot.st ≠ 0) :
    s.boundaryRow e true = (s.cross e).withTime { (s.cross e).time with crossed := true } := by
  simp [State.boundaryRow, hc, hs]

theorem boundaryRow_no (s : State) (e : BoundaryEnv) {due : Bool} (h : due = false ∨ s.time.crossed = true) : s.boundaryRow e due = s := by
  rcases h with h | h <;> simp [State.boundaryRow, h]

end Sys2Proof.Machine
end

