-- ==== Sys2Proof/Laws/Time.lean ====
section
/-!
SUPPORT. What a tread boundary does to the hall-time unit, step by step (spec/02_time.md R35, R41, R42).
-/
namespace Sys2Proof.Machine

section
variable (t : TimeSt)

/-- Counting a tread leaves the tread number, the lock state, the parent and what the markers last said. -/
theorem countAll_keeps : t.countAll.tread = t.tread ∧ t.countAll.phase = t.phase ∧ t.countAll.lock = t.lock ∧ t.countAll.parent = t.parent
    ∧ t.countAll.hops = t.hops ∧ t.countAll.root = t.root ∧ t.countAll.inGap = t.inGap := by
  simp only [TimeSt.countAll]
  refine ⟨?_, ?_, ?_, ?_, ?_, ?_, ?_⟩ <;> (repeat' split) <;> rfl

@[simp] theorem moved_tread (num : Nat) (m : HtMove) : (t.moved num m).tread = t.tread := by cases m <;> rfl
@[simp] theorem moved_phase (num : Nat) (m : HtMove) : (t.moved num m).phase = t.phase := by cases m <;> rfl
@[simp] theorem moved_inGap (num : Nat) (m : HtMove) : (t.moved num m).inGap = t.inGap := by cases m <;> rfl
@[simp] theorem shown_tread (fv : Nat) : (t.shown fv).tread = t.tread := rfl
@[simp] theorem shown_phase (fv : Nat) : (t.shown fv).phase = t.phase := rfl
@[simp] theorem shown_lock (fv : Nat) : (t.shown fv).lock = t.lock := rfl
@[simp] theorem shown_parent (fv : Nat) : (t.shown fv).parent = t.parent := rfl
@[simp] theorem shown_stepMade (fv : Nat) : (t.shown fv).stepMade = t.stepMade := rfl
@[simp] theorem shown_inGap (fv : Nat) : (t.shown fv).inGap = t.inGap := rfl

end

/-- After the lock state of the boundary, the unit is the one that Table 2.4 leaves on the counted markers, as its registers show it, with the
markers that start now. -/
theorem htBoundary_time (s : State) : ∃ fv sent, s.htBoundary.time =
    { (s.time.countAll.moved (bits (s.pf Reg.halMe) 0 17) { s with time := s.time.countAll }.htEval).shown fv with sent := sent } :=
  ⟨_, _, rfl⟩

/-- Action 3 leaves the tread number and clk. -/
theorem resetAction_time (s : State) (pre : State → Nat → State) :
    (s.resetAction pre).time.tread = s.time.tread ∧ (s.resetAction pre).time.phase = s.time.phase := by
  simp only [State.resetAction, State.deviceReset]
  (repeat' split) <;> exact ⟨rfl, rfl⟩

/-- Unless action 3 is a device reset, it leaves the hall-time unit. -/
theorem resetAction_keeps (s : State) (pre : State → Nat → State) (h : (s.resetAction pre).boot.st = s.boot.st) :
    (s.resetAction pre).time = s.time := by
  simp only [State.resetAction] at h ⊢
  split
  · rfl
  · split
    · rename_i h1 h2
      exfalso
      rw [if_neg h1, if_pos h2] at h
      simp only [State.deviceReset] at h
      omega
    · rfl

section
variable (s r : State) (t : Nat) (e : BoundaryEnv) (x : TimeSt)

@[simp] theorem lead_time : (s.lead r).time = s.time := rfl
@[simp] theorem lead_boot : (s.lead r).boot = s.boot := rfl
@[simp] theorem lead_pfw : (s.lead r).pfw = s.pfw := rfl
@[simp] theorem lead_pfe : (s.lead r).pfe = s.pfe := rfl
@[simp] theorem withTime_time : (s.withTime x).time = x := rfl
@[simp] theorem withTime_boot : (s.withTime x).boot = s.boot := rfl
@[simp] theorem withTime_pfw : (s.withTime x).pfw = s.pfw := rfl
@[simp] theorem withTime_pfe : (s.withTime x).pfe = s.pfe := rfl
@[simp] theorem withPf_time : (s.withPf r).time = s.time := rfl
@[simp] theorem withPf_boot : (s.withPf r).boot = s.boot := rfl
@[simp] theorem withPf_pfw : (s.withPf r).pfw = r.pfw := rfl
@[simp] theorem withPf_pfe : (s.withPf r).pfe = r.pfe := rfl

theorem boundaryLast_time : (s.boundaryLast t e).time = s.time := by rw [State.boundaryLast, lead_time]
theorem boundaryLast_boot : (s.boundaryLast t e).boot = s.boot := by rw [State.boundaryLast, lead_boot]
theorem boundaryLast_pfw : (s.boundaryLast t e).pfw = s.pfw := by rw [State.boundaryLast, lead_pfw]
theorem boundaryLast_pfe : (s.boundaryLast t e).pfe = s.pfe := by rw [State.boundaryLast, lead_pfe]
theorem boundaryFirst_time : (s.boundaryFirst e).time = s.gapEnd.time := by rw [State.boundaryFirst, withTime_time]
theorem boundaryFirst_boot : (s.boundaryFirst e).boot = s.boot := by rw [State.boundaryFirst, withTime_boot, lead_boot]
theorem boundaryFirst_pfw : (s.boundaryFirst e).pfw = s.pfw := by rw [State.boundaryFirst, withTime_pfw, lead_pfw]
theorem boundaryFirst_pfe : (s.boundaryFirst e).pfe = s.pfe := by rw [State.boundaryFirst, withTime_pfe, lead_pfe]
theorem action2a_time : (s.action2a t).time = s.time := by rw [State.action2a, withPf_time, lead_time]
theorem action2a_boot : (s.action2a t).boot = s.boot := by rw [State.action2a, withPf_boot, lead_boot]
theorem action2_boot : (s.action2 t).boot = s.boot := by rw [State.action2, withTime_boot, lead_boot, action2a_boot]
theorem action2_time : (s.action2 t).time = (s.action2a t).htBoundary.time := by rw [State.action2, withTime_time]
theorem action2_pfw : (s.action2 t).pfw = (s.action2a t).pfw := by rw [State.action2, withTime_pfw, lead_pfw]
theorem action2_pfe : (s.action2 t).pfe = (s.action2a t).pfe := by rw [State.action2, withTime_pfe, lead_pfe]

end

/-- A boundary leaves the tread number and clk that its first part set. -/
theorem cross_time (s : State) (e : BoundaryEnv) (h : s.boot.st ≠ 0) :
    (s.cross e).time.tread = s.gapEnd.time.tread ∧ (s.cross e).time.phase = s.gapEnd.time.phase := by
  simp only [State.cross, if_neg h, boundaryLast_time, State.boundary3]
  have r := resetAction_time ((s.boundaryFirst e).action2 s.ending) State.resetPre
  obtain ⟨fv, sent, ht⟩ := htBoundary_time ((s.boundaryFirst e).action2a s.ending)
  have c := countAll_keeps s.gapEnd.time
  rw [r.1, r.2, action2_time, ht]
  simpa [action2a_time, boundaryFirst_time] using And.intro c.1 c.2.1

/-- Unless it is a device reset, a boundary leaves the unit that Table 2.4 makes of the state it judges. -/
theorem cross_moved (s : State) (e : BoundaryEnv) (h : s.boot.st ≠ 0) (hb : (s.cross e).boot.st = s.boot.st) :
    ∃ num fv sent, (s.cross e).time = { ((s.judged e).time.moved num (s.judged e).htEval).shown fv with sent := sent } := by
  simp only [State.cross, if_neg h, boundaryLast_time, boundaryLast_boot, State.boundary3] at hb ⊢
  have k := resetAction_keeps ((s.boundaryFirst e).action2 s.ending) State.resetPre hb
  obtain ⟨fv, sent, ht⟩ := htBoundary_time ((s.boundaryFirst e).action2a s.ending)
  rw [k, action2_time, ht]
  exact ⟨_, fv, sent, rfl⟩

end Sys2Proof.Machine
end

