-- ==== Sys2Proof/Tests/Slice0.lean ====
section
/-!
SUPPORT. The module's own tests: ill-formed commands that `Instr.wellFormed` refuses, and, for every statement of
Certificates/Slice0/Obligations.lean that has hypotheses, a state and operands that meet them, clause by clause.
-/
namespace Sys2Proof.Tests
open Sys2Proof Sys2Proof.Machine

set_option Elab.async false

/-! ## Ill-formed commands -/

/-- A write of one doubleword from module 5 to this module. -/
def someFrame : Frame :=
  { typ := 2, vc := 0, prio := 0, dst := 0, src := 5, dwing := 0, swing := 0, lenw := 1, pool := 0, tag := 0, status := 0, addr := 0, epoch := 0
    rlen := 0, first := true, last := true, pzn := false, rsv := false, payload := [1, 2, 3, 4, 5, 6, 7, 8] }

/-- A record of one block with no bytes, from module 5 on port 1. -/
def someRec : RecIn := { port := 1, src := 5, swing := 0, dwing := 0, pzn := false, addr := 0, nblk := 1, bytes := [], vc := 0, pool := 0, lens := [] }

/-- A LOCKED marker of root 3 with no echo. -/
def someMarker : MarkerMsg := ⟨0, 0, 0, 0x7FFFF, 3, 0, 2⟩

/-- What a boundary samples on an idle module. -/
def someEnv : BoundaryEnv := ⟨300000000, 320, false, false, false⟩

theorem wf_boundary : Instr.wellFormed (.treadBoundary someEnv) = true ∧ Instr.wellFormed (.treadBoundary { someEnv with temp8 := 32768 }) = false
    ∧ Instr.wellFormed (.thermalTrip (-32769) false) = false ∧ Instr.wellFormed (.vfEnableChange 65536 true 0) = false := by decide +kernel

theorem wf_marker : someMarker.wellFormed = true ∧ ∀ m ∈ [{ someMarker with tread := 2 ^ 48 }, { someMarker with txPhase := 2 ^ 16 },
    { someMarker with echoTread := 256 }, { someMarker with echoPhase := 2 ^ 19 }, { someMarker with root := 2 ^ 17 }, { someMarker with hops := 64 },
    { someMarker with state := 4 }], Instr.wellFormed (.marker 0 m 0 0) = false := by decide +kernel

theorem wf_frame : someFrame.wellFormed = true ∧ ∀ f ∈ [{ someFrame with typ := 16 }, { someFrame with vc := 2 }, { someFrame with prio := 8 },
    { someFrame with dst := 2 ^ 17 }, { someFrame with src := 2 ^ 17 }, { someFrame with dwing := 32 }, { someFrame with swing := 32 },
    { someFrame with lenw := 2 }, { someFrame with pool := 64 }, { someFrame with tag := 2 ^ 16 }, { someFrame with status := 16 },
    { someFrame with addr := 2 ^ 47 }, { someFrame with epoch := 2 ^ 32 }, { someFrame with rlen := 2 ^ 13 }],
    Instr.wellFormed (.wrreq 0 f 0) = false ∧ Instr.wellFormed (.frameForward 0 f false false) = false := by decide +kernel

theorem wf_record : someRec.wellFormed = true ∧ ∀ r ∈ [{ someRec with port := 10 }, { someRec with src := 2 ^ 17 }, { someRec with swing := 32 },
    { someRec with dwing := 32 }, { someRec with addr := 2 ^ 47 }, { someRec with nblk := 2 ^ 32 }, { someRec with bytes := [1] },
    { someRec with vc := 2 }, { someRec with pool := 64 }, { someRec with lens := [4097] }],
    Instr.wellFormed (.tokenRecord r 0) = false ∧ Instr.wellFormed (.mirrorFailureReply r) = false := by decide +kernel

theorem wf_units : Instr.wellFormed (.unitDiverge 0 831 someEnv) = true ∧ Instr.wellFormed (.unitDiverge 1 32 someEnv) = false
    ∧ Instr.wellFormed (.unitDiverge 2 128 someEnv) = false ∧ Instr.wellFormed (.unitDiverge 3 9 someEnv) = false ∧ Instr.wellFormed (.unitDiverge 4 2 someEnv) = false := by
  decide +kernel

theorem wf_access : Instr.wellFormed (.registerWrite 0 0x2000000 true 0) = false ∧ Instr.wellFormed (.registerWrite 1 0x20000 true 0) = false
    ∧ Instr.wellFormed (.registerWrite 0 0 false (BitVec.ofNat 64 (2 ^ 32))) = false ∧ Instr.wellFormed (.badSizeAccess 0 0 4 true) = false
    ∧ Instr.wellFormed (.badSizeAccess 0 8 8 true) = false ∧ Instr.wellFormed (.badSizeAccess 0 4 8 true) = true
    ∧ Instr.wellFormed (.badSizeAccess 0 4 0 true) = false ∧ Instr.wellFormed (.badSizeAccess 1 0x20000 3 true) = false := by decide +kernel

theorem wf_blocks : Instr.wellFormed (.streamBlockIssue 0 .home 65536 0) = false ∧ Instr.wellFormed (.blockRetire 0 .home 65536 0) = false
    ∧ Instr.wellFormed (.migrate 0 0) = false ∧ Instr.wellFormed (.migrate 0 12582913) = false ∧ Instr.wellFormed (.rowfix 0 0 196608) = false
    ∧ Instr.wellFormed (.scrubHbm (384 * 2 ^ 22)) = false ∧ Instr.wellFormed (.scrubSram 0 (2 ^ 19)) = false := by decide +kernel

theorem wf_flash : Instr.wellFormed (.flash (.rewrite 262144)) = false ∧ Instr.wellFormed (.flash (.retire 262144 none)) = false
    ∧ Instr.wellFormed (.flash (.retire 0 (some (0, 0, 2)))) = false ∧ Instr.wellFormed (.flash (.eraseDone 262144)) = false
    ∧ Instr.wellFormed (.flash (.fwCopy 2 0)) = false ∧ Instr.wellFormed (.flash (.fwCopy 0 2)) = false
    ∧ Instr.wellFormed (.flash (.level 8)) = false ∧ Instr.wellFormed (.flash (.level 7)) = true := by decide +kernel

theorem wf_links : Instr.wellFormed (.cxlLinkUp 0 ⟨true, 0, 5, 8⟩) = false ∧ Instr.wellFormed (.cxlLinkUp 0 ⟨true, 0, 4, 17⟩) = false
    ∧ Instr.wellFormed (.cxlCompletionTimeout 0 (2 ^ 47) 0) = false ∧ Instr.wellFormed (.cxlReadCompletion 0 (2 ^ 47) true) = false
    ∧ Instr.wellFormed (.power 655360 0) = false ∧ Instr.wellFormed (.power 0 655360) = false
    ∧ Instr.wellFormed (.gallerySliceFault 0 [2 ^ 45]) = false ∧ Instr.wellFormed (.shardReadDone 0 65536 .asStored) = false
    ∧ Instr.wellFormed (.flashCopyTimeout 0 65536 []) = false ∧ Instr.wellFormed (.requestTimeout 65536 0) = false
    ∧ Instr.wellFormed (.itemEnds 0 0 (2 ^ 64) 0 true false) = false ∧ Instr.wellFormed (.itemEnds 0 0 0 (2 ^ 64) true false) = false
    ∧ Instr.wellFormed (.fusingEnds [16384]) = false ∧ Instr.wellFormed (.serdesCal 0 [2] false false) = false
    ∧ Instr.wellFormed (.ident (some 8)) = false ∧ Instr.wellFormed (.ident (some 9)) = true ∧ Instr.wellFormed (.bypass 0x20) = false
    ∧ Instr.wellFormed (.bypass 0xFF) = true := by decide +kernel

/-! ## States for the witnesses -/

/-- The module in READY, with the newel running. -/
def ready : State := { State.reset with boot := { State.reset.boot with st := 5, rails := true, perst := false, modRst := false }
                                        newel := { State.reset.newel with running := true } }

/-- READY in tread 1000, with `f` done to the hall-time unit. -/
def timed (f : TimeSt → TimeSt) : State := { ready with time := f { ready.time with tread := 1000 } }

/-- HT_EN of TRD_CTRL is in effect. -/
def htOn (s : State) : State := { s with pfe := [(Reg.trdCtrl, 1)], pfw := [(Reg.trdCtrl, 1)] }

/-- Put bytes into a store. -/
def putBytes (m : Mem) (a : Nat) (bs : List Byte) : Mem := { m with cells := storeCells m.cells a bs }

/-- A mark of a port from which a LOCKED marker with `root` came in this tread and the 15 before, at an offset of 0. -/
def goodMark (root : Nat) : PortMark := { good := 15, got := true, msg := some { someMarker with root := root }, theta2 := some 0 }

/-! ## Whole-machine statements -/

theorem meets_StepRunsFront : ({ ready with pending := [.ident none, .alerts] } : State).pending = .ident none :: [.alerts] := rfl

theorem meets_EmptyQueueIdles : ready.pending = [] := rfl

theorem legal_ready (t : TimeSt) (h : t.tread < treadMod ∧ t.phase < treadClk ∧ t.lock ≤ 3 ∧ (t.parent < 8 ∨ t.parent = 15) ∧ t.hops ≤ 63)
    (q : List Instr) : State.Legal { ready with time := t, pending := q } where
  tread := h.1
  clk := h.2.1
  lock := h.2.2.1
  parent := h.2.2.2.1
  hops := h.2.2.2.2
  start := by simp [ready]
  cause := by simp [ready, State.reset]
  image := by simp [ready, State.reset]
  written := by simp [ready, State.reset]
  effect := by simp [ready, State.reset]

/-- A legal state with a command waiting, from which a step answers a next state. -/
theorem meets_LegalKept : ∃ s t : State, s.Legal ∧ s.pending = [.treadBoundary someEnv] ∧ step s = .next t :=
  ⟨{ ready with time := { tread := 2 ^ 48 - 1, phase := 37599 }, pending := [.treadBoundary someEnv] }, _, legal_ready _ (by decide) _, rfl, rfl⟩

/-! ## Start-up, resets, configuration space -/

theorem meets_ColdResets : State.reset.boot.tripped = false ∧ ({ ready with boot := { ready.boot with tripped := true } } : State).boot.tripped = true
    ∧ 39999 < 40000 ∧ (40000 ≤ 40000 ∧ 45999 < 46000 ∧ 100 < 101) ∧ (46000 ≤ 46000 ∨ (40000 ≤ 40000 ∧ 100 ≤ 100)) ∧ (60000 < 60001 ∧ 100 < 101)
    ∧ (60000 ≤ 60000 ∨ 100 ≤ 100) ∧ (ready.boot.rails = true ∧ (920 : Int) ≤ 920) ∧ (State.reset.boot.rails = false ∨ (919 : Int) < 920) := by decide

theorem meets_WarmReset : ready.boot.st ≠ 0 ∧ State.reset.boot.st = 0 := by decide

theorem meets_StartUp : (State.reset.boot.st = 0 ∧ State.reset.boot.tripped = false ∧ State.reset.boot.switchOpen = false)
    ∧ (∃ s : State, s.boot.st = 1 ∧ s.boot.romKeyOk = true) ∧ (∃ s : State, s.boot.st = 1 ∧ s.boot.romKeyOk = false)
    ∧ (∃ s : State, s.boot.st = 3) ∧ ∃ s : State, s.boot.st = 4 :=
  ⟨by decide, ⟨{ ready with boot := { ready.boot with st := 1 } }, by decide⟩,
    ⟨{ ready with boot := { ready.boot with st := 1, romKeyOk := false } }, by decide⟩, ⟨{ ready with boot := { ready.boot with st := 3 } }, by decide⟩,
    ⟨{ ready with boot := { ready.boot with st := 4 } }, by decide⟩⟩

theorem meets_MemoryInitZeroes : (∃ s : State, s.boot.st = 3 ∧ s.boot.cause = 0) ∧ (∃ s : State, s.boot.st = 3 ∧ s.boot.hbmInit = false)
    ∧ ∃ s : State, s.boot.st = 3 ∧ s.boot.cause ≠ 0 ∧ s.boot.hbmInit = true :=
  ⟨⟨{ ready with boot := { ready.boot with st := 3 } }, by decide⟩, ⟨{ ready with boot := { ready.boot with st := 3, cause := 1, hbmInit := false } }, by decide⟩,
    ⟨{ ready with boot := { ready.boot with st := 3, cause := 1, hbmInit := true } }, by decide⟩⟩

theorem meets_ConfigurationSpace : (State.reset.boot.st < 3 ∧ State.reset.time.phase < treadClk) ∧ (3 ≤ ready.boot.st ∧ ready.time.phase < treadClk ∧ ready.board.pinsTaken = false)
    ∧ (∃ s : State, 3 ≤ s.boot.st ∧ s.board.pinsTaken = false ∧ s.fnExists (31 + 1) = true)
    ∧ ∃ s t : State, 3 ≤ s.boot.st ∧ s.board.pinsTaken = false ∧ exec (.vfEnableChange 32 false 0) s = .next t ∧ s.fnExists (31 + 1) = true ∧ t.fnExists (31 + 1) = false :=
  ⟨by decide, by decide, ⟨{ ready with pci := { numVFs := 32, vfEnable := true } }, by decide⟩,
    ⟨{ ready with pci := { numVFs := 32, vfEnable := true } }, _, by decide, rfl, rfl, by decide, by decide +kernel⟩⟩

/-! ## Time -/

/-- READY in ACQUIRE at an offset from the chosen parent, the first step not yet made. -/
def stepping (theta : Int) : State := timed fun t => { t with lock := 1, parent := 2, marks := [(2, { goodMark 3 with theta2 := some theta })] }

theorem meets_TreadAdvances : (ready.time.crossed = false ∧ ready.boot.st ≠ 0 ∧ ready.gapHere someEnv = false ∧ ready.time.inGap = none
    ∧ ready.stepTarget = none) ∧ (State.reset.time.crossed = false ∧ State.reset.boot.st = 0)
    ∧ (timed fun t => { t with crossed := true }).time.crossed = true
    ∧ (∀ th ∈ [1602, -1602], let s := stepping th;
      s.time.crossed = false ∧ s.boot.st ≠ 0 ∧ s.gapHere { someEnv with gap := true } = true ∧ s.gapHere someEnv = false ∧ s.time.inGap = none
        ∧ s.stepTarget.isSome = true)
    ∧ (let s := timed fun t => { t with inGap := some 999 }; s.time.crossed = false ∧ s.gapHere { someEnv with gap := true } = false
      ∧ s.time.inGap = some 999) := by decide +kernel

theorem meets_HeldWritesLand : ∃ t, exec (.treadBoundary someEnv) (htOn ready) = .next t ∧ t.boot.st ≠ 6 := ⟨_, rfl, by decide +kernel⟩

theorem meets_HeldWritesLand_ports : (∀ p < 8, (ready.port p).st = 0) ∧ ∃ p, p < 8 ∧ (State.port { ready with ports := [(7, { st := 1 })] } p).st ≠ 0 :=
  ⟨by decide +kernel, 7, by decide, by decide +kernel⟩

theorem meets_HallTimeMoves :
    (let s := htOn (timed fun t => { t with lock := 1, parent := 2, stepMade := true, run20 := 255, marks := [(2, goodMark 3)] })
     s.time.crossed = false ∧ s.boot.st ≠ 0 ∧ (s.judged someEnv).time.lock = 1 ∧ (s.judged someEnv).htEval = .lock 2
       ∧ s.resetDue someEnv = false) ∧
    (let s := htOn (timed fun t => { t with
       lock := 2, parent := 2, run40 := 3, marks := [(2, { goodMark 3 with theta2 := some 602 }), (4, goodMark 2)] })
     s.time.crossed = false ∧ (s.judged someEnv).time.lock = 2 ∧ (s.judged someEnv).time.parent ≠ 15
       ∧ (s.judged someEnv).htEval = .acquire 4 true false ∧ s.resetDue someEnv = false) ∧
    (let s := htOn (timed fun t => { t with lock := 2, parent := 2, marks := [(2, { goodMark 3 with got := false, missed := 3 }), (4, goodMark 3)] })
     s.time.crossed = false ∧ (s.judged someEnv).time.lock = 2 ∧ (s.judged someEnv).htEval = .lock 4 ∧ s.resetDue someEnv = false) ∧
    (let s := htOn (timed fun t => { t with lock := 2, parent := 2, marks := [(2, { goodMark 3 with got := false, missed := 3 })] })
     s.time.crossed = false ∧ (s.judged someEnv).time.lock = 2 ∧ (s.judged someEnv).htEval = .toHoldover
       ∧ s.resetDue someEnv = false) ∧
    (let s := htOn (timed fun t => { t with lock := 3, hold := 499 })
     s.time.crossed = false ∧ (s.judged someEnv).time.lock = 3 ∧ 500 ≤ (s.judged someEnv).time.hold ∧ (s.judged someEnv).htEval = .toFree true
       ∧ s.resetDue someEnv = false) ∧
    (let s := htOn (timed fun t => { t with lock := 1, parent := 2, noSrc := 15 })
     s.time.crossed = false ∧ (s.judged someEnv).time.lock = 1 ∧ 16 ≤ (s.judged someEnv).time.noSrc ∧ (s.judged someEnv).htEval = .toFree false
       ∧ s.resetDue someEnv = false) ∧
    (ready.time.crossed = false ∧ ready.boot.st ≠ 0 ∧ (ready.judged someEnv).htEval = .stay) := by
  decide +kernel

/-- READY with one hall port as given. -/
def withPort (p : Nat) (x : PortSt) : State := { ready with ports := [(p, x)] }

theorem meets_MarkerIsKept : ((withPort 3 { st := 2 }).marksOn 3 = true ∧ (withPort 3 { st := 2 }).board.pinsTaken = false) ∧ (ready.marksOn 3 = false ∧ ready.time.phase < treadClk) := by decide +kernel

/-! ## Mailbox commands -/

/-- The first byte of the test wings' memory. -/
def bot : Nat := 0x8000000000

/-- The protection set-up of wing 0 of the test module. -/
def prot0 : Tab Nat := [(Reg.wngProt, 0x8000), (Reg.wngWin, 2 ^ 62 + 0x80000 * 2 ^ 32 + 64)]

/-- Wing 1 lends its guest quarters to wing 0. -/
def prot1 : Tab Nat := [(Reg.wngProt, 2 ^ 32 + 0x8000), (Reg.wngWin, 2 ^ 62 + 0x80040 * 2 ^ 32 + 1)]

/-- READY with wings 0 and 1 enabled: 64 MiB of HBM for wing 0 and one more for wing 1, which lends to wing 0; wing 0’s tables at fixed places
in its window, with four sequence slots, eight pages, two adapters, two prefixes, two exchanges and weight banks of 1 MiB. -/
def site : State := { ready with wings :=
  [(0, { pwr := prot0, pwe := prot0, job := { wr :=
      [(Reg.wngCrecBase, bot + 0x100000), (Reg.wngGrecBase, bot + 0x400000), (Reg.wngGenSeq, 4 * 2 ^ 49 + bot + 0x10000),
       (Reg.wngKvPool, bot + 0x1000000), (Reg.wngKvGeom, 8 * 2 ^ 39 + 4 * 2 ^ 26), (Reg.wngKvPt, bot + 0x200000), (Reg.wngKvPst, bot + 0x20000),
       (Reg.wngMdl, 16), (Reg.wngAdp, 2 * 2 ^ 51 + bot + 0x30000), (Reg.wngPfx, 2 * 2 ^ 47 + bot + 0x40000),
       (Reg.wngWbank, 0x80020 * 2 ^ 32 + 1), (Reg.wngWbank + 8, 0x80021 * 2 ^ 32), (Reg.wngXch, 2 * 2 ^ 51 + bot + 0x70000),
       (Reg.wngTurnMap, bot + 0x50000), (Reg.wngTurnSnap, bot + 0x60000)] } }),
   (1, { pwr := prot1, pwe := prot1 })] }

/-- Bytes in the memory of `site` and the like. -/
def poke (s : State) (a : Nat) (bs : List Byte) : State := { s with mem := putBytes s.mem a bs }

/-- The PF’s mailbox with one entry of an opcode and its arguments waiting, its command ring at 0 and its completion ring at 0x10000. -/
def said (s : State) (op : Nat) (args : List Nat) : State :=
  { s with fns := [(0, { ctrl := 1, cmd := 0, tail := 1, cpl := 0x10000 })]
           host := putBytes s.host 0 (leBytes 4 (op * 65536) ++ leBytes 4 0 ++ args.flatMap (leBytes 8)) }

/-- A command row whose entry is taken, with a property of the state before it, the state behind it and the command. -/
theorem met {s : State} {fn : Fn} {clk : Clk} {k : CmdSpec} {P : State → State → Cmd → Prop} [∀ q c, Decidable (P s q c)]
    (h : (match s.taken fn clk k with | some x => decide (P s x.1 x.2) | none => false) = true) :
    ∃ (s q : State) (c : Cmd), s.taken fn clk k = some (q, c) ∧ P s q c := by
  revert h
  cases e : s.taken fn clk k with
  | none => simp
  | some x => intro h; exact ⟨s, x.1, x.2, e, of_decide_eq_true h⟩

/-- A flight’s header: one tread, and no core. -/
def plainHeader : List Byte := leBytes 4 (1 * 65536) ++ leBytes 4 0 ++ leBytes 8 (bot + 0x80000) ++ leBytes 4 0

/-- A loaded flight of one tread. -/
def aFlight : Flight := { hdr := bot, id := 0, len := 1, rep := 0, hall := false, base := bot, n := 0, ro := [], bubbles := [] }

theorem meets_CommandsBecomeOutstanding_flights :
    (∃ (s q : State) (c : Cmd), s.taken 0 0 spcFlightSwitch = some (q, c) ∧ ((q.job c.wing).fl.pend.isSome = true ∧ q.flightCmd c.wing = none
        ∧ (c.arg 0 = 0 → treadReached (treadAdd c.at_ 2) (c.arg 1) = true))) ∧
    (∃ (s q : State) (c : Cmd), s.taken 0 0 spcFlightStop = some (q, c) ∧ ((q.job c.wing).fl.active.isSome = true ∧ q.flightCmd c.wing = none)) ∧
    (∃ (s q : State) (c : Cmd), s.taken 0 0 spcFlightUnload = some (q, c) ∧ q.flightCmd c.wing = none) :=
  ⟨met (s := said (site.setFl 0 { pend := some aFlight }) 0x102 [0, 2]) (by decide +kernel),
   met (s := said (site.setFl 0 { active := some aFlight }) 0x103 [0]) (by decide +kernel),
   met (s := said site 0x104 [0]) (by decide +kernel)⟩

theorem meets_CommandsBecomeOutstanding_rows :
    (∃ (s q : State) (c : Cmd), s.taken 0 0 spcSeqCancel = some (q, c) ∧ bits (c.arg 0) 0 14 < q.seqCount c.wing) ∧
    (∃ (s q : State) (c : Cmd), s.taken 0 0 spcSeqPark = some (q, c) ∧ (let q := q.seqFetch c.wing (bits (c.arg 0) 0 14)
      bits (c.arg 0) 0 14 < q.seqCount c.wing ∧ rwState (q.rowBytes c.wing (bits (c.arg 0) 0 14)) = 1)) ∧
    (∃ (s q : State) (c : Cmd), s.taken 0 0 spcSeqResume = some (q, c) ∧ (let q := q.seqFetch c.wing (bits (c.arg 0) 0 14)
      bits (c.arg 0) 0 14 < q.seqCount c.wing ∧ rwState (q.rowBytes c.wing (bits (c.arg 0) 0 14)) = 2)) ∧
    (∃ (s q : State) (c : Cmd), s.taken 0 0 spcAdapterDrop = some (q, c) ∧ (let q := q.adpFetch c.wing (c.arg 0)
        c.arg 0 < q.adpCount c.wing ∧ adpState (q.adpEnt c.wing (c.arg 0)) = 1
        ∧ adpPins (q.adpEnt c.wing (c.arg 0)) = 0 ∧ adpOldPins (q.adpEnt c.wing (c.arg 0)) = 0)) ∧
    (∃ (s q : State) (c : Cmd), s.taken 0 0 spcPrefixDrop = some (q, c) ∧ (let q := q.pfxFetch c.wing (c.arg 0)
      c.arg 0 < q.pfxCount c.wing ∧ q.pfxState c.wing (c.arg 0) ≠ 0
      ∧ q.pfxState c.wing (c.arg 0) ≠ 1)) :=
  ⟨met (s := said site 0x202 [3]) (by decide +kernel),
   met (s := said (poke site (bot + 0x10003) [0x10]) 0x203 [0]) (by decide +kernel),
   met (s := said (poke site (bot + 0x10303) [0x20]) 0x204 [3]) (by decide +kernel),
   met (s := said (poke site (bot + 0x30043) [0x40]) 0x302 [1]) (by decide +kernel),
   met (s := said (poke site (bot + 0x40003) [0x80]) 0x304 [0]) (by decide +kernel)⟩

theorem meets_CommandsBecomeOutstanding_wing :
    (∃ (s q : State) (c : Cmd), s.taken 0 0 spcTurnAbort = some (q, c) ∧ (q.job c.wing).turn.pend.isSome = true) ∧
    (∃ (s q : State) (c : Cmd), s.taken 0 0 spcCtxSwitch = some (q, c) ∧ c.arg 1 ≠ 0) ∧
    (∃ (s q : State) (c : Cmd), s.taken 0 0 spcCtxSet = some (q, c) ∧ q.ctxAllows c.wing (bits (c.arg 0) 0 3) (bits (c.arg 0) 8 3) = true) ∧
    (∃ (s q : State) (c : Cmd), s.taken 0 0 spcSemAcquire = some (q, c)
      ∧ Tab.find (q.wing c.wing).sems (bits (c.arg 0) 8 5) ≠ some (bits (c.arg 0) 0 3)) ∧
    (∃ (s q : State) (c : Cmd), s.taken 0 0 spcSemRelease = some (q, c)
      ∧ Tab.find (q.wing c.wing).sems (bits (c.arg 0) 8 5) = some (bits (c.arg 0) 0 3)) ∧
    (∃ (s q : State) (c : Cmd), s.taken 0 0 spcWingQuiesce = some (q, c) ∧ c.arg 0 ≠ 0) ∧
    (∃ (s q : State) (c : Cmd), s.taken 0 0 spcWingReset = some (q, c) ∧ c.wing = 0) ∧
    (∃ (s q : State) (c : Cmd), s.taken 0 0 spcDeviceReset = some (q, c) ∧ c.fn = 0) :=
  ⟨met (s := said (site.modTurn 0 fun t => { t with pend := some (bot, 1) }) 0x402 []) (by decide +kernel),
   met (s := said site 0x500 [1, 1]) (by decide +kernel),
   met (s := said (site.modWing 0 fun w => { w with ctxs := [(1, { st := 4 })] }) 0x501 [5 * 256 + 1]) (by decide +kernel),
   met (s := said site 0x502 [1]) (by decide +kernel),
   met (s := said (site.modWing 0 fun w => { w with sems := [(31, 1)] }) 0x503 [31 * 256 + 1]) (by decide +kernel),
   met (s := said site 0x600 [1]) (by decide +kernel),
   met (s := said site 0x601 []) (by decide +kernel),
   met (s := said site 0x602 []) (by decide +kernel)⟩

theorem meets_ServiceCommandsBecomeOutstanding :
    (∃ (s q : State) (c : Cmd), s.taken 0 0 spcHbmRetire = some (q, c) ∧ q.retireCheck c = none) ∧
    (∃ (s q : State) (c : Cmd), s.taken 0 0 spcRepairFuse = some (q, c) ∧ bits (c.arg 0) 0 16 = 0xFFFF) ∧
    (∃ (s q : State) (c : Cmd), s.taken 0 0 spcAccSnapshot = some (q, c) ∧ (c.arg 0 % 64 = 0 ∧ 256 ≤ c.arg 1)) ∧
    (∃ (s q : State) (c : Cmd), s.taken 0 0 spcFwStage = some (q, c) ∧ (c.arg 1 ≠ 0 ∧ c.arg 1 ≤ 16777216)) ∧
    (∃ (s q : State) (c : Cmd), s.taken 0 0 spcAttest = some (q, c) ∧ (c.fn = 0 ∧ c.arg 4 % 64 = 0
      ∧ 50368 + (if bit (c.arg 6) 2 = true then 29920 else 0) ≤ c.arg 5)) :=
  ⟨met (s := said site 0x702 [127]) (by decide +kernel),
   met (s := said site 0x704 [0xFFFF]) (by decide +kernel),
   met (s := said site 0xA00 [0x4000, 256]) (by decide +kernel),
   met (s := said site 0x900 [0x100000, 16777216]) (by decide +kernel),
   met (s := said site 0x804 [0, 0, 0, 0, 0x100000, 80288, 4]) (by decide +kernel)⟩

/-- A fused repair of a core is a repair that REPAIR_FUSE takes by its index. -/
theorem meets_ServiceCommandsBecomeOutstanding_fuse :
    ∃ (s q : State) (c : Cmd), s.taken 0 0 spcRepairFuse = some (q, c) ∧ (q.svc.repairs[bits (c.arg 0) 0 16]?).any (fun r => r.kind ≠ 3) = true :=
  met (s := { said site 0x704 [0] with svc := { repairs := [⟨2, false, 0, 0, 0⟩] } }) (by decide +kernel)

/-- A unit of each item, at the end of its range where it has one. -/
theorem meets_ServiceCommandsBecomeOutstanding_items : ∀ x ∈ [(0, 0), (1, 15), (2, 63), (3, 8), (4, 8), (5, 8), (6, 1), (7, 831)],
    ∃ (s q : State) (c : Cmd), s.taken 0 0 spcSelfTest = some (q, c) ∧ (bits (c.arg 0) 0 4 = x.1 ∧ c.arg 1 ≠ 0 ∧ c.arg 1 ≤ 10000
      ∧ q.itemUnitOk x.1 (bits (c.arg 0) 4 10) = true
      ∧ ∀ d ∈ q.outOp 0x706, itemClass (bits (d.arg 0) 0 4) = itemClass x.1 → bits (d.arg 0) 4 10 ≠ bits (c.arg 0) 4 10) := by
  intro x hx
  simp only [List.mem_cons, List.not_mem_nil, or_false] at hx
  rcases hx with rfl | rfl | rfl | rfl | rfl | rfl | rfl | rfl
  · exact met (s := said site 0x706 [0, 10000]) (by decide +kernel)
  · exact met (s := said site 0x706 [15 * 16 + 1, 10000]) (by decide +kernel)
  · exact met (s := said site 0x706 [63 * 16 + 2, 10000]) (by decide +kernel)
  · exact met (s := said site 0x706 [8 * 16 + 3, 1]) (by decide +kernel)
  · exact met (s := said site 0x706 [8 * 16 + 4, 1]) (by decide +kernel)
  · exact met (s := said site 0x706 [8 * 16 + 5, 1]) (by decide +kernel)
  · exact met (s := said site 0x706 [1 * 16 + 6, 1]) (by decide +kernel)
  · exact met (s := said site 0x706 [831 * 16 + 7, 1]) (by decide +kernel)

/-- The row of a sequence that uses no adapter: MAXLEN 64, a prompt and an output area in wing 0’s window; words 2 to 11 of SEQ_ADMIT. -/
def rowWords : List Nat := [0x10000, 0, 64, 0, bot + 0x900000, 0, 0, 0, bot + 0x800000, 0]

/-- `site` with sequence 0 LIVE at POS 20 and with no adapter. -/
def siteRow : State := poke (poke site (bot + 0x10002) [1, 0x10]) (bot + 0x1000C) [20]

theorem meets_SeqAdmit : ∀ named ∈ [false, true], ∃ (s q : State) (c : Cmd), s.taken 0 0 spcSeqAdmit = some (q, c) ∧
    (bit (c.arg 0) 48 = named ∧
      let r0 := q.seqFetch c.wing (bits (c.arg 0) 0 14)
      let r1 := if bit (c.arg 0) 48 then r0.pfxFetch c.wing (bits (c.arg 0) 32 16) else r0
      let q := if rwNoadapt c.rowArg then r1 else r1.adpFetch c.wing (rwAdapter c.rowArg)
      let slot := bits (c.arg 0) 0 14
      let h := bits (c.arg 0) 32 16
      let pfx := if named && h < q.pfxCount c.wing && q.pfxState c.wing h = 2 then q.pfxLen c.wing h else 0
      let row := q.newRow c.wing c.rowArg (pfx + bits (c.arg 1) 0 21) pfx pfx (if named then some h else none)
      (named = true → h < q.pfxCount c.wing ∧ q.pfxState c.wing h = 2 ∧ q.pfxEpoch c.wing h = (q.job c.wing).vr.wep) ∧
      q.rowRefusal c.wing slot c.rowArg (pfx + bits (c.arg 1) 0 21) (bits (c.arg 1) 0 21) = none ∧
      let share := (upFrom 0 (pfx / 16)).map (q.pfxPage c.wing h)
      let f := share.foldl (fun s i => s.pgFetch c.wing i) q
      (∀ i ∈ share, f.pgRefs c.wing i < 65535) ∧ f.canStage c.wing slot = true ∧
      f.kvReserve c.wing + (backing row - pfx / 16) ≤ (f.freePages c.wing).length) := by
  intro named hn
  simp only [List.mem_cons, List.not_mem_nil, or_false] at hn
  rcases hn with rfl | rfl
  · exact met (s := said site 0x200 ([3, 4] ++ rowWords)) (by decide +kernel)
  · exact met (s := said (poke site (bot + 0x40800) [20, 0, 0, 0x80]) 0x200 ([3 + 2 ^ 32 + 2 ^ 48, 4] ++ rowWords)) (by decide +kernel)

theorem meets_SeqFork : ∃ (s q : State) (c : Cmd), s.taken 0 0 spcSeqFork = some (q, c) ∧
      (let r0 := (q.seqFetch c.wing (bits (c.arg 0) 0 14)).seqFetch c.wing (bits (c.arg 0) 16 14)
      let q := if rwNoadapt c.rowArg then r0 else r0.adpFetch c.wing (rwAdapter c.rowArg)
      let src := bits (c.arg 0) 0 14
      let flen := bits (c.arg 0) 32 21
      let from_ := q.rowBytes c.wing src
      let p := q.ptRow c.wing src
      let row := q.newRow c.wing c.rowArg flen (flen - 1) (rwPfx from_) (if p.pfxv then some p.pfxh else none)
      src < q.seqCount c.wing ∧ (rwState from_ = 1 ∨ rwState from_ = 2 ∧ p.place = 0) ∧
      0 < flen ∧ rwPfx from_ ≤ flen - 1 ∧ flen - 1 ≤ rwPos from_ ∧
      q.rowRefusal c.wing (bits (c.arg 0) 16 14) c.rowArg flen (flen - rwPfx from_) = none ∧
      let share := (upFrom 0 ((flen - 1) / 16)).map fun x => (q.entOf c.wing src p.sel x).2
      let f := share.foldl (fun s i => s.pgFetch c.wing i)
        (q.fetchIn c.wing (q.ptEnt c.wing src p.sel 0) (4 * (share.length + b2n (decide ((flen - 1) % 16 ≠ 0)))))
      (∀ i ∈ share, f.pgRefs c.wing i < 65535) ∧ f.canStage c.wing (bits (c.arg 0) 16 14) = true ∧
      f.kvReserve c.wing + (backing row - (flen - 1) / 16) ≤ (f.freePages c.wing).length) :=
  met (s := said siteRow 0x201 ([3 * 65536 + 21 * 2 ^ 32, 0] ++ rowWords)) (by decide +kernel)

theorem meets_EpochFlip : ∃ (s q : State) (c : Cmd), s.taken 0 0 spcEpochFlip = some (q, c) ∧
    ((q.wing c.wing).load.bad = false ∧ q.flipRefusal c.wing (c.arg 0) = none) :=
  met (s := said site 0x300 [1]) (by decide +kernel)

theorem meets_AdapterLoad : ∃ (s q : State) (c : Cmd), s.taken 0 0 spcAdapterLoad = some (q, c) ∧
    (let q := (q.adpFetch c.wing (bits (c.arg 0) 0 12)).fetchIn c.wing (c.arg 1) (32 * min (c.arg 2) 4096)
    ∃ f ∈ fmtInfo (bits (c.arg 0) 16 5), bits (c.arg 0) 0 12 < q.adpCount c.wing ∧
      (bits (c.arg 0) 16 5 = 2 ∨ bits (c.arg 0) 16 5 = 16) ∧
      1 ≤ bits (c.arg 0) 32 9 ∧ bits (c.arg 0) 32 9 ≤ q.rmax c.wing ∧ 1 ≤ c.arg 2 ∧ c.arg 2 ≤ 4096 ∧ c.arg 3 % 2 ^ 31 < 0x7F800000 ∧
      adpOldv (q.adpEnt c.wing (bits (c.arg 0) 0 12)) = false ∧
      q.mappedIn c.wing (q.bankNow c.wing) [1] (c.arg 1) (32 * c.arg 2) = true ∧
      ∀ i ∈ upFrom 0 (c.arg 2), q.siteOk c.wing f (bits (c.arg 0) 32 9) (c.arg 1 + 32 * i) = true) :=
  met (s := said (poke site (bot + 0x90000) (leBytes 8 (bot + 0x800000) ++ leBytes 8 (bot + 0x900000) ++ leBytes 4 0x400040)) 0x301
    [1 + 2 * 65536 + 16 * 2 ^ 32, bot + 0x90000, 1, 0x3F800000]) (by decide +kernel)

theorem meets_PrefixRegister : ∃ (s q : State) (c : Cmd), s.taken 0 0 spcPrefixRegister = some (q, c) ∧
      (let w := c.wing
      let h := bits (c.arg 0) 0 16
      let src := bits (c.arg 0) 16 14
      let q := (q.pfxFetch w h).seqFetch w src
      let plen := bits (c.arg 0) 32 13
      h < q.pfxCount w ∧ 1 ≤ plen ∧ plen ≤ 4096 ∧ src < q.seqCount w ∧ q.pfxState w h = 0 ∧
      (rwState (q.rowBytes w src) = 1 ∨ rwState (q.rowBytes w src) = 2 ∧ (q.ptRow w src).place = 0) ∧ plen ≤ rwPos (q.rowBytes w src) ∧
      rwNoadapt (q.rowBytes w src) = true ∧ rwPfx (q.rowBytes w src) = 0 ∧
      let share := (upFrom 0 (plen / 16)).map fun x => (q.entOf w src (q.ptRow w src).sel x).2
      let f := share.foldl (fun s i => s.pgFetch w i) (q.fetchIn w (q.ptEnt w src (q.ptRow w src).sel 0) (4 * ((plen + 15) / 16)))
      (∀ i ∈ share, f.pgRefs w i < 65535) ∧ (plen % 16 ≠ 0 ∧ f.kvReserve w + 1 ≤ (f.freePages w).length)) :=
  met (s := said siteRow 0x303 [1 + 20 * 2 ^ 32]) (by decide +kernel)

theorem meets_TurnLand : ∃ (s q : State) (c : Cmd), s.taken 0 0 spcTurnLand = some (q, c) ∧
    ((q.job c.wing).turn.pend.isSome = true ∧ (q.job c.wing).turn.land = none ∧
      treadReached (treadAdd c.at_ 2) (c.arg 0) = true ∧ bits (c.arg 1) 16 2 ≠ 3 ∧ bits (c.arg 1) 0 16 ≠ 0 ∧
      (q.seqCount c.wing = 0 ∨ q.mappedIn c.wing (q.bankNow c.wing) [1] (addrOf (q.wr c.wing Reg.wngTurnSnap) 6)
        (16 + 4 * q.seqCount c.wing) = true) ∧
      (bit (c.arg 1) 32 = true ∧ (q.wing c.wing).load.bad = false ∧ q.flipRefusal c.wing (c.arg 2) = none)) :=
  met (s := said (site.modTurn 0 fun t => { t with pend := some (bot, 1) }) 0x401 [2, 2 ^ 32 + 2 * 65536 + 1, 1]) (by decide +kernel)

/-- A header of a flight of one tread stands at `bot` + 0xA0000. -/
def siteFlight (s : State) : State := poke s (bot + 0xA0000) plainHeader

theorem meets_GuestLoad : ∃ (s q : State) (c : Cmd), s.taken 0 0 spcGuestLoad = some (q, c) ∧
    (c.arg 1 % 64 = 0 ∧ q.lends (bits (c.arg 0) 0 5) c.wing = true ∧ (q.validate c.wing (c.arg 1) (some (bits (c.arg 0) 0 5))).isRight = true) :=
  met (s := said (siteFlight (site.setFl 1 { active := some aFlight })) 0x105 [1, bot + 0xA0000]) (by decide +kernel)

theorem meets_UnitSet : ∀ kind ∈ [0, 3, 4], ∀ st ∈ [0, 4], ∃ (s q : State) (c : Cmd), s.taken 0 0 spcUnitSet = some (q, c) ∧
    (bits (c.arg 0) 0 4 = kind ∧ bits (c.arg 1) 0 8 = st ∧ bits (c.arg 0) 4 10 < unitCount kind ∧
      (kind = 0 → ∀ l ∈ q.logicalOf (bits (c.arg 0) 4 10), q.coreWing l = none) ∧
      (q.unit (unitKey kind (bits (c.arg 0) 4 10))).ackd = false ∧ (∀ d ∈ q.outOp 0x701, bits (d.arg 0) 0 14 ≠ bits (c.arg 0) 0 14) ∧
      (st = 0 → (q.unit (unitKey kind (bits (c.arg 0) 4 10))).hw ≠ 1)) := by
  intro kind hk st hs
  simp only [List.mem_cons, List.not_mem_nil, or_false] at hk hs
  rcases hk with rfl | rfl | rfl <;> rcases hs with rfl | rfl
  · exact met (s := said site 0x701 [831 * 16 + 0, 0]) (by decide +kernel)
  · exact met (s := said site 0x701 [199 * 16 + 0, 4]) (by decide +kernel)
  · exact met (s := said site 0x701 [8 * 16 + 3, 0]) (by decide +kernel)
  · exact met (s := said site 0x701 [8 * 16 + 3, 4]) (by decide +kernel)
  · exact met (s := said site 0x701 [1 * 16 + 4, 0]) (by decide +kernel)
  · exact met (s := said site 0x701 [1 * 16 + 4, 4]) (by decide +kernel)

theorem meets_CoreSpare : ∃ (s q : State) (c : Cmd), s.taken 0 0 spcCoreSpare = some (q, c) ∧
    (bits (c.arg 0) 0 10 ≤ 799 ∧ treadReached q.time.tread (c.arg 1) = true ∧ 128 ≤ treadDiff q.time.tread (c.arg 1) ∧
      (∀ r ∈ q.svc.repl, r.core ≠ bits (c.arg 0) 0 10) ∧ q.sparesOf (bits (c.arg 0) 0 10) = 824 :: upFrom 825 7) :=
  met (s := said site 0x705 [799, 128]) (by decide +kernel)

/-- An image of one shard of 64 bytes. -/
def anImage : Image := { id := 7, total := 64, destSize := 64, lab0 := 0, lab1 := 0, keyHash := [], written := 0, manifest := [], sig := []
                         shards := [⟨0, 0, 64, shake256 64 (List.replicate 64 5), List.replicate 64 5⟩], lost := [], cid := none }

/-- `site` with that image in its directory. -/
def siteImage : State := { site with trust := { images := [anImage] } }

theorem meets_ModelLoad : ∀ flip ∈ [false, true], ∃ (s q : State) (c : Cmd), s.taken 0 0 spcModelLoad = some (q, c) ∧
    ((q.findImage (c.arg 0)).map (fun im => im.destSize) = some 64 ∧ bit (c.arg 2) 0 = flip ∧ c.arg 1 % 64 = 0 ∧ q.outOf 0x800 c.wing = [] ∧
      (flip = false → c.arg 3 = 0) ∧ (flip = true → q.flipRefusal c.wing (c.arg 3) = none) ∧
      q.tableIn c.wing (c.arg 1) 64 = true ∧ q.barred c.wing (c.arg 1) 64 = false) := by
  intro flip hf
  simp only [List.mem_cons, List.not_mem_nil, or_false] at hf
  rcases hf with rfl | rfl
  · exact met (s := said siteImage 0x800 [7, bot + 0x700000, 0, 0]) (by decide +kernel)
  · exact met (s := said siteImage 0x800 [7, bot + 0x700000, 1, 1]) (by decide +kernel)

theorem upFrom_take (a n m : Nat) (h : n ≤ m) : (upFrom a m).take n = upFrom a n := by
  induction n generalizing a m with
  | zero => simp [upFrom]
  | succ n ih =>
    cases m with
    | zero => omega
    | succ m => simp [upFrom, ih (a + 1) m (by omega)]

theorem upFrom_len (a n : Nat) : (upFrom a n).length = n := by
  induction n generalizing a with
  | zero => rfl
  | succ n ih => simp [upFrom, ih]

theorem sliceB_take (b : List Byte) (lo n k : Nat) (h : lo + n ≤ k) : sliceB (b.take k) lo n = sliceB b lo n := by
  simp [sliceB, List.drop_take, List.take_take, Nat.min_eq_left (show n ≤ k - lo by omega)]

/-- The manifest of an image of one shard of 64 bytes. -/
def aManifest : List Byte :=
  leBytes 4 1 ++ leBytes 4 1 ++ leBytes 8 9 ++ leBytes 8 32832 ++ leBytes 8 64 ++ List.replicate 224 0 ++ leBytes 8 32768 ++ leBytes 8 0
    ++ leBytes 4 64 ++ List.replicate 76 0

theorem meets_ImageWrite : ∃ (s q : State) (c : Cmd) (b : List Byte), s.taken 0 0 spcImageWrite = some (q, c) ∧
      (let n := fieldN b 4 4
      let m := b.take (256 + 96 * n)
      (q.hostRead c.fn (c.arg 0) 256).map (fun x => x.map (·.1)) = some (b.take 256) ∧ n ≤ 65536 ∧ b.length = 256 + 96 * n + 29792 ∧
      (q.hostRead c.fn (c.arg 0) (256 + 96 * n + 29792)).map (fun x => x.map (·.1)) = some b ∧ c.arg 0 % 4096 = 0 ∧
      c.arg 1 = fieldN m 16 8 ∧ manifestOk m = true ∧ (∀ x ∈ q.trust.images, x.id ≠ fieldN m 8 8)) := by
  obtain ⟨s, q, c, h, h1, h2, h3, h4⟩ := met (P := fun _ q c => q.hostOk c.fn (c.arg 0) 256 = true ∧ q.hostOk c.fn (c.arg 0) 30144 = true ∧
      c.arg 0 % 4096 = 0 ∧ let m := (q.host.read (c.arg 0) 352).map (·.1)
      fieldN m 4 4 = 1 ∧ c.arg 1 = fieldN m 16 8 ∧ manifestOk m = true ∧ ∀ x ∈ q.trust.images, x.id ≠ fieldN m 8 8)
    (s := let x := said siteImage 0x801 [0x100000, 32832]; { x with host := putBytes x.host 0x100000 aManifest })
    (fn := 0) (clk := 0) (k := spcImageWrite) (by decide +kernel)
  have e : ∀ k ≤ 30144, ((q.host.read (c.arg 0) 30144).map (·.1)).take k = (q.host.read (c.arg 0) k).map (·.1) := fun k hk => by
    simp only [Mem.read, List.map_map, ← List.map_take, upFrom_take _ _ _ hk]
  have e1 : fieldN ((q.host.read (c.arg 0) 30144).map (·.1)) 4 4 = 1 := by
    rw [← h4.1, ← e 352 (by omega)]
    simp only [fieldN, sliceB_take _ 4 4 352 (by omega)]
  refine ⟨s, q, c, (q.host.read (c.arg 0) 30144).map (·.1), h, ?_⟩
  simp only [e1, e 256 (by omega), e 352 (by omega), State.hostRead, h1, h2, if_true, Option.map_some]
  exact ⟨trivial, by omega, by simp [Mem.read, upFrom_len], trivial, h3, h4.2.1, h4.2.2.1, h4.2.2.2⟩

/-! ## Commands that complete at once -/

/-- A configuration word of VECTOR in FP32 with no stage. -/
def plainWord : Nat := 2 ^ 24 + 2 ^ 59 + 2 ^ 49

theorem meets_CommandsCompleteAtOnce :
    (∃ (s q : State) (c : Cmd), s.taken 0 0 spcNop = some (q, c) ∧ (s.host.wf = true ∧ q.cplWritable c.fn = true)) ∧
    (∃ (s q : State) (c : Cmd), s.taken 0 0 spcIdentify = some (q, c) ∧ (s.host.wf = true ∧ q.cplWritable c.fn = true)) ∧
    (∃ (s q : State) (c : Cmd), s.taken 0 0 spcCfgLoad = some (q, c) ∧ (s.host.wf = true ∧ q.cplWritable c.fn = true ∧
      let n := bits (c.arg 1) 0 13
      let lo := if q.loaded c.wing then (q.job c.wing).cfgCount else 0
      c.arg 0 % 64 = 0 ∧ 1 ≤ n ∧ n ≤ 4096 ∧
      (q.loaded c.wing = true ∧ c.arg 0 = (q.job c.wing).cfgBase ∧ (q.job c.wing).cfgCount ≤ n) ∧ q.tableIn c.wing (c.arg 0) (64 * n) = true ∧
      (q.fetchIn c.wing (c.arg 0 + 64 * lo) (64 * (n - lo))).wordsBad c.wing (c.arg 0) lo (n - lo) = none)) ∧
    (∃ (s q : State) (c : Cmd), s.taken 0 0 spcFlightLoad = some (q, c) ∧ (s.host.wf = true ∧ q.cplWritable c.fn = true ∧ c.arg 0 % 64 = 0 ∧
      q.flightCmd c.wing = none ∧ (q.validate c.wing (c.arg 0) none).isRight = true)) ∧
    (∃ (s q : State) (c : Cmd), s.taken 0 0 spcUnitQuery = some (q, c) ∧ (s.host.wf = true ∧ q.cplWritable c.fn = true ∧ c.fn = 0 ∧
      bits (c.arg 0) 4 10 < unitCount (bits (c.arg 0) 0 4))) ∧
    (∃ (s q : State) (c : Cmd), s.taken 0 0 spcRepairList = some (q, c) ∧ (s.host.wf = true ∧ q.cplWritable c.fn = true)) ∧
    (∃ (s q : State) (c : Cmd), s.taken 0 0 spcImageErase = some (q, c) ∧ (s.host.wf = true ∧ q.cplWritable c.fn = true ∧
      (q.findImage (c.arg 0)).isSome = true ∧ ∀ d ∈ q.outOp 0x800, d.arg 0 ≠ c.arg 0)) ∧
    (∃ (s q : State) (c : Cmd), s.taken 0 0 spcImageList = some (q, c) ∧ (s.host.wf = true ∧ q.cplWritable c.fn = true ∧ c.arg 0 % 64 = 0)) :=
  ⟨met (s := said ready 0 []) (by decide +kernel),
   met (s := said ready 1 []) (by decide +kernel),
   met (s := said (poke (site.modJob 0 fun j => { j with fl := { active := some aFlight }, cfgBase := bot + 0xB0000, cfgCount := 1 })
     (bot + 0xB0040) (leBytes 64 plainWord)) 0x100 [bot + 0xB0000, 2]) (by decide +kernel),
   met (s := said (siteFlight site) 0x101 [bot + 0xA0000]) (by decide +kernel),
   met (s := said ready 0x700 [831 * 16]) (by decide +kernel),
   met (s := said ready 0x703 [0x40000, 0]) (by decide +kernel),
   met (s := said siteImage 0x802 [7]) (by decide +kernel),
   met (s := said siteImage 0x803 [0x40000, 128]) (by decide +kernel)⟩

/-- A layout table of epoch 1: one reference of 256 BF16 parameters in bank 0 and one copy of them a page further on. -/
def aLayout : List Byte :=
  leBytes 4 1 ++ leBytes 4 2 ++ leBytes 8 0 ++ leBytes 8 256 ++ List.replicate 40 0
    ++ leBytes 8 (2 ^ 50 + 2 * 2 ^ 45) ++ leBytes 8 (bot + 0x2000000) ++ leBytes 4 256 ++ leBytes 4 0 ++ leBytes 8 (bot + 0x2100000)
    ++ leBytes 8 (2 * 2 ^ 50 + 2 * 2 ^ 45) ++ leBytes 8 (bot + 0x2001000) ++ leBytes 4 256 ++ leBytes 4 0 ++ leBytes 8 (bot + 0x2101000)

theorem meets_LayoutLoadAndFirmware :
    (∃ (s q : State) (c : Cmd), s.taken 0 0 spcLayoutLoad = some (q, c) ∧
      (let w := c.wing
      let n := bits (q.peekN w (c.arg 0 + 4) 4) 0 17
      let q := (q.fetchIn w (c.arg 0) 64).fetchIn w (c.arg 0 + 64) (32 * n)
      let ex := q.expectOf w (q.layEnts w (c.arg 0) n)
      (q.job w).turn.pend = none ∧ q.mappedIn w (q.bankNow w) [1] (c.arg 0) 64 = true ∧
      q.peekN w (c.arg 0) 4 = ((q.job w).turn.lep + 1) % 2 ^ 32 ∧ q.mappedIn w (q.bankNow w) [1] (c.arg 0) (64 + 32 * n) = true ∧
      (ex ≠ 0 ∧ q.mappedIn w (q.bankNow w) [1] (q.turnMap w) (mapBytes ex) = true) ∧ q.layFail w (c.arg 0) n = none)) ∧
    (∃ (s q : State) (c : Cmd), s.taken 0 0 spcFwActivate = some (q, c) ∧ (Tab.find q.trust.fw (2 * (1 - q.boot.slot))).isSome = true) :=
  ⟨met (s := said (poke site (bot + 0xC0000) aLayout) 0x400 [bot + 0xC0000]) (by decide +kernel),
   met (s := said { ready with boot := { ready.boot with slot := 1 } } 0x901 []) (by decide +kernel)⟩

/-! ## Registers and DMA channels -/

theorem meets_MailboxRegisters : ready.fnAnswers 0 = true ∧ (bit 1 0 = true ∧ bit (ready.fnSt 0).ctrl 0 = false)
    ∧ (State.reset.fnAnswers 0 = false ∧ State.reset.time.phase < treadClk) ∧ (ready.fnAnswers 32 = false ∧ ready.time.phase < treadClk) := by decide +kernel

/-- `site` where wing 0 owns DMA channel 37, as given. -/
def siteChan (x : Chan) : State :=
  { (site.modWing 0 fun w => { w with pwe := Tab.set w.pwe (Reg.wngDmaset + 4) 0x20 }) with chans := [(37, x)] }

theorem meets_DmaChannelRegisters : (State.reset.fnAnswers 0 = false ∧ ready.fnAnswers 0 = true ∧ ready.chanOf 0 31 95 = none) ∧
    (let s := siteChan { ring := bot + 0xD0001 }
     s.fnAnswers 0 = true ∧ s.chanOf 0 0 0 = some 37 ∧ bit 1 0 = true ∧ bit (s.chan 37).ctrl 0 = false
       ∧ bit (s.chan 37).ring 0 = true ∧ s.inHbm 0 ((s.chan 37).ring / 4096 * 4096) (64 * (s.chan 37).size) = true) ∧
    (let s := siteChan { ring := bot + 0x4000001 }
     s.fnAnswers 0 = true ∧ s.chanOf 0 0 0 = some 37 ∧ bit 1 0 = true ∧ bit (s.chan 37).ctrl 0 = false
       ∧ bit (s.chan 37).ring 0 = true ∧ s.inHbm 0 ((s.chan 37).ring / 4096 * 4096) (64 * (s.chan 37).size) = false) := by decide +kernel

theorem meets_DescriptorsRun : ∀ cls ∈ [0, 1, 2, 3], ∀ own ∈ [0, 1], ∃ (s : State) (d : List Byte) (u : State), s.chanWing 37 = some 0 ∧
    bit (s.chan 37).ctrl 0 = true ∧ (s.chan 37).work = true ∧ (s.chan 37).waitOwn = false ∧
    ((s.at_ 5).fab.reqs.any fun r => r.own = blockOwn (chanUnit 37) 0) = false ∧
    (s.at_ 5).descRead 0 (s.chan 37) = (some d, u) ∧ bits (fieldN d 0 4) 29 2 = cls ∧ bit (fieldN d 0 4) 31 = (own == 1) := by
  intro cls hc own ho
  let s := poke (siteChan { ring := bot + 0xD0001, ctrl := 1, tail := 1 }) (bot + 0xD0000) (leBytes 4 (cls * 2 ^ 29 + own * 2 ^ 31))
  refine ⟨s, leBytes 64 (cls * 2 ^ 29 + own * 2 ^ 31), ((s.at_ 5).descRead 0 (s.chan 37)).2, ?_⟩
  simp only [List.mem_cons, List.not_mem_nil, or_false] at hc ho
  have h : ∀ x : Option (List Byte) × State, x.1 = some (leBytes 64 (cls * 2 ^ 29 + own * 2 ^ 31)) →
      x = (some (leBytes 64 (cls * 2 ^ 29 + own * 2 ^ 31)), x.2) := by rintro ⟨a, b⟩ rfl; rfl
  rcases hc with rfl | rfl | rfl | rfl <;> rcases ho with rfl | rfl <;>
    exact ⟨by decide +kernel, by decide +kernel, by decide +kernel, by decide +kernel, by decide +kernel, h _ (by decide +kernel), by decide +kernel, by decide +kernel⟩

theorem meets_RegistersOfThePfReadBack : ready.fnAnswers 0 = true ∧ (∃ r ∈ pfRegRows, r.cls = .prot ∧ 7 < r.n)
    ∧ (∃ r ∈ pfRegRows, r.cls = .prot ∧ r.key = Reg.halCfg) ∧ ∀ p ∈ upFrom 0 8, (ready.port p).st = 0 := by decide +kernel

theorem meets_VfsLeaveThePf : (32 : Fn) ≠ 0 := by decide

theorem meets_BadSizeAccesses : (ready.fnAnswers 0 = true ∧ ready.time.phase < treadClk)
    ∧ ∀ x ∈ [(4, 2), (0, 3), (4, 8), (0, 16)], 0 < x.2 ∧ ¬((x.2 = 4 ∨ x.2 = 8) ∧ x.1 % x.2 = 0) := by decide +kernel

theorem meets_TreadNumberIsReadWhole : ∀ gap ∈ [none, some 7], let s : State := { ready with time := { tread := 2 ^ 48 - 1, inGap := gap } }
    s.fnAnswers 0 = true ∧ s.time.tread < treadMod ∧ s.time.inGap.isSome = gap.isSome := by decide +kernel

theorem meets_RegistersWithAnAction : (ready.fnAnswers 0 = true ∧ (withPort 8 { st := 2 }).fnAnswers 0 = true ∧ ((withPort 8 { st := 2 }).port 8).st = 2
    ∧ bit (BitVec.ofNat 64 (2 ^ 62)).toNat 62 = true)
    ∧ ({ ready with pci := { numVFs := 32, vfEnable := true } }.fnAnswers (31 + 1) = true ∧ bit (2 : BitVec 32).toNat 1 = true)
    ∧ (ready.time.phase < treadClk ∧ ready.fnAnswers 32 = false ∧ (1 ≠ 0 ∧ 1 ≠ 31 + 1))
    ∧ (State.reset.time.phase < treadClk ∧ State.reset.fnAnswers 0 = false) := by decide +kernel

/-- A DBG_ACCESS with an address, an operation and a space. -/
def dbg (a op : Nat) (mem : Bool) : BitVec 128 := BitVec.ofNat 128 (a * 2 ^ 17 + op * 2 ^ 15 + b2n (!mem) * 2 ^ 8)

theorem meets_DebugAccess : ∀ op ∈ [0, 1, 2, 3], ∀ mem ∈ [false, true], ∀ a ∈ [0x18FFFFFF8, 0xDFFFFFFFF8, 0x7FFFFFFFFFFF],
    bits (dbg a op mem).toNat 15 2 = op ∧ bit (dbg a op mem).toNat 8 = !mem ∧ bits (dbg a op mem).toNat 17 47 = a := by
  decide +kernel

/-- The last doubleword of a region is mapped, the one past HBM is not. -/
theorem meets_DebugAccess_mapped : (ready.region (hbmBase + 384 * hbmGiB - 8) ≠ .unmapped ∧ ready.region (hbmBase + 384 * hbmGiB - 1) ≠ .unmapped)
    ∧ ready.region (hbmBase + 384 * hbmGiB) = .unmapped
    ∧ (ready.tapLive = true ∧ ready.debugUse.boot.hbmInit = false)
    ∧ ({ ready with boot := { ready.boot with hbmInit := true } } : State).debugUse.boot.hbmInit = true ∧ State.reset.tapLive = false := by
  decide +kernel

/-! ## Rows of the tread -/

/-- A command of an opcode that is outstanding on wing 0. -/
def aCmd (op : Nat) (w : List Nat) : Cmd := ⟨5, 0, 0, op, 0, false, 0, 0, 1, w, 0, []⟩

/-- `site` with commands outstanding. -/
def siteOut (l : List Cmd) : State := { site with newel := { site.newel with out := l } }

/-- `site` with a run in the home or the guest slot of core 799. -/
def siteRun (g : Bool) (r : Run) : State := { site with cores := [(799, if g then { guest := some r } else { home := some r })] }

/-- The rows that stand for one action of a boundary, where the action is due and where it is not. -/
theorem meets_TreadRows_work : ∀ g, let s := siteRun g { late := 16 }
    s.abandonDue someEnv 799 = true ∧ s.time.crossed = false ∧ s.boot.st ≠ 0 ∧ s.abandonDue someEnv 798 = false
      ∧ (match (((s.boundary3 someEnv).boundary4 s.ending).core 799).run g with | some r => decide (16 ≤ r.late) | none => false) = true := by
  decide +kernel

theorem meets_TreadRows_flight : ∀ hall, let s := site.setFl 0 { active := some { aFlight with rep := 1, hall := hall }, fstate := 2, pos := 1 }
    s.flightDue someEnv 0 = true ∧ s.flightDue someEnv 1 = false
      ∧ (((((s.boundary3 someEnv).boundary4 s.ending).job 0).fl.cycle ((s.boundary3 someEnv).boundary4 s.ending).tread).2.2) = true := by
  decide +kernel

theorem meets_TreadRows_windows :
    (let s := site.modTurn 0 fun t => { t with land := some ⟨0, 1, false, 0, 0, 5⟩ };
      s.landDue someEnv 0 = true ∧ s.landDue someEnv 1 = false ∧ (s.job 0).turn.land = some ⟨0, 1, false, 0, 0, 5⟩ ∧ s.time.tread = 0) ∧
    (let s := siteOut [{ aCmd 0x600 [1] with prog := 1, eff := 0 }];
      s.quiesceDue someEnv 0 = true ∧ s.quiesceDue someEnv 1 = false) ∧
    (let s := poke (poke site (bot + 0x70103) [0x80]) (bot + 0x70143) ([0x40] ++ List.replicate 12 0 ++ [1]);
      s.tretDue someEnv 0 1 = true ∧ s.tretDue someEnv 0 0 = false) ∧
    (let s : State := { ready with time := { ready.time with tread := 2 }, units := [(unitKey 4 1, { unitDefault (unitKey 4 1) with since := some 0, want := 0 })] };
      s.divergeDue someEnv (unitKey 4 1) = true ∧ s.divergeDue someEnv (unitKey 4 0) = false) := by decide +kernel

/-! ## Functions and streams -/

/-- A configuration word of a function and its operation. -/
def wordOf (func op : Nat) : Nat := func * 2 ^ 26 + op * 2 ^ 224

/-- The predicates by which function rows know their words, with a word of each. -/
def functionRows : List ((Nat → Bool) × Nat) :=
  [(fun c => cwFunc c = 0, wordOf 0 0), (fun c => cwFunc c = 1, wordOf 1 0), (fun c => cwFunc c = 2, wordOf 2 0), (isSample 0, wordOf 4 0),
   (isSample 1, wordOf 4 1), (isSample 2, wordOf 4 2), (isReduce 1, wordOf 5 1), (isReduce 2, wordOf 5 2), (isReduce 3, wordOf 5 3),
   (isReduce 4, wordOf 5 4), (isReduce 5, wordOf 5 5), (isReduce 7, wordOf 5 7), (isOptim 0, wordOf 6 0), (isOptim 1, wordOf 6 1),
   (isOptim 2, wordOf 6 2), (isOptim 3, wordOf 6 3), (isOptim 4, wordOf 6 4), (fun c => cwFunc c = 7, wordOf 7 0), (fun c => cwFunc c = 8, wordOf 8 0),
   (isRoute, wordOf 3 0), (isReduce 0, wordOf 5 0), (isReduce 6, wordOf 5 6), (isDelta, wordOf 9 0)]

/-- A run of a word with one LOAD block of buffer half 1 that has retired, and one of half 0 that has not. -/
def aRun (c : Nat) : Run := { cfg := c, blks := [2 ^ 93, 0], retired := [0] }

theorem meets_Functions : ∀ x ∈ functionRows, ∀ g : Bool, ∃ s r u,
    State.runAt s 799 g = some r ∧ r.fnDone = false ∧ (∀ k ∈ upFrom 0 r.blks.length, blkDir (r.blks.getD k 0) = 0 → blkHalf (r.blks.getD k 0) = 1 → k ∈ r.retired) ∧
    x.1 r.cfg = true ∧ (s.wing r.wing).quiet = false ∧ (s.beginRun 799 g).runAt 799 g = some u
      ∧ (cwRagged u.cfg = true → cwFunc u.cfg ≠ 4 → u.rows ≠ 0) := by
  intro x hx g
  have h : x.1 x.2 = true ∧ ((siteRun g (aRun x.2)).beginRun 799 g).runAt 799 g
      = some { aRun x.2 with started := true, work := [(0, 0), (1, 0), (2, 0), (3, 0)] } ∧ cwRagged x.2 = false := by
    revert x g; decide +kernel
  refine ⟨siteRun g (aRun x.2), aRun x.2, _, by cases g <;> rfl, rfl, ?_, h.1, by cases g <;> rfl, h.2.1, fun k => ?_⟩
  · show ∀ k ∈ upFrom 0 2, blkDir (([2 ^ 93, 0] : List Nat).getD k 0) = 0 → blkHalf (([2 ^ 93, 0] : List Nat).getD k 0) = 1 → k ∈ [0]
    decide +kernel
  exact absurd k (by rw [show ({ aRun x.2 with started := true, work := [(0, 0), (1, 0), (2, 0), (3, 0)] } : Run).cfg = x.2 from rfl, h.2.2]; decide)

/-- An entry that has begun; and entries of which no row of a function runs anything: another function’s, an ended one, one with an operand
still to come, and one of a wing that quiesces. -/
theorem meets_FunctionsRunTheirRules : ∀ x ∈ functionRows, ∀ g : Bool,
    x.1 x.2 = true ∧ (siteRun g { aRun x.2 with started := true }).runAt 799 g = some { aRun x.2 with started := true } ∧
    (∀ k ∈ upFrom 0 2, blkDir ((aRun x.2).blks.getD k 0) = 0 → blkHalf ((aRun x.2).blks.getD k 0) = 1 → k ∈ (aRun x.2).retired) ∧
    x.1 (wordOf 15 0) = false ∧ { aRun x.2 with fnDone := true }.fnDone = true ∧
    ¬(∀ k ∈ upFrom 0 2, blkDir ((aRun x.2).blks.getD k 0) = 0 → blkHalf ((aRun x.2).blks.getD k 0) = 1 → k ∈ { aRun x.2 with retired := [1] }.retired) ∧
    (((siteRun g (aRun x.2)).modWing 0 fun y => { y with quiet := true }).wing 0).quiet = true := by
  decide +kernel

/-- A ragged MATMUL of a step with one row. -/
theorem meets_Functions_ragged : (let c := wordOf 1 0 + 2 ^ (80 + 2) + 2 ^ (224 + 96 + 31)
    let s := poke ((siteRun false { cfg := c }).modJob 0 fun j => { j with wr := Tab.set j.wr Reg.wngGenLtab (bot + 0x3000000) }) (bot + 0x3000004) [1]
    cwRagged c = true ∧ (match (s.beginRun 799 false).runAt 799 false with | some u => cwRagged u.cfg && decide (u.rows = 1) | none => false) = true) := by
  decide +kernel

/-- An entry with one block between offset 0 of its half and the wing’s window, in a core whose guest quarter is lent where it is a guest’s. -/
def siteBlock (g : Bool) (dir : Nat) (r : Run) : State :=
  let s := siteRun g { r with blks := [bot + 0x700000 + dir * 2 ^ 94 + 64 * 2 ^ 128], started := true }
  { s with cores := s.cores.map fun (x : Nat × Core) => (x.1, { x.2 with quarter := g }) }

theorem meets_StreamSteps_issue : ∀ dir ∈ [0, 1, 2], ∀ g, let s := siteBlock g dir {}
    let b := (s.at_ 32).beginRun 799 g
    ∃ r ∈ s.runAt 799 g, s.mayIssue r 0 32 = true ∧ ∃ v ∈ b.runAt 799 g, blkDir (v.blks.getD 0 0) = dir ∧
      b.blkRefused v (v.blks.getD 0 0) = false ∧ blkAddr (v.blks.getD 0 0) / 2 ^ 47 = b.me ∧ b.blkTag v.wing (v.blks.getD 0 0) = none ∧
      b.sramRefused 799 g (b.halfBase 799 g (blkHalf (v.blks.getD 0 0)) + blkLoff (v.blks.getD 0 0)) (blkLen (v.blks.getD 0 0)) = false := by
  decide +kernel

theorem meets_StreamSteps :
    (∀ dir ∈ [0, 1, 2], ∀ g, let s := siteBlock g dir { issued := [0] }
      ∃ r ∈ s.runAt 799 g, 0 ∈ r.issued ∧ 0 ∉ r.retired ∧ s.inOrder r 0 = true ∧ s.reqsDone (blockOwn (slotUnit 799 g) 0) = true ∧
        blkDir (r.blks.getD 0 0) = dir ∧ s.mem.wf = true ∧ blkAddr (r.blks.getD 0 0) / 2 ^ 47 = s.me ∧ s.blkTag r.wing (r.blks.getD 0 0) = none ∧
        s.sramRefused 799 g (s.halfBase 799 g (blkHalf (r.blks.getD 0 0)) + blkLoff (r.blks.getD 0 0)) (blkLen (r.blks.getD 0 0)) = false ∧
        r.moved 0 = [(0, 64)]) ∧
    (∀ g, ∃ r ∈ (siteRun g { blks := [0], retired := [0], fnDone := true }).runAt 799 g, r.fnDone = true ∧ r.retired.length = r.blks.length) := by
  decide +kernel

/-! ## The newel, service and trust -/

theorem meets_NewelRows : ready.newel.running = true ∧ (∃ s : State, s.newel.activating.isSome = true)
    ∧ (∀ st ∈ [5, 6], ∃ s : State, s.newel.running = false ∧ s.boot.st = st ∧ s.newel.activating = none
      ∧ (fwOrder s.restartSlot).find? (fun k => s.fwPasses k) = some 0)
    ∧ (∃ s : State, s.newel.running = false ∧ s.boot.st = 5 ∧ (fwOrder s.restartSlot).find? (fun k => s.fwPasses k) = none)
    ∧ ready.time.phase < treadClk :=
  ⟨by decide, ⟨{ ready with newel := { ready.newel with activating := some 3 } }, by decide⟩, (by
    intro st h
    simp only [List.mem_cons, List.not_mem_nil, or_false] at h
    rcases h with rfl | rfl
    · exact ⟨{ ready with newel := {} }, by decide +kernel⟩
    · exact ⟨{ ready with boot := { ready.boot with st := 6 }, newel := {} }, by decide +kernel⟩),
    ⟨{ ready with newel := {}, trust := { fw := [] } }, by decide +kernel⟩, by decide⟩

theorem meets_OutstandingWorkEnds :
    (let s := { siteOut [aCmd 0x801 []] with trust := { images := [{ anImage with cid := some 5 }] } }
      ∃ im ∈ s.trust.images.find? fun x => x.id = 7 && x.cid.isSome, s.newel.out.find? (fun d => some d.cid = im.cid) = some (aCmd 0x801 [])) ∧
    ((siteOut [aCmd 0x900 []]).newel.running = true ∧ (siteOut [aCmd 0x900 []]).outOp 0x900 = aCmd 0x900 [] :: []) ∧ (siteOut [aCmd 0x704 []]).outOp 0x704 = aCmd 0x704 [] :: [] ∧
    (siteOut [aCmd 0x804 []]).outOp 0x804 = aCmd 0x804 [] :: [] ∧
    ((siteOut [aCmd 0x706 [831 * 16 + 7, 1]]).outOp 0x706).find? (fun x => bits (x.arg 0) 0 4 = 7 && bits (x.arg 0) 4 10 = 831)
      = some (aCmd 0x706 [831 * 16 + 7, 1]) := by decide +kernel

/-- A MODEL_LOAD of that image that reads copy 1 of its shard. -/
def siteLoad : State := { siteOut [aCmd 0x800 [7, bot + 0x700000]] with
  trust := { images := [anImage] }
  wings := (siteImage.modLoad 0 fun l => { l with st := 1, cid := some 5, image := 7, base := bot + 0x700000, queues := [(0, [(0, 0)])] }).wings }

theorem meets_ModelLoadRows : siteLoad.newel.running = true ∧ siteLoad.loading 0 = some (aCmd 0x800 [7, bot + 0x700000], anImage) ∧ (siteLoad.wing 0).load.reading 0 = some 0 ∧
    ∃ sh, anImage.shards[0]? = some sh ∧ anImage.lost.contains (4 * 0 + 2 * 0 + 1) = false ∧ shake256 64 sh.data = sh.hash
      ∧ (shake256 64 (sliceB [] 0 sh.len) ≠ sh.hash ∧ ([1] : List Byte) ≠ []) := by
  have h1 : (siteLoad.wing 0).load.cid = some 5 ∧ (siteLoad.wing 0).load.image = 7 := by decide +kernel
  have h2 : siteLoad.newel.out.find? (fun (c : Cmd) => c.cid = 5) = some (aCmd 0x800 [7, bot + 0x700000]) := by decide +kernel
  have h3 : siteLoad.trust.images.find? (fun (x : Image) => x.id = 7) = some anImage := rfl
  refine ⟨by decide +kernel, by simp only [State.loading, h1, h2, h3], by decide +kernel, ⟨0, 0, 64, shake256 64 (List.replicate 64 5), List.replicate 64 5⟩, ?_⟩
  refine ⟨rfl, by decide +kernel, by simp only, by decide +kernel, by decide⟩

theorem meets_RepairsAct :
    (⟨127, 15, 196607⟩ : RowCand) ∈ ({ ready with hbm := { cands := [⟨127, 15, 196607⟩] } } : State).hbm.cands ∧
    31 * 65536 + 4095 * 16 + 15 ∈ ({ ready with gal := { candidates := [2097151] } } : State).gal.candidates ∧
    (∃ (s : State) (r : Repl), s.svc.repl = [r] ∧ r.core = 799 ∧ r.phase = 0) ∧
    (∃ (s : State) (r : Repl), s.svc.repl.find? (fun r => r.core = 799 && r.phase = 2) = some r) ∧
    (∃ s : State, 64 ≤ Tab.cnt s.hbm.ueTread 127 ∧ (s.unit (unitKey 2 127)).hw = 0) ∧ (ready.unit (unitKey 2 127)).hw = 0 ∧
    (∃ s : State, (s.unit (unitKey 2 127)).hw = 2) ∧
    ready.sliceFault 31 = false ∧ ready.hbm.migrating ≠ some 127 ∧ ∃ s : State, s.hbm.migrating = some 127 :=
  ⟨by decide, by decide, ⟨{ ready with svc := { repl := [⟨1, 799, 824, 128, 0, false⟩] } }, ⟨1, 799, 824, 128, 0, false⟩, rfl, rfl, rfl⟩,
    ⟨{ ready with svc := { repl := [⟨1, 799, 824, 128, 2, false⟩] } }, ⟨1, 799, 824, 128, 2, false⟩, by decide⟩,
    ⟨{ ready with hbm := { ueTread := [(127, 64)] } }, by decide +kernel⟩, by decide +kernel,
    ⟨{ ready with units := [(unitKey 2 127, { unitDefault (unitKey 2 127) with hw := 2 })] }, by decide +kernel⟩, by decide +kernel, by decide,
    ⟨{ ready with hbm := { migrating := some 127 } }, rfl⟩⟩

theorem meets_PatrolsAct :
    256 * (384 * 2 ^ 22 - 1) < ready.hbmEnd ∧ ready.hbmEnd ≤ 256 * (384 * 2 ^ 22) ∧
    (∃ (s : State) (l : Line), Tab.find s.gal.lines (31 * 65536 + 4095 * 16 + 15) = some l) ∧ Tab.find ready.gal.lines (31 * 65536 + 4095 * 16 + 15) = none ∧
    0x7FFFF < 0x80000 ∧
    ∀ x : ScrubStore, ∀ k ∈ [(2 * (if storeCode x = 0 then 720000000 else 1500000) + 1, true), (2 * (if storeCode x = 0 then 720000000 else 1500000), false)],
      let s : State := { timed (fun t => { t with tread := 5 + k.1 }) with svc := { passStart := [(storeCode x, 5)] } }
      storeCode x ∉ s.svc.scrubLate ∧ (match Tab.find s.svc.passStart (storeCode x) with
        | some t => treadPast t (2 * (if storeCode x = 0 then 720000000 else 1500000)) s.tread
        | none => false) = k.2 := by
  refine ⟨by decide +kernel, by decide +kernel, ⟨{ ready with gal := { lines := [(31 * 65536 + 4095 * 16 + 15, ⟨bot / 256, false, 0, [], []⟩)] } }, _, rfl⟩,
    by decide, by decide, fun x => by cases x <;> decide +kernel⟩

theorem meets_MonitorsAct : ((withPort 8 { st := 2 }).laneOn 8 = true ∧ (8 : Fin 12).val < 9) ∧ (ready.laneOn 8 = false ∧ ready.time.phase < treadClk)
    ∧ 262143 < 262144 ∧ (2047 < sysBlocks ∧ ready.flashUsed 2048 = false)
    ∧ ({ ready with trust := { logq := [[1], [2]] } } : State).trust.log.length + 2 ≤ 4194304
    ∧ 2 ≤ ({ ready with trust := { logq := [[1], [2]] } } : State).trust.logq.length ∧ ready.newel.running = true := by decide +kernel

/-- A firmware copy that passes stands beside the one to be rewritten, as after manufacture. -/
theorem meets_MonitorsAct_copy : ∀ slot ∈ [0, 2], ∀ copy ∈ [0, 1], (match Tab.find ready.trust.fw (2 * (slot % 2) + (1 - copy % 2)) with
    | some _ => ready.fwPasses (2 * (slot % 2) + (1 - copy % 2)) | none => false) = true := by decide +kernel

/-- `site` with a copy, with CXL memory on port 0 for wing 0’s frames, and with 32 VFs. -/
def siteCopy (c : KvCopy) : State :=
  { ((site.modGen 0 fun g => { g with copies := [c] }).modJob 0 fun j => { j with wr := Tab.set j.wr Reg.wngKvCxl (0x40000000000 / 128) }) with
    cxl := [(0, { st := 2, size := 8192 })], pci := { numVFs := 32, vfEnable := true } }

theorem meets_JobCopiesAct :
    (∀ kind ∈ [0, 1, 2, 3], ∀ loc ∈ [0, 1], ∀ x ∈ [(false, false), (true, false), (false, true)],
      let s := siteCopy ⟨4, kind, 0, 0, 0, 1, loc, false, x.2, x.1⟩
      ∃ c ∈ (s.job 0).gen.copies.find? fun c => c.id = 4 && !c.landed, s.newel.running = true ∧ c.discard = x.1 ∧ c.failed = x.2 ∧ c.kind = kind
        ∧ c.loc = loc) ∧
    ({ siteCopy ⟨4, 0, 0, 0, 0, 1, 0, false, false, false⟩ with newel := {} } : State).newel.running = false ∧
    (let s := site.modWing 0 fun w => { w with ctxs := [(3, { st := 6, slot := some 1 })] };
      s.newel.running = true ∧ ∃ x ∈ (s.wing 0).ctxs.find? fun y => y.2.st = 6 && y.2.stamp ≠ 0xFFFFFFFFFFFFFFFF, x.2.slot = some 1) := by decide +kernel

/-- The frame of a copy from CXL answers, and so does one in host memory. -/
theorem meets_JobCopiesAct_sources :
    (let q := (siteCopy ⟨4, 2, 0, 0, 0, 1, 1, false, false, false⟩).at_ 9;
      let a := (q.kvCxl 0).1
      q.linkUp a = true ∧ ∀ p ∈ linePieces a (q.kvGeom 0).fb, q.behind p.1 ≠ .dead ∧ q.timedOut p.1 = false) ∧
    (let q := (siteCopy ⟨4, 2, 0, 0, 0, 1, 0, false, false, false⟩).at_ 9;
      (q.hostRead 1 (q.wr 0 Reg.wngKvHost / 4096 * 4096) (q.kvGeom 0).fb).isSome = true) := by decide +kernel

/-! ## The fabric -/

/-- `site` in a hall of two modules, as module 0, with every share of wing 0’s credits and the ports given. -/
def siteHall (l : Tab PortSt) : State :=
  { (site.modWing 0 fun w => { w with pwe := Tab.set w.pwe Reg.wngCred 0xFFFFFF }) with pfe := [(Reg.halCfg, 0x8000)], ports := l }

/-- An UP port with one cell sent twice and one sent eight times, and an item to send. -/
def upPort : PortSt := { st := 2, replay := [(4095, 2), (0, 8)], items := [7], expect := 4095 }

theorem meets_PortsMove :
    (let s : State := { ready with units := [(unitKey 3 8, { unitDefault (unitKey 3 8) with hw := 0 })] };
      (s.port 8).st = 0 ∧ s.portOn 8 = true ∧ s.board.pinsTaken = false) ∧
    (ready.time.phase < treadClk ∧ ready.portOn 8 = false ∧ ({ ready with board := { pinsTaken := true } } : State).board.pinsTaken = true) ∧
    (∀ st ∈ [1, 3, 2], ((withPort 8 { st := st }).port 8).st = st ∧ (withPort 8 { st := st }).board.pinsTaken = false) ∧
    (∀ x ∈ [(4095, true), (0, false)], let h := BitVec.ofNat 20 (2 ^ 18 + x.1 * 64);
      bits h.toNat 18 2 = 1 ∧ bits h.toNat 0 6 = 0 ∧ decide (bits h.toNat 6 12 = ((withPort 8 upPort).port 8).expect) = x.2) ∧
    (bits (BitVec.ofNat 20 (3 * 2 ^ 18)).toNat 18 2 = 3 ∧ bits (BitVec.ofNat 20 1).toNat 0 6 ≠ 0) ∧
    (replayPos ((withPort 8 upPort).port 8).replay 4095 = some 0 ∧ replayPos ((withPort 8 upPort).port 8).replay 0 = some 1
      ∧ ((withPort 8 upPort).port 8).st = 2 ∧ ((withPort 8 upPort).port 8).replay ≠ []
      ∧ (∃ c ∈ ((withPort 8 upPort).port 8).replay, 8 ≤ c.2) ∧ ((withPort 8 upPort).port 8).items ≠ []) ∧
    ((siteHall [(0, upPort)]).neighOk 0 1 1 = true ∧ (siteHall [(8, upPort)]).neighOk 8 131071 8 = true
      ∧ (siteHall [(0, upPort)]).neighOk 0 2 1 = false ∧ ((siteHall [(0, upPort)]).port 0).st = 2) := by decide +kernel

/-- A frame toward module 1. -/
def farFrame : Frame := { someFrame with typ := 2, dst := 1, src := 0 }

/-- That frame, waiting in queue 5. -/
def waiting : QFrame := ⟨farFrame, 5, 0, 0, 1, none⟩

theorem meets_FramesMove_transmit : let s := siteHall [(0, { st := 2, txq := [waiting] })]
    (s.port 0).st = 2 ∧ bits (s.pf Reg.halInj) 32 3 = 0 ∧ (s.port 0).held = [] ∧ (s.port 0).late = [] ∧
      (serveQueue (fun q => bits (s.pf Reg.dmaQwgt) (4 * q) 4) ((s.sendable 0).map (·.q)).eraseDups (s.port 0).acc).1 = some 5 ∧
      chooseFrame s.requesters s.fab.ptr ((s.sendable 0).filter fun y => y.q = 5) = some waiting := by decide +kernel

theorem meets_FramesMove_late : (let s := siteHall [(0, { st := 2, late := [waiting] })]
      (s.port 0).late = waiting :: [] ∧ (s.port 0).replay.length + (s.port 0).newCells (32 + waiting.f.payload.length) ≤ 256) ∧
    (ready.time.phase < treadClk ∧ (ready.port 0).st ≠ 2 ∧ ((siteHall [(0, { st := 2 })]).port 0).late = [] ∧ (siteHall [(0, { st := 2 })]).sendable 0 = []) := by
  decide +kernel

/-- A record at the head of VC 0 of port 1, and a frame of a record behind it. -/
theorem meets_FramesMove_behind : let s : State := { siteHall [(1, { st := 2 })] with fab := { heads := [(0, { someRec with port := 1, vc := 0 })] } };
    let f : Frame := { farFrame with typ := 4, vc := 0 };
    (∃ x ∈ s.fab.heads, x.2.port = 1 ∧ x.2.vc = f.vc % 2) ∧ classOf f.typ = 2 ∧ s.malformed f = false ∧ f.dst ≠ s.me := by decide +kernel

theorem meets_FramesMove_forward :
    (∀ st ∈ [0, 2], ∀ bad ∈ [false, true], let s := siteHall [(1, { st := 2 }), (0, { st := st })];
      (s.port 1).st = 2 ∧ s.malformed (if bad then { farFrame with pzn := true } else farFrame) = false ∧ farFrame.dst ≠ s.me ∧ s.inHall = true ∧
        s.route farFrame.dst (some (1, farFrame.vc)) = some (0, 0) ∧ s.portOpen 0 = (st == 2)) ∧
    (let s := siteHall [(1, { st := 2 }), (8, { st := 2 })];
      s.malformed { farFrame with rsv := true } = true ∧ s.malformed { farFrame with dst := s.me } = false ∧ farFrame.typ ≠ 7 ∧
        s.malformed { farFrame with dst := s.me, typ := 7, payload := [], lenw := 0 } = false ∧ (s.port 8).st = 2) := by decide +kernel

theorem meets_RequestTimesOut : ∀ x ∈ [(250, 10, false), (251, 10, true), (249, 0, false), (250, 0, true)],
    let r : RemReq := ⟨65535, 0, 0, 0, 64, false, 0, 0, x.2.1, false, false, []⟩
    let s := { siteHall [(0, { st := 2 })] with time := { ready.time with tread := x.1 }, fab := { reqs := [r] }, pfe := [(Reg.halRto, 250)] }
    s.fab.reqs.find? (fun y => y.tag = 65535 && !y.done) = some r
      ∧ treadReached (treadAdd r.tread (max 1 (bits (s.pf Reg.halRto) 0 16) + if r.clk = 0 then 0 else 1)) s.time.tread = x.2.2
      ∧ s.fab.reqs.find? (fun y => y.tag = 65534 && !y.done) = none ∧ s.time.phase < treadClk ∧ s.fab.reqs.find? (fun y => y.tag = r.tag) = some r := by decide +kernel

theorem meets_RequestsAreServed :
    (∀ p ∈ [0, 8], ∀ x ∈ [(0, bot, 64, []), (2, bot + 0x700000, 0, someFrame.payload), (8, bot, 8, [])],
      let s := siteHall [(p, { st := 2 })];
      let f := { someFrame with typ := x.1, src := 1, addr := x.2.1, rlen := x.2.2.1, payload := x.2.2.2, lenw := if x.1 = 2 then 1 else 0 };
      (s.port p).st = 2 ∧ f.dst = s.me ∧ s.malformed f = false ∧ f.typ = x.1 ∧ s.mem.wf = true) ∧
    (∀ wr ∈ [false, true], ∀ st ∈ [0, 1, 2], ∀ late ∈ [false, true],
      let r : RemReq := ⟨7, 0, 0, 0, 8, wr, 0, 0, 0, false, false, []⟩;
      let s := { siteHall [(0, { st := 2 })] with
        time := { ready.time with tread := if late then 250 else 249 }, fab := { reqs := [r] }
        pfe := [(Reg.halCfg, 0x8000), (Reg.halRto, 250)] };
      let f := { someFrame with typ := if wr then 3 else 1, src := 1, tag := 7, status := st, payload := [], lenw := 0 };
      let q := ((s.takeFrame 0 f).at_ 9).delivered 0 f;
      (s.port 0).st = 2 ∧ f.dst = s.me ∧ s.malformed f = false ∧
        q.fab.reqs.find? (fun x => x.tag = f.tag && !x.done && x.write == wr) = some r ∧ q.reqLate r = late) ∧
    (let s := siteHall [(0, { st := 2 })];
      let f := { someFrame with typ := 3, src := 1, payload := [], lenw := 0 };
      s.malformed f = false ∧ (((s.takeFrame 0 f).at_ 9).delivered 0 f).fab.reqs.find? (fun x => x.tag = f.tag && !x.done && x.write) = none) := by
  decide +kernel

/-- `site` with exchange 1 a GRAD of one chunk of 16 elements in one ring of one slot, top-k with KTOP 1. -/
def siteGrad : State := poke (siteHall [(1, { st := 2 })]) (bot + 0x70100)
  (leBytes 4 (3 * 2 ^ 30 + 2 * 2 ^ 10 + 16) ++ leBytes 4 0x10001 ++ leBytes 4 16 ++ leBytes 4 0)

/-- A contribution to that exchange. -/
def aContrib : RecIn :=
  { someRec with bytes := leBytes 4 (2 ^ 20 + 2 * 2 ^ 18 + 2 ^ 12) ++ leBytes 8 0 ++ leBytes 4 16 ++ List.replicate 176 0 }

theorem meets_RecordsArrive :
    (let q := (siteGrad.at_ 9).chargeRecord aContrib;
      aContrib.port < 8 ∧ (siteGrad.port aContrib.port).st = 2 ∧ siteGrad.fab.heads.any (fun x => sameVc x.2 aContrib) = false ∧
      q.ringWaits 2 aContrib (q.hold_ 0) = false ∧ (q.contribIn aContrib).2 = true) ∧
    8 ≤ ({ aContrib with port := 8 } : RecIn).port ∧
    (let s := { siteGrad with fab := { holds := [(0, [(2, aContrib)])], heads := [] } };
      let q := (s.at_ 9).chargeRecord aContrib;
      q.ringWaits 2 aContrib (q.hold_ 0) = true ∧ q.holdRoom 0 aContrib.bytes.length = true ∧
      ((s.at_ 9).holdStep 0 [] ((s.at_ 9).hold_ 0)).isSome = true) ∧
    (let s := { siteGrad with fab := { heads := [(2, aContrib)] } };
      s.fab.heads.any (fun x => sameVc x.2 aContrib) = true) := by decide +kernel

theorem meets_RecordsArrive_tokens : ∀ x ∈ [(0x00, none), (0x80, some 1), (0x40, some 0)],
    let s := poke (siteHall [(1, { st := 2 })]) (bot + 0x70003) [if x.1 = 0 then 0 else 0x40];
    let s := if x.1 = 0x80 then poke s (bot + 0x70043) [0x40] else s;
    let r := { someRec with bytes := leBytes 8 (if x.1 = 0x80 then 5 * 2 ^ 48 else 0) ++ leBytes 8 0 };
    let u := ((s.at_ 9).chargeRecord r).xchSee r.dwing 0;
    (u.xchEnt r.dwing 0 1).map (·.state) = x.2 ∧ (∀ e ∈ u.xchEnt r.dwing 0 1, e.state ≠ 1 ∨ bits (fieldN r.bytes 0 8) 48 16 ≠ e.round) := by
  decide +kernel

/-- `site` with that layout table pending and the copy’s block waiting for its raw codes; the reference is at `a` on module `m`. -/
def siteRaw (m a : Nat) : State :=
  (poke (poke (siteHall [(0, { st := 2 })]) (bot + 0xC0000) aLayout) (bot + 0xC0048)
    (leBytes 8 (m * 2 ^ 47 + a))).modTurn 0 fun t => { t with pend := some (bot + 0xC0000, 2), raws := [⟨0, 1, 0, 0, false⟩] }

/-- The entries of that table as decoded: the copy and its reference. -/
def rawCopy : LayEnt := ⟨false, 2, 2, 0, bot + 0x2001000, 256, 0, bot + 0x2101000⟩

theorem meets_RawRequestsIssue : ∀ x ∈ [(0, bot + 0x2000000, true), (0, 0x1000, false), (1, bot + 0x2000000, true), (2, bot + 0x2000000, true)],
    let s := siteRaw x.1 x.2.1
    let r : LayEnt := ⟨false, 1, 2, 0, x.1 * 2 ^ 47 + x.2.1, 256, 0, bot + 0x2100000⟩
    let u := (s.fetchIn 0 (bot + 0xC0000 + 64 + 32) 32).modTurn 0 fun t => { t with rawreq := 1, raws := [⟨0, 1, 0, 0, true⟩] }
    (s.job 0).turn.raws.find? (fun x => !x.out) = some ⟨0, 1, 0, 0, false⟩ ∧ (s.pendEnts 0)[1]? = some rawCopy ∧ s.rawOut 0 < 64 ∧
      (s.wing 0).quiet = false ∧ refOf (s.pendEnts 0) rawCopy = some r ∧ u.namesMe r.gaddr = (x.1 == 0) ∧
      decide (r.gaddr / 2 ^ 47 < u.hallCount) = decide (x.1 < 2) ∧
      (u.rawServe r.wing (r.loc + refOff r rawCopy 0) (rawCopy.blen 0) 1).1.isSome = x.2.2 := by decide +kernel

/-- `site` with a mirror round of one descriptor of two blocks, at the given place of the round. -/
def siteMirror (desc block : Nat) : State :=
  (poke (siteHall [(8, { st := 2 })]) (bot + 0xE0000 + 24) [2]).modJob 0 fun j => { j with
    wr := Tab.set (Tab.set j.wr Reg.wngMir (2 ^ 63 + 2 ^ 48 + bot + 0xE0000)) Reg.wngMirRx (2 ^ 30)
    mir := { run := true, dirty := true, round := 4, desc := desc, block := block, rr := some 4 } }

/-- A record of round 4 with a coding, ENTRY 0, a number of blocks and 4,096 bytes of content. -/
def aMirrorRec (coding entry n : Nat) : RecIn :=
  { someRec with port := 8, addr := bot + 0x800000, nblk := 2
                 bytes := leBytes 4 4 ++ leBytes 12 0 ++ leBytes 4 (coding * 2 ^ 22 + entry) ++ leBytes 4 n ++ leBytes 8 0 ++ List.replicate 4096 1 }

theorem meets_MirrorRounds :
    (∀ b ∈ [0, 1], ((siteMirror 0 b).job 0).mir.run = true ∧ ((siteMirror 0 b).wing 0).quiet = false
      ∧ (siteMirror 0 b).mirFrom 0 ((siteMirror 0 b).job 0).mir.desc = some 0 ∧ ((siteMirror 0 b).mirDesc 0 0).nblk = 2) ∧
    (((siteMirror 1 0).job 0).mir.run = true ∧ (siteMirror 1 0).mirFrom 0 ((siteMirror 1 0).job 0).mir.desc = none) ∧
    (∀ x ∈ [(3, 0), (3, 9), (1, 0)], let r := aMirrorRec x.1 0 x.2;
      let s := siteMirror 0 0;
      let q := ((s.at_ 9).chargeRecord r).recordGone r;
      let m := (s.job 0).mir;
      r.port = 8 ∧ (s.port 8).st = 2 ∧ m.rr = some (fieldN r.bytes 0 4) ∧ m.failed = false ∧ bit (q.wr 0 Reg.wngMirRx) 30 = true ∧
        bits (fieldN r.bytes 16 4) 22 2 = x.1 ∧ bits (fieldN r.bytes 16 4) 0 17 = 0 ∧ (fieldN r.bytes 20 4 = m.landed ↔ x.2 = 0) ∧ r.pzn = false ∧
        q.mappedIn 0 (q.bankNow 0) [1, 2] (r.addr + m.half * r.nblk * 4096) 4096 = true ∧
        q.mappedIn 0 (q.bankNow 0) [1, 2] (r.addr + (1 - m.half) * r.nblk * 4096) 4096 = true ∧
        q.barred 0 (r.addr + (1 - m.half) * r.nblk * 4096) 4096 = false) ∧
    (let r := aMirrorRec 3 1 0;
      bits (fieldN r.bytes 16 4) 22 2 = 3 ∧ bits (fieldN r.bytes 16 4) 0 17 = 1 ∧ bit ((siteMirror 0 0).wr 0 Reg.wngMir) 63 = true ∧
        fieldN r.bytes 0 4 = ((siteMirror 0 0).job 0).mir.round ∧ ((siteMirror 0 0).port 8).st = 2) := by decide +kernel

/-! ## Links of the board -/

theorem meets_CxlPortsAct :
    (∃ s : State, (s.cxlPort 1).st = 1 ∧ s.board.pinsTaken = false) ∧
    (∀ st ∈ [2, 3], let s : State := { ready with cxl := [(1, { st := st })] }; 2 ≤ (s.cxlPort 1).st) ∧
    (let s : State := { ready with cxl := [(1, { st := 2, size := 1 })] };
      (s.cxlPort 1).st = 2 ∧ s.region 0x6000FFFFF00 = .cxl 1 0xFFFFF00 ∧ s.gal.locate 0x6000FFFFF00 = none ∧ s.mem.wf = true
        ∧ 0x6000FFFFF00 / 256 ∉ (s.cxlPort 1).gone ∧ max 50 (bits (s.pf (Reg.cxlCto + 0x100)) 0 16) * 940 ≤ 65535 * 940
        ∧ 0 < max 50 (bits (s.pf (Reg.cxlCto + 0x100)) 0 16) * 940) ∧
    (let s : State := { ready with cxl := [(1, { st := 2, gone := [0x6000FFFFF] })] }; 0x6000FFFFF00 / 256 ∈ (s.cxlPort 1).gone) := by
  refine ⟨⟨{ ready with cxl := [(1, { st := 1 })] }, by decide⟩, by decide +kernel, by decide +kernel, by decide +kernel⟩

theorem meets_SidebandAnswers : (ready.boot.rails = true ∧ ready.board.pinsTaken = false)
    ∧ (State.reset.boot.rails = false ∨ State.reset.board.pinsTaken = true)
    ∧ ([1, 2, 3, 4] : List Byte).length = 4 ∧ ([1, 2] : List Byte).length = 2 := by decide

theorem meets_TestPortInstructions : ready.boot.rails = true ∧ ready.boot.st ≠ 0 ∧ ready.trust.dbgSeen = false ∧ ready.board.pinsUsed = false
    ∧ (∃ s : State, s.trust.dbgSeen = true) ∧ (∃ s : State, s.board.pinsUsed = true) ∧ ((withPort 3 { st := 2 }).port 3).st = 2 :=
  ⟨by decide, by decide, by decide, by decide, ⟨{ ready with trust := { dbgSeen := true } }, rfl⟩, ⟨{ ready with board := { pinsUsed := true } }, rfl⟩, by decide⟩

theorem meets_HbmPlacementInverts : 127 < 128 ∧ 2 ^ 24 - 1 < 2 ^ 24 ∧ 2 ^ 39 - 1 < 2 ^ 39 ∧ (128 * (2 ^ 24 - 1) ≤ 128 * (2 ^ 24 - 1) + 127
    ∧ 128 * (2 ^ 24 - 1) + 127 < 128 * (2 ^ 24 - 1) + 128) := by decide

theorem meets_HallNumbersInvert : (0 < 20 ∧ 0 < 20 ∧ 0 < 16 ∧ 0 < 16 ∧ 102399 < 20 * 20 * 16 * 16) ∧ (19 < 20 ∧ 19 < 20 ∧ 15 < 16 ∧ 15 < 16) := by decide

/-- Table 22.4. -/
theorem test_power_modes : State.reset.powerMode = some .off
    ∧ ({ State.reset with boot := { rails := true, st := 2 } } : State).powerMode = some .held
    ∧ ({ State.reset with boot := { rails := true, st := 3 } } : State).powerMode = some .start ∧ ready.powerMode = some .idle := by decide +kernel

/-- Inputs are ignored until start-up begins (R471). -/
theorem test_tap_in_reset : ({ ready with boot := { rails := true } } : State).tapLive = false ∧ ready.tapLive = true := by decide

/-! ## Worked examples of the spec -/

/-- spec/00_scope.md: bits [12:9] of 0x0000_1A00 hold 13. -/
theorem test_bits : bits 0x1A00 9 4 = 13 := by decide

/-- spec/06_memory.md: HBM offset 0x1234_5678 lies on channel 118 at 0x24_6878; the line’s gallery slice is 30 and its set 0x1A2. -/
theorem test_hbm_placement : hbmChannel 0x12345678 = 118 ∧ hbmChanAddr 0x12345678 = 0x246878 ∧ galSlice (hbmBase + 0x12345678) = 30
    ∧ galSet (hbmBase + 0x12345678) = 0x1A2 := by decide +kernel

/-- The hall of the routing example of spec/14_hall_fabric.md, seen from a module. -/
def exampleHall (me : Nat) : State := { ready with pfe := [(Reg.halCfg, 19 * 2 ^ 15 + 19 * 2 ^ 10 + 15 * 2 ^ 5 + 15), (Reg.halMe, me)] }

/-- spec/14_hall_fabric.md: from module 70,000 to module 13,689 the frame goes + on H0, crosses the dateline at a = 19 onto VC1, keeps VC1 in
dimension a, and then goes − on H7, its first hop a dateline crossing. -/
theorem test_route : coordsOf [20, 20, 16, 16] 70000 = [13, 13, 7, 0] ∧ coordsOf [20, 20, 16, 16] 13689 = [2, 13, 7, 9]
    ∧ (exampleHall 70000).route 13689 none = some (0, 0)
    ∧ (exampleHall (numberOf [20, 20, 16, 16] [19, 13, 7, 0])).route 13689 (some (1, 0)) = some (0, 1)
    ∧ (exampleHall (numberOf [20, 20, 16, 16] [0, 13, 7, 0])).route 13689 (some (1, 1)) = some (0, 1)
    ∧ (exampleHall (numberOf [20, 20, 16, 16] [2, 13, 7, 0])).route 13689 (some (1, 1)) = some (7, 1)
    ∧ (exampleHall (numberOf [20, 20, 16, 16] [2, 13, 7, 15])).route 13689 (some (6, 1)) = some (7, 1) := by decide +kernel

/-- spec/07_streams_dma.md: queues 2 and 6 with weights 2 and 8 are served 6, 6, 2, 6, 6. -/
theorem test_queues :
    let step (x : List (Option Nat) × Tab Int) : List (Option Nat) × Tab Int :=
      let y := serveQueue (fun q => bits 0x88442211 (4 * q) 4) [2, 6] x.2
      (x.1 ++ [y.1], y.2)
    (step (step (step (step (step ([], [])))))).1 = [some 6, some 6, some 2, some 6, some 6] := by decide +kernel

/-- spec/16_newel.md: a doorbell at clk 37,500 of tread 5,000 can act from the boundary into tread 5,002. -/
theorem test_cutoff : ({ ready with time := { ready.time with tread := 5000 } } : State).nextEff 37500 = 5002 := by decide +kernel

/-- spec/20_host_links.md: DMA_CH_CTRL of index 3 of wing 5 names the wing’s fourth channel in ascending order. -/
theorem test_channel_index : ({ ready with wings := [(5, { pwe := [(Reg.wngProt, 0x8000), (Reg.wngDmaset, 0x8000000B), (Reg.wngDmaset + 4, 1)] })] } : State).chanOf
    6 5 3 = some 31 := by decide +kernel

/-- spec/19_service.md: logical core 217 is served by physical core 225, and the spares of its field are 408 to 415. -/
theorem test_core_spares : ready.physOf 217 = 225 ∧ ready.sparesOf 217 = [408, 409, 410, 411, 412, 413, 414, 415] := by decide +kernel

/-- The inputs of the SMX4 example of spec/04_formats.md, as FP32 patterns: 96, −20, 0.3, −0.125, 0.05, 0.02. -/
def exampleBlock : List Fp :=
  [.of32 0x42C00000, .of32 0xC1A00000] ++ List.replicate 6 .zero ++ [.of32 0x3E99999A, .of32 0xBE000000, .of32 0x3D4CCCCD]
    ++ List.replicate 5 .zero ++ [.of32 0x3CA3D70A] ++ List.replicate 15 .zero

/-- spec/04_formats.md: scale 0x83, risers 0x3C, element bytes 0xA7 and 0x92, two elements vanished. -/
theorem test_smx4 : (match fmtInfo 0x12 with
    | some f =>
      let r := encodeBlock f (fun _ => .rne) exampleBlock 32
      decide (r.1 = 0x83 ∧ r.2.1 = 0x3C ∧ packCodes 4 r.2.2.1 = [0xA7, 0, 0, 0, 0x92] ++ List.replicate 11 0 ∧ r.2.2.2.vanished = 2)
    | none => false) = true := by decide +kernel

/-- A scale record of the delayed-scaling example: STEP, SEXP, HEAD, VALID, AMAX_CUR and four values of history. -/
def exampleScale : List Byte :=
  leBytes 4 40 ++ leBytes 4 (255 * 2 ^ 24 + 255 * 2 ^ 16 + 4 * 2 ^ 11 + 4 * 2 ^ 6 + 2 * 4) ++ leBytes 4 4 ++ leBytes 4 0x433E0000 ++ leBytes 48 0
    ++ leBytes 4 0x43340000 ++ leBytes 4 0x43160000 ++ leBytes 4 0x43480000 ++ leBytes 4 0x43520000 ++ leBytes 48 0

/-- spec/04_formats.md: at step 41 H2 becomes 190, HEAD 3, SEXP and SEXP_PREV −1, AMAX_CUR 0; with an AMAX of 300, step 42 gives SEXP 0. -/
theorem test_delayed_scaling :
    let a := sclAdvance exampleScale 41
    let b := sclAdvance (a.take 12 ++ leBytes 4 0x43960000 ++ a.drop 16) 42
    (fieldN a 0 4 = 41 ∧ bits (fieldN a 4 4) 24 8 = 255 ∧ bits (fieldN a 4 4) 16 8 = 255 ∧ bits (fieldN a 4 4) 2 4 = 3 ∧ fieldN a 12 4 = 0
      ∧ fieldN a 72 4 = 0x433E0000)
    ∧ (bits (fieldN b 4 4) 24 8 = 0 ∧ bits (fieldN b 4 4) 16 8 = 255 ∧ bits (fieldN b 4 4) 2 4 = 0 ∧ fieldN b 76 4 = 0x43960000) := by decide +kernel

/-- spec/04_formats.md: 300 at SEXP −1 saturates to 448, and at SEXP 0 it is written as 288. -/
theorem test_e4m3 : (match fmtInfo 4 with
    | some f => decide (encodePlain f (-1) .rne (.of32 0x43960000) = (0x7E, true, false) ∧ encodePlain f 0 .rne (.of32 0x43960000) = (0x79, false, false))
    | none => false) = true := by decide +kernel

/-- spec/05_arithmetic.md: 0x3F80_8001 to BF16 gives 0x3F80 with draw 0x7FFE and 0x3F81 with draw 0x7FFF. -/
theorem test_stochastic : (match fmtInfo 2 with
    | some f => decide ((encodePlain f 0 (.sr 0x7FFE) (.of32 0x3F808001)).1 = 0x3F80 ∧ (encodePlain f 0 (.sr 0x7FFF) (.of32 0x3F808001)).1 = 0x3F81)
    | none => false) = true := by decide +kernel

/-- spec/05_arithmetic.md: the two-term product under PASS 3 is 1.502197265625. -/
theorem test_pass3 : (dotProduct 3 .zero [((.of32 0x3F800000, .of32 0x3A800000), (.of32 0x3FC00000, .of32 0x3A400000)),
    ((.of32 0x30800000, .zero), (.of32 0x3F800000, .zero))]).bits32 = 0x3FC04800 := by decide +kernel

end Sys2Proof.Tests
end

/-!
SUPPORT. The start-up state, the hall-time unit and the registers of the PF, written and in effect, are the parts that the invariant of
LegalKept speaks of. The shared operations of memory, events, units, accounting and the log leave all four alone.
-/
namespace Sys2Proof.Machine

/-- The parts of the state that `State.Legal` speaks of. -/
def State.governed (s : State) : Boot × TimeSt × Tab Nat × Tab Nat := (s.boot, s.time, s.pfw, s.pfe)

theorem governed_iff {s t : State} :
    t.governed = s.governed ↔ t.boot = s.boot ∧ t.time = s.time ∧ t.pfw = s.pfw ∧ t.pfe = s.pfe := by
  simp only [State.governed, Prod.mk.injEq]

/-- A fold whose every step leaves the governed parts alone leaves them alone. -/
theorem governed_foldl {β : Type} (l : List β) (f : State → β → State) (hf : ∀ s x, (f s x).governed = s.governed) (s : State) :
    (l.foldl f s).governed = s.governed := by
  induction l generalizing s with
  | nil => rfl
  | cons x l ih => rw [List.foldl_cons, ih, hf]

/-- The same for a fold that gathers a result beside the state. -/
theorem governed_foldl_snd {α β : Type} (l : List β) (f : α × State → β → α × State)
    (hf : ∀ acc x, (f acc x).2.governed = acc.2.governed) (acc : α × State) : (l.foldl f acc).2.governed = acc.2.governed := by
  induction l generalizing acc with
  | nil => rfl
  | cons x l ih => rw [List.foldl_cons, ih, hf]

/-- A choice between two states that both have the governed parts of a third. -/
theorem governed_ite {c : Prop} [Decidable c] {s t u : State} (h1 : t.governed = s.governed) (h2 : u.governed = s.governed) :
    (if c then t else u).governed = s.governed := by
  split
  · exact h1
  · exact h2

section
variable (s : State)

/-! ## Charges, host memory and events -/

@[simp] theorem alert_governed (b : Nat) : (s.alert b).governed = s.governed := governed_ite rfl rfl

@[simp] theorem charge_governed (w : Option Nat) (f n : Nat) : (s.charge w f n).governed = s.governed := by
  unfold State.charge
  refine governed_ite rfl ?_
  cases w <;> rfl

@[simp] theorem hostWrite_governed (fn a : Nat) (bs : List PByte) : (s.hostWrite fn a bs).governed = s.governed := by
  unfold State.hostWrite
  exact governed_ite (governed_ite rfl (charge_governed _ _ _ _)) rfl

@[simp] theorem writeEvt_governed (fn : Nat) (body : List Byte) (cls : Nat) : (s.writeEvt fn body cls).governed = s.governed := by
  unfold State.writeEvt
  exact governed_ite (governed_ite (hostWrite_governed ..) (hostWrite_governed ..)) rfl

@[simp] theorem countLost_governed (b : LostBy) (n : Nat) : (s.countLost b n).governed = s.governed := by cases b <;> rfl

@[simp] theorem postEvt_governed (fns : List Nat) (body : List Byte) (cls : Nat) (mem : Option (LostBy × Nat)) :
    (s.postEvt fns body cls mem).governed = s.governed := by
  unfold State.postEvt
  refine governed_ite (governed_foldl _ _ (fun s fn => writeEvt_governed s fn body cls) s) (governed_ite rfl ?_)
  cases mem with
  | none => rfl
  | some x => exact countLost_governed _ _ _

@[simp] theorem setHw_governed (key st : Nat) (own : Bool) : (s.setHw key st own).governed = s.governed := by
  unfold State.setHw
  exact governed_ite rfl (postEvt_governed ..)

@[simp] theorem memRecord_governed (kind store src syn key addr : Nat) :
    (s.memRecord kind store src syn key addr).governed = s.governed := by
  unfold State.memRecord
  refine governed_ite rfl ((postEvt_governed ..).trans ?_)
  have charged (s : State) : (if kind = 0 then s.charge none Acf.ceRecs 1
      else if kind = 1 then s.charge none Acf.ueRecs 1 else s).governed = s.governed :=
    governed_ite (charge_governed ..) (governed_ite (charge_governed ..) rfl)
  exact governed_ite ((alert_governed ..).trans (charged _)) (charged _)

/-! ## Memory -/

@[simp] theorem hbmUeLimit_governed (ch : Nat) : (s.hbmUeLimit ch).governed = s.governed := governed_ite (setHw_governed ..) rfl

@[simp] theorem found_governed (src pass y i a : Nat) (loc : Option Nat) : (s.found src pass y i a loc).governed = s.governed := by
  unfold State.found
  refine (memRecord_governed ..).trans ?_
  split
  · rfl
  · exact hbmUeLimit_governed ..
  · rfl

@[simp] theorem readFix_governed (src pass word : Nat) : (s.readFix src pass word).governed = s.governed := by
  unfold State.readFix
  exact governed_ite rfl (found_governed ..)

@[simp] theorem touch_governed (src pass a n : Nat) : (s.touch src pass a n).governed = s.governed :=
  governed_foldl _ _ (fun s w => readFix_governed s src pass w) s

@[simp] theorem mergeRead_governed (src a n : Nat) : (s.mergeRead src a n).governed = s.governed := by
  unfold State.mergeRead
  exact governed_foldl _ _ (fun _ _ => readFix_governed ..) s

@[simp] theorem retiredAccess_governed (src a : Nat) : (s.retiredAccess src a).governed = s.governed := memRecord_governed ..

@[simp] theorem writeLost_governed (a : Nat) : (s.writeLost a).governed = s.governed := by
  unfold State.writeLost; split <;> rfl

@[simp] theorem forgetTimed_governed (a : Nat) : (s.forgetTimed a).governed = s.governed := by
  unfold State.forgetTimed; split <;> rfl

@[simp] theorem chargeMem_governed (r : Req) (a n : Nat) (write : Bool) : (s.chargeMem r a n write).governed = s.governed := by
  unfold State.chargeMem
  dsimp only
  split
  · exact charge_governed ..
  · exact charge_governed ..
  · rfl

@[simp] theorem evict_governed (k : Nat) : (s.evict k).governed = s.governed := by
  unfold State.evict
  split
  · rfl
  · next l _ =>
    have read : (if l.dirty then s.touch 0 0 (l.tag * 256) 256 else s).governed = s.governed :=
      governed_ite (touch_governed ..) rfl
    refine governed_ite read ?_
    split
    · exact read
    · exact (retiredAccess_governed ..).trans read
    · exact (writeLost_governed ..).trans read

theorem victim_governed {s t : State} {mask sl set k : Nat} (h : s.victim mask sl set = some (k, t)) : t.governed = s.governed := by
  unfold State.victim at h
  dsimp only at h
  split at h
  · cases h
  · split at h
    · cases h; rfl
    · cases h

@[simp] theorem galAccess_governed (mask : Nat) (noalloc write whole : Bool) (a : Nat) :
    (s.galAccess mask noalloc write whole a).governed = s.governed := by
  unfold State.galAccess
  dsimp only
  split
  · split <;> rfl
  · refine governed_ite rfl ?_
    split
    · rfl
    · next k t hv =>
      have evicted := (evict_governed t k).trans (victim_governed hv)
      exact governed_ite (u := (t.evict k).touch 0 0 (a / 256 * 256) 256) evicted ((touch_governed ..).trans evicted)

@[simp] theorem readPiece_governed (r : Req) (a n : Nat) : (s.readPiece r a n).2.governed = s.governed := by
  unfold State.readPiece
  split
  · rfl
  · exact touch_governed ..
  · split
    · exact retiredAccess_governed ..
    · exact forgetTimed_governed ..
    · split
      · exact forgetTimed_governed ..
      · exact (touch_governed ..).trans (galAccess_governed ..)

@[simp] theorem read_governed (r : Req) (a n : Nat) : (s.read r a n).2.governed = s.governed := by
  unfold State.read
  refine governed_foldl_snd _ _ (fun acc p => ?_) ([], s)
  exact (readPiece_governed ..).trans (chargeMem_governed ..)

@[simp] theorem writePiece_governed (r : Req) (a : Nat) (bs : List PByte) : (s.writePiece r a bs).governed = s.governed := by
  unfold State.writePiece
  dsimp only
  split
  · rfl
  · exact mergeRead_governed ..
  · split
    · exact retiredAccess_governed ..
    · exact writeLost_governed ..
    · exact governed_ite (forgetTimed_governed s a) ((mergeRead_governed ..).trans (galAccess_governed ..))

@[simp] theorem write_governed (r : Req) (a : Nat) (bs : List PByte) : (s.write r a bs).governed = s.governed :=
  governed_foldl _ _ (fun _ _ => (writePiece_governed ..).trans (chargeMem_governed ..)) s

/-! ## Accounting -/

@[simp] theorem accWrite_governed (r : AccRec) : (s.accWrite r).governed = s.governed := hostWrite_governed ..

@[simp] theorem accDrain_governed (n : Nat) (s : State) : (State.accDrain n s).governed = s.governed := by
  induction n generalizing s with
  | zero => rfl
  | succ n ih =>
    unfold State.accDrain
    split
    · rfl
    · exact governed_ite ((ih _).trans (accWrite_governed ..)) rfl

@[simp] theorem opAccCons_governed (v : Nat) : (s.opAccCons v).governed = s.governed := accDrain_governed ..

/-! ## The log and the self-test -/

theorem debugFirst_governed (log : State → State) (hl : ∀ s, (log s).governed = s.governed) :
    (s.debugFirst log).governed = s.governed := governed_ite rfl (hl _)

@[simp] theorem logStart_governed : s.logStart.governed = s.governed := governed_ite rfl rfl

@[simp] theorem setBist_governed (b : Nat) : (s.setBist b).governed = s.governed := governed_ite (alert_governed ..) rfl

@[simp] theorem excludeSensors_governed (bad : Nat) : (s.excludeSensors bad).governed = s.governed := governed_ite (setBist_governed ..) rfl

@[simp] theorem excludeMonitors_governed (bad : Nat) : (s.excludeMonitors bad).governed = s.governed := governed_ite (setBist_governed ..) rfl

@[simp] theorem judgePll_governed (dev16 : Nat) : (s.judgePll dev16).governed = s.governed := governed_ite (setBist_governed ..) rfl

@[simp] theorem setBoot_governed (key st : Nat) : (s.setBoot key st).governed = s.governed := setHw_governed ..

@[simp] theorem addRepair_governed (kind loc spare : Nat) : (s.addRepair kind loc spare).governed = s.governed := governed_ite rfl rfl

@[simp] theorem applyRepair_governed (cold : Bool) (r : Repair) : (s.applyRepair cold r).governed = s.governed := by
  unfold State.applyRepair
  split
  · rfl
  · rfl
  · rfl
  · exact governed_ite rfl rfl

end

end Sys2Proof.Machine

/-!
SUPPORT. The invariant of LegalKept in four parts, one for each part of the state that it speaks of, and what a tread boundary does to each.
-/
namespace Sys2Proof.Machine

theorem mem_upFrom {x lo n : Nat} : x ∈ upFrom lo n ↔ lo ≤ x ∧ x < lo + n := by
  induction n generalizing lo with
  | zero => simp only [upFrom, List.not_mem_nil, false_iff]; omega
  | succ n ih => simp only [upFrom, List.mem_cons, ih]; omega

/-! ## The four parts of the invariant -/

/-- The hall-time unit in range: tread and clk (R32), a state of Table 2.4, a hall port or none as parent, hops as TRD_STATUS shows them. -/
def TimeSt.inRange (t : TimeSt) : Prop :=
  t.tread < treadMod ∧ t.phase < treadClk ∧ t.lock ≤ 3 ∧ (t.parent < 8 ∨ t.parent = 15) ∧ t.hops ≤ 63

/-- Start-up in range: a state of Table 21.1, a cause of SVC_BOOT, and an image of two slots with two copies. -/
def Boot.inRange (b : Boot) : Prop := b.st ≤ 6 ∧ b.cause ≤ 2 ∧ b.active ≤ 1 ∧ b.slot ≤ 1 ∧ b.copy ≤ 1

/-- Every register that a table lists is one of the PF, with the bits that no write sets as at reset. -/
def fitsTab (t : Tab Nat) : Prop := ∀ e ∈ t, fitsPf e

theorem legal_iff (s : State) : s.Legal ↔ s.boot.inRange ∧ s.time.inRange ∧ fitsTab s.pfw ∧ fitsTab s.pfe := by
  constructor
  · exact fun h => ⟨⟨h.start, h.cause, h.image⟩, ⟨h.tread, h.clk, h.lock, h.parent, h.hops⟩, h.written, h.effect⟩
  · rintro ⟨⟨hst, hcause, himage⟩, ⟨htread, hclk, hlock, hparent, hhops⟩, hw, he⟩
    exact ⟨htread, hclk, hlock, hparent, hhops, hst, hcause, himage, hw, he⟩

section
variable {s t : State}

theorem State.Legal.boot_inRange (h : s.Legal) : s.boot.inRange := ((legal_iff s).1 h).1
theorem State.Legal.time_inRange (h : s.Legal) : s.time.inRange := ((legal_iff s).1 h).2.1

/-- A state with the governed parts of a legal one is legal. -/
theorem State.Legal.of_governed (h : s.Legal) (e : t.governed = s.governed) : t.Legal := by
  obtain ⟨hb, ht, hw, he⟩ := governed_iff.1 e
  rw [legal_iff] at h ⊢
  rwa [hb, ht, hw, he]

/-- A legal state with another start-up state, in range. -/
theorem State.Legal.with_boot (h : s.Legal) {b : Boot} (hb : b.inRange) : State.Legal { s with boot := b } :=
  (legal_iff _).2 ⟨hb, ((legal_iff s).1 h).2⟩

/-- A legal state with another hall-time unit, in range. -/
theorem State.Legal.with_time (h : s.Legal) {x : TimeSt} (hx : x.inRange) : (s.withTime x).Legal :=
  have ⟨hb, _, hpf⟩ := (legal_iff s).1 h
  (legal_iff _).2 ⟨hb, hx, hpf⟩

end

/-! ## The hall-time unit at a boundary (R35, R41, R42) -/

theorem treadAdd_lt (t n : Nat) : treadAdd t n < treadMod := Nat.mod_lt _ (by decide)

section
variable {t u : TimeSt}

theorem TimeSt.inRange.congr (h : t.inRange) (e : u.tread = t.tread ∧ u.phase = t.phase ∧ u.lock = t.lock ∧ u.parent = t.parent ∧ u.hops = t.hops) :
    u.inRange := by
  obtain ⟨htread, hphase, hlock, hparent, hhops⟩ := e
  unfold TimeSt.inRange at h ⊢
  rwa [htread, hphase, hlock, hparent, hhops]

theorem TimeSt.inRange.countAll (h : t.inRange) : t.countAll.inRange := by
  obtain ⟨htread, hphase, hlock, hparent, hhops, _, _⟩ := countAll_keeps t
  exact h.congr ⟨htread, hphase, hlock, hparent, hhops⟩

/-- The choice of R37 is one of the ports it chooses among. -/
theorem choose_mem {l : List Nat} {p : Nat} (h : t.choose l = some p) : p ∈ l := by
  induction l generalizing p with
  | nil => cases h
  | cons q qs ih =>
    unfold TimeSt.choose at h
    split at h
    · cases h; exact .head _
    · next r hr =>
      dsimp only at h
      split at h
      · cases h; exact .head _
      · cases h; exact .tail _ (ih hr)

/-- A choice among sources is a hall port. -/
theorem lt_of_choose {l : List Nat} {p : Nat} (hl : l ⊆ t.sources) (h : t.choose l = some p) : p < 8 :=
  (mem_upFrom.1 (List.mem_filter.1 (hl (choose_mem h))).1).2

/-- The parent that a move of Table 2.4 takes. -/
def HtMove.newParent : HtMove → Option Nat
  | .lock p | .acquire p _ _ | .reparent p => some p
  | .stay | .rootLock | .toHoldover | .toFree _ => none

/-- A move of Table 2.4 takes a hall port as parent: a source of R37. -/
theorem eval_newParent_lt {en rootBit : Bool} {num p : Nat} (h : (t.eval en rootBit num).newParent = some p) : p < 8 := by
  unfold TimeSt.eval at h
  dsimp only at h
  repeat' split at h
  all_goals cases h
  all_goals
    refine lt_of_choose ?_ ‹t.choose _ = some _›
    simp

theorem TimeSt.inRange.moved (h : t.inRange) (num : Nat) {m : HtMove} (hm : ∀ p, m.newParent = some p → p < 8) : (t.moved num m).inRange := by
  obtain ⟨htread, hphase, hlock, hparent, hhops⟩ := h
  have hop (x : Nat) : min 63 x ≤ 63 := Nat.min_le_left ..
  cases m with
  | stay => exact ⟨htread, hphase, hlock, hparent, hhops⟩
  | lock p => exact ⟨htread, hphase, (by decide : 2 ≤ 3), .inl (hm p rfl), hop _⟩
  | rootLock => exact ⟨htread, hphase, (by decide : 2 ≤ 3), .inr rfl, (by decide : 0 ≤ 63)⟩
  | toHoldover => exact ⟨htread, hphase, (by decide : 3 ≤ 3), .inr rfl, hhops⟩
  | acquire p _ _ => exact ⟨htread, hphase, (by decide : 1 ≤ 3), .inl (hm p rfl), hop _⟩
  | toFree _ => exact ⟨htread, hphase, (by decide : 0 ≤ 3), .inr rfl, (by decide : 63 ≤ 63)⟩
  | reparent p => exact ⟨htread, hphase, hlock, .inl (hm p rfl), hop _⟩

theorem TimeSt.inRange.shown (h : t.inRange) (fv : Nat) : (t.shown fv).inRange := by
  obtain ⟨htread, hphase, hlock, hparent, hhops⟩ := h
  refine ⟨htread, hphase, hlock, hparent, ?_⟩
  show (if _ then min 63 _ else t.hops) ≤ 63
  split
  · exact Nat.min_le_left ..
  · exact hhops

end

section
variable {s : State}

/-- The lock state of a boundary leaves the hall-time unit in range. -/
theorem htBoundary_inRange (h : s.time.inRange) : s.htBoundary.time.inRange := by
  obtain ⟨fv, sent, ht⟩ := htBoundary_time s
  rw [ht]
  exact ((h.countAll.moved _ fun _ => eval_newParent_lt).shown fv).congr ⟨rfl, rfl, rfl, rfl, rfl⟩

theorem stepTarget_lt {n d : Nat} {back : Bool} (h : s.stepTarget = some (n, d, back)) : n < treadMod := by
  unfold State.stepTarget at h
  dsimp only at h
  split at h
  · split at h
    · cases h
    · cases h
      exact (Int.toNat_lt (Int.emod_nonneg _ (by decide))).2 (Int.emod_lt_of_pos _ (by decide))
  · cases h

/-- The tread that an advance begins: the next number, or that of the step of R42. -/
theorem advanceTread_tread (s : State) : s.advanceTread.time.tread = treadAdd s.time.tread 1
    ∨ ∃ d back, s.stepTarget = some (s.advanceTread.time.tread, d, back) := by
  unfold State.advanceTread
  dsimp only
  cases s.stepTarget with
  | none => exact .inl rfl
  | some x =>
    obtain ⟨n, d, back⟩ := x
    dsimp only
    split
    · exact .inl rfl
    · exact .inr ⟨d, back, rfl⟩

theorem advanceTread_inRange (h : s.time.inRange) : s.advanceTread.time.inRange := by
  obtain ⟨_, _, hlock, hparent, hhops⟩ := h
  refine ⟨?_, Nat.zero_lt_succ _, hlock, hparent, hhops⟩
  rcases advanceTread_tread s with e | ⟨d, back, e⟩
  · rw [e]; exact treadAdd_lt ..
  · exact stepTarget_lt e

theorem gapEnd_inRange (h : s.time.inRange) : s.gapEnd.time.inRange := by
  unfold State.gapEnd
  split
  · exact h
  · exact advanceTread_inRange h

end

/-! ## The registers of the PF as they land (R15, R335) -/

section
variable {s : State}

theorem landedPf_of_down (h : ∀ p < 8, (s.port p).st = 0) : s.landedPf = s.pfw := by
  unfold State.landedPf
  refine if_pos (List.all_eq_true.2 fun p hp => decide_eq_true (h p ?_))
  exact (mem_upFrom.1 hp).2

theorem landedPf_of_up (h : ∃ p, p < 8 ∧ (s.port p).st ≠ 0) :
    s.landedPf = match Tab.find s.pfe Reg.halCfg with
      | some v => Tab.set s.pfw Reg.halCfg v
      | none => Tab.erase s.pfw Reg.halCfg := by
  obtain ⟨p, hp, hst⟩ := h
  unfold State.landedPf
  refine if_neg fun hall => hst (of_decide_eq_true (List.all_eq_true.1 hall p (mem_upFrom.2 ⟨Nat.zero_le _, ?_⟩)))
  omega

/-- What lands was written, or is in effect. -/
theorem mem_landedPf {e : Nat × Nat} (h : e ∈ s.landedPf) : e ∈ s.pfw ∨ e ∈ s.pfe := by
  unfold State.landedPf at h
  split at h
  · exact .inl h
  · split at h
    · next v hv =>
      rcases mem_set h with rfl | h
      · exact .inr (mem_tabFind hv)
      · exact .inl h
    · exact .inl (mem_erase h)

/-- The written registers of the PF are as in `s`; in effect are those from before or, in READY, the written ones as they land. -/
def State.pfLands (s t : State) : Prop := t.pfw = s.pfw ∧ (t.pfe = s.pfe ∨ s.boot.st = 5 ∧ t.pfe = s.landedPf)

theorem landProtection_pfLands (s : State) (pre : State → Nat → State) : s.pfLands (s.landProtection pre) :=
  iteInduction (motive := s.pfLands) (fun _ => ⟨rfl, .inl rfl⟩) fun hst =>
    iteInduction (motive := s.pfLands) (fun _ => ⟨rfl, .inl rfl⟩) fun _ => ⟨rfl, .inr ⟨not_not.1 hst, rfl⟩⟩

/-- Action 3 is a device reset, or changes of the governed parts only the resets by FLR that wait. -/
theorem resetAction_cases (s : State) (pre : State → Nat → State) : s.resetAction pre = s.deviceReset pre
    ∨ ∃ flr, (s.resetAction pre).governed = ({ s.boot with flr := flr }, s.time, s.pfw, s.pfe) := by
  unfold State.resetAction
  split
  · exact .inr ⟨s.boot.flr, rfl⟩
  · split
    · exact .inl rfl
    · exact .inr ⟨_, rfl⟩

/-- A device reset begins hall time and the registers of the PF anew, in the same tread (R467). -/
theorem deviceReset_legal (h : s.Legal) (pre : State → Nat → State) : (s.deviceReset pre).Legal := by
  obtain ⟨_, _, himage⟩ := h.boot_inRange
  obtain ⟨htread, hclk, _⟩ := h.time_inRange
  exact (legal_iff _).2 ⟨⟨(by decide : 6 ≤ 6), (by decide : 2 ≤ 2), himage⟩, ⟨htread, hclk, (by decide : 0 ≤ 3), .inr rfl, (by decide : 63 ≤ 63)⟩,
    fun _ he => absurd he List.not_mem_nil, fun _ he => absurd he List.not_mem_nil⟩

theorem resetAction_legal (h : s.Legal) (pre : State → Nat → State) : (s.resetAction pre).Legal := by
  rcases resetAction_cases s pre with e | ⟨flr, e⟩
  · rw [e]; exact deviceReset_legal h pre
  · exact State.Legal.of_governed (s := { s with boot := { s.boot with flr := flr } }) (h.with_boot h.boot_inRange) e

end

/-! ## The whole boundary -/

section
variable {s : State}

theorem boundaryFirst_legal (h : s.Legal) (e : BoundaryEnv) : (s.boundaryFirst e).Legal := by
  refine (legal_iff _).2 ?_
  rw [boundaryFirst_boot, boundaryFirst_time, boundaryFirst_pfw, boundaryFirst_pfe]
  exact ⟨h.boot_inRange, gapEnd_inRange h.time_inRange, h.written, h.effect⟩

theorem action2_pfLands (s : State) (t : Nat) : s.pfLands (s.action2 t) := by
  unfold State.pfLands
  rw [action2_pfw, action2_pfe, State.action2a, withPf_pfw, withPf_pfe]
  exact landProtection_pfLands s _

theorem action2_legal (h : s.Legal) (t : Nat) : (s.action2 t).Legal := by
  obtain ⟨hw, he⟩ := action2_pfLands s t
  refine (legal_iff _).2 ⟨?_, ?_, ?_, ?_⟩
  · rw [action2_boot]; exact h.boot_inRange
  · rw [action2_time]; exact htBoundary_inRange (by rw [action2a_time]; exact h.time_inRange)
  · rw [hw]; exact h.written
  · rcases he with he | ⟨_, he⟩
    · rw [he]; exact h.effect
    · rw [he]; exact fun x hx => (mem_landedPf hx).elim (h.written x) (h.effect x)

theorem boundaryLast_governed (s : State) (t : Nat) (e : BoundaryEnv) : (s.boundaryLast t e).governed = s.governed :=
  governed_iff.2 ⟨boundaryLast_boot .., boundaryLast_time .., boundaryLast_pfw .., boundaryLast_pfe ..⟩

theorem cross_legal (h : s.Legal) (e : BoundaryEnv) : (s.cross e).Legal := by
  unfold State.cross
  split
  · exact h
  · exact (resetAction_legal (action2_legal (boundaryFirst_legal h e) _) _).of_governed (boundaryLast_governed ..)

theorem enterGap_legal (h : s.Legal) : s.enterGap.Legal :=
  (legal_iff _).2 ⟨h.boot_inRange, (advanceTread_inRange h.time_inRange).congr ⟨rfl, rfl, rfl, rfl, rfl⟩, h.written, h.effect⟩

theorem opBoundary_legal (h : s.Legal) (e : BoundaryEnv) : (s.opBoundary e).Legal := by
  unfold State.opBoundary
  split
  · exact h.with_time (h.time_inRange.congr ⟨rfl, rfl, rfl, rfl, rfl⟩)
  · split
    · exact enterGap_legal h
    · exact cross_legal h e

theorem boundaryRow_legal (h : s.Legal) (e : BoundaryEnv) (due : Bool) : (s.boundaryRow e due).Legal := by
  unfold State.boundaryRow
  split
  · exact h
  · exact (cross_legal h e).with_time ((cross_legal h e).time_inRange.congr ⟨rfl, rfl, rfl, rfl, rfl⟩)

/-- What a change to the registers of the PF at a boundary that is no device reset may be (R15, R18). -/
def State.pfHeld (s : State) (e : BoundaryEnv) (t : State) : Prop :=
  t.boot.st ≠ 6 → t.pfw = s.pfw ∧ (t.pfe = s.pfe ∨ s.boot.st = 5 ∧ t.pfe = (s.boundaryFirst e).landedPf)

theorem pfHeld_of_same {e : BoundaryEnv} {t : State} (hw : t.pfw = s.pfw) (he : t.pfe = s.pfe) : s.pfHeld e t := fun _ => ⟨hw, .inl he⟩

/-- A boundary holds the registers of the PF as written, and those in effect until the landing of action 2. -/
theorem cross_pfHeld (s : State) (e : BoundaryEnv) : s.pfHeld e (s.cross e) := by
  unfold State.cross
  split
  · exact pfHeld_of_same rfl rfl
  · intro hst
    rw [boundaryLast_boot] at hst
    rw [boundaryLast_pfw, boundaryLast_pfe]
    unfold State.boundary3 at hst ⊢
    rcases resetAction_cases ((s.boundaryFirst e).action2 s.ending) State.resetPre with hr | ⟨flr, hr⟩
    · rw [hr] at hst
      exact absurd rfl hst
    · simp only [State.governed, Prod.mk.injEq] at hr
      obtain ⟨_, _, hw, he⟩ := hr
      rw [hw, he]
      simpa only [State.pfLands, boundaryFirst_pfw, boundaryFirst_pfe, boundaryFirst_boot] using action2_pfLands (s.boundaryFirst e) s.ending

theorem opBoundary_pfHeld (s : State) (e : BoundaryEnv) : s.pfHeld e (s.opBoundary e) := by
  unfold State.opBoundary
  split
  · exact pfHeld_of_same rfl rfl
  · split
    · exact pfHeld_of_same rfl rfl
    · exact cross_pfHeld s e

theorem boundaryRow_pfHeld (s : State) (e : BoundaryEnv) (due : Bool) : s.pfHeld e (s.boundaryRow e due) := by
  unfold State.boundaryRow
  split
  · exact pfHeld_of_same rfl rfl
  · exact cross_pfHeld s e

end

end Sys2Proof.Machine

/-!
SUPPORT. Writes of the PF's registers: each changes one register of the map, within the bits that a write sets.
-/
namespace Sys2Proof.Machine

/-! ## The new value of a register -/

/-- A write of some bytes of a register leaves the bits outside the mask. -/
theorem mergeReg_or_mask (old mask o n v : Nat) : mergeReg old mask o n v ||| mask = old ||| mask := by
  refine Nat.eq_of_testBit_eq fun i => ?_
  simp only [mergeReg, Nat.testBit_or, Nat.testBit_xor, Nat.testBit_and]
  cases Nat.testBit old i <;> cases Nat.testBit mask i <;> simp

/-- A write from byte 0 of a register sets the bits of the mask in the bytes written, and keeps the others. -/
theorem mergeReg_zero (old mask n v m : Nat) (hm : m = mask &&& (2 ^ (8 * n) - 1)) :
    mergeReg old mask 0 n v &&& m = v &&& m ∧ mergeReg old mask 0 n v ||| m = old ||| m := by
  have e : mergeReg old mask 0 n v = (old ^^^ (old &&& m)) ||| (v &&& m) := by
    simp only [mergeReg, Nat.mul_zero, Nat.pow_zero, Nat.mul_one, hm]
  rw [e]
  constructor <;> refine Nat.eq_of_testBit_eq fun i => ?_
  · simp only [Nat.testBit_or, Nat.testBit_xor, Nat.testBit_and]
    cases Nat.testBit old i <;> cases Nat.testBit m i <;> simp
  · simp only [Nat.testBit_or, Nat.testBit_xor, Nat.testBit_and]
    cases Nat.testBit old i <;> cases Nat.testBit m i <;> simp

/-! ## The register map -/

/-- The row that an offset leads to is one of the map, at an index that it has. -/
theorem regRow_find_mem {rows : List RegRow} {off i : Nat} {r : RegRow} (h : RegRow.find rows off = some (r, i)) : r ∈ rows ∧ i < r.n := by
  induction rows with
  | nil => cases h
  | cons q qs ih =>
    unfold RegRow.find at h
    generalize (if q.stride = 0 then q.bytes else q.stride) = st at h
    dsimp only at h
    split at h
    · next hc =>
      cases h
      obtain ⟨hlo, hhi, _⟩ := hc
      refine ⟨.head _, Nat.div_lt_of_lt_mul ?_⟩
      omega
    · obtain ⟨hr, hi⟩ := ih h
      exact ⟨.tail _ hr, hi⟩

/-- The offset of a register of the PF leads to that register: no other row of the map holds it. -/
theorem pfRegRows_find : ∀ r ∈ pfRegRows, ∀ i < r.n, RegRow.find pfRegRows (r.key + r.stride * i) = some (r, i) := by decide +kernel

/-- A register of the PF fits when its bits outside the write mask are as at reset. -/
theorem fitsPf_row {r : RegRow} (hr : r ∈ pfRegRows) {i : Nat} (hi : i < r.n) (v : Nat) :
    fitsPf (r.key + r.stride * i, v) ↔ v ||| r.mask = r.reset ||| r.mask := by
  refine ⟨?_, fun h => ⟨r, hr, i, hi, rfl, h⟩⟩
  rintro ⟨q, hq, j, hj, hoff, hv⟩
  have same := pfRegRows_find r hr i hi
  rw [show r.key + r.stride * i = q.key + q.stride * j from hoff, pfRegRows_find q hq j hj] at same
  cases same
  exact hv

/-- What a register of the PF was last written fits, or is its reset value. -/
theorem pfw_or_mask {s : State} (h : fitsTab s.pfw) {r : RegRow} (hr : r ∈ pfRegRows) {i : Nat} (hi : i < r.n) :
    s.pfw_ (r.key + r.stride * i) ||| r.mask = r.reset ||| r.mask := by
  unfold State.pfw_
  cases hf : Tab.find s.pfw (r.key + r.stride * i) with
  | some v => exact (fitsPf_row hr hi v).1 (h _ (mem_tabFind hf))
  | none => simp only [Option.getD_none, RegRow.resetOf, pfRegRows_find r hr i hi]

/-! ## Writes -/

/-- A write of a register of the protection set-up sets it within its mask. -/
theorem pfWrite_prot {s : State} {r : RegRow} (hc : r.cls = .prot) (i o n v : Nat) : (s.pfWrite r i o n v).pfw
    = Tab.set s.pfw (r.key + r.stride * i) (mergeReg (s.pfw_ (r.key + r.stride * i)) r.mask o n v) := by
  simp only [State.pfWrite, hc]

/-- A write of any other register of the PF leaves the written registers of the protection set-up. -/
theorem pfWrite_other {s : State} {r : RegRow} (hc : r.cls ≠ .prot) (i o n v : Nat) : (s.pfWrite r i o n v).pfw = s.pfw := by
  have same {c : Prop} [Decidable c] {t u : State} (h1 : t.pfw = s.pfw) (h2 : u.pfw = s.pfw) : (if c then t else u).pfw = s.pfw :=
    iteInduction (motive := fun x : State => x.pfw = s.pfw) (fun _ => h1) fun _ => h2
  unfold State.pfWrite
  dsimp only
  split
  · contradiction
  · exact same rfl rfl
  · rfl
  · exact same rfl (same (same rfl rfl) rfl)

theorem pfWrite_fits {s : State} (h : fitsTab s.pfw) {r : RegRow} (hr : r ∈ pfRegRows) {i : Nat} (hi : i < r.n) (o n v : Nat) :
    fitsTab (s.pfWrite r i o n v).pfw := by
  by_cases hc : r.cls = .prot
  · rw [pfWrite_prot hc]
    intro x hx
    rcases mem_set hx with rfl | hx
    · rw [fitsPf_row hr hi, mergeReg_or_mask]
      exact pfw_or_mask h hr hi
    · exact h x hx
  · rw [pfWrite_other hc]; exact h

/-- A write outside the PF's own space leaves its registers; one inside it keeps them within their bits. -/
theorem write1_fits {s : State} (h : fitsTab s.pfw) (fn off n v : Nat) : fitsTab (s.write1 fn off n v).pfw := by
  unfold State.write1
  split
  · split
    · next hf =>
      obtain ⟨hr, hi⟩ := regRow_find_mem hf
      exact pfWrite_fits h hr hi _ _ _
    · exact h
  · exact h

/-- A choice between two states whose PF registers fit. -/
theorem fits_ite {c : Prop} [Decidable c] {t u : State} (h1 : fitsTab t.pfw) (h2 : fitsTab u.pfw) : fitsTab (if c then t else u).pfw :=
  iteInduction (motive := fun x : State => fitsTab x.pfw) (fun _ => h1) fun _ => h2

theorem writeReg_fits {s : State} (h : fitsTab s.pfw) (fn off : Nat) (wide : Bool) (v : Nat) : fitsTab (s.writeReg fn off wide v).pfw :=
  fits_ite (write1_fits h _ _ _ _) (fits_ite (write1_fits h _ _ _ _) (write1_fits (write1_fits h _ _ _ _) _ _ _ _))

theorem opRegWrite_fits {s : State} (h : fitsTab s.pfw) (fn off : Nat) (wide : Bool) (v : Nat) : fitsTab (s.opRegWrite fn off wide v).pfw :=
  fits_ite h (fits_ite h (writeReg_fits h _ _ _ _))

theorem opAccCons_fits {s : State} (h : fitsTab s.pfw) (v : Nat) : fitsTab (s.opAccCons v).pfw := by
  obtain ⟨_, _, hw, _⟩ := governed_iff.1 (opAccCons_governed s v)
  rw [hw]; exact h

theorem opDebug_fits {s : State} (h : fitsTab s.pfw) (dr : Nat) : fitsTab (s.opDebug dr).pfw := by
  have kept {t : State} (e : t.governed = s.governed) : fitsTab t.pfw := by
    obtain ⟨_, _, hw, _⟩ := governed_iff.1 e
    rw [hw]; exact h
  have used : (s.debugFirst fun s => s.logEntry 4 none 0 []).governed = s.governed := debugFirst_governed s _ fun _ => rfl
  unfold State.opDebug
  split
  · exact h
  · generalize (s.debugFirst fun s => s.logEntry 4 none 0 []) = t at used
    dsimp only
    split
    · split
      · exact kept used
      · split
        · split
          · exact kept used
          · exact kept ((read_governed ..).trans used)
        · exact kept used
    · split
      · refine writeReg_fits ?_ _ _ _ _; exact kept used
      · split
        · exact kept ((write_governed ..).trans used)
        · exact kept used
    · refine writeReg_fits ?_ _ _ _ _; exact kept used
    · exact kept used

end Sys2Proof.Machine

/-!
SUPPORT. The invariant of LegalKept through the confinement of each family of commands, through resets, start-up and restarts of the newel.
-/
namespace Sys2Proof.Machine

theorem clk_mod (n : Nat) : n % treadClk < treadClk := Nat.mod_lt _ (by decide)

section
variable {s : State}

/-! ## Confined families

A family that leaves the governed parts but for the clk of the tread keeps a legal state legal, whatever it computes. -/

section
variable (h : s.Legal) (r : State)
include h

theorem State.Legal.keepHost : (s.keepHost r).Legal := { h with clk := clk_mod _ }
theorem State.Legal.keepTread : (s.keepTread r).Legal := { h with clk := clk_mod _ }
theorem State.Legal.keepMarker : (s.keepMarker r).Legal := { h with clk := clk_mod _ }
theorem State.Legal.keepMailbox : (s.keepMailbox r).Legal := { h with clk := clk_mod _ }
theorem State.Legal.keepCommand : (s.keepCommand r).Legal := { h with clk := clk_mod _ }
theorem State.Legal.keepLoad : (s.keepLoad r).Legal := { h with clk := clk_mod _ }
theorem State.Legal.keepService : (s.keepService r).Legal := { h with clk := clk_mod _ }
theorem State.Legal.keepTrust : (s.keepTrust r).Legal := { h with clk := clk_mod _ }
theorem State.Legal.keepDmaReg : (s.keepDmaReg r).Legal := { h with }
theorem State.Legal.keepDma : (s.keepDma r).Legal := { h with clk := clk_mod _ }
theorem State.Legal.keepRegRow : (s.keepRegRow r).Legal := { h with clk := clk_mod _ }
theorem State.Legal.keepFunc : (s.keepFunc r).Legal := { h with }
theorem State.Legal.keepFuncSend : (s.keepFuncSend r).Legal := { h with }
theorem State.Legal.keepStream : (s.keepStream r).Legal := { h with clk := clk_mod _ }
theorem State.Legal.keepRepair : (s.keepRepair r).Legal := { h with }
theorem State.Legal.keepMonitor : (s.keepMonitor r).Legal := { h with clk := clk_mod _ }
theorem State.Legal.keepModelLoad : (s.keepModelLoad r).Legal := { h with clk := clk_mod _ }
theorem State.Legal.keepPort : (s.keepPort r).Legal := { h with clk := clk_mod _ }
theorem State.Legal.keepFrame : (s.keepFrame r).Legal := { h with clk := clk_mod _ }
theorem State.Legal.keepCxl : (s.keepCxl r).Legal := { h with }
theorem State.Legal.keepSideband : (s.keepSideband r).Legal := { h with }
theorem State.Legal.keepTapExit : (s.keepTapExit r).Legal := { h with clk := clk_mod _ }
theorem State.Legal.keepTapPins : (s.keepTapPins r).Legal := { h with }

end

/-! The other families pass on a part of what they compute. -/

theorem State.Legal.keepReset {r : State} (hr : r.Legal) : (s.keepReset r).Legal := hr.of_governed rfl
theorem State.Legal.keepBoundary {r : State} (hr : r.Legal) : (s.keepBoundary r).Legal := hr.of_governed rfl
theorem State.Legal.keepRegWrite {r : State} (h : s.Legal) (hr : fitsTab r.pfw) : (s.keepRegWrite r).Legal := { h with written := hr }
theorem State.Legal.keepDebug {r : State} (h : s.Legal) (hr : fitsTab r.pfw) : (s.keepDebug r).Legal := { h with written := hr }

theorem State.Legal.keepNewel {r : State} (h : s.Legal) (hr : r.boot.inRange) : (s.keepNewel r).Legal :=
  have ⟨hst, hcause, himage⟩ := hr
  { h with clk := clk_mod _, start := hst, cause := hcause, image := himage }

/-! ## Resets (Table 21.2) -/

/-- A state whose hall time and PF registers begin anew is legal when its start-up state is in range. -/
theorem legal_anew (hb : s.boot.inRange) (ht : s.time = {}) (hw : s.pfw = []) (he : s.pfe = []) : s.Legal := by
  refine (legal_iff s).2 ⟨hb, ?_, ?_, ?_⟩
  · rw [ht]; exact ⟨by decide, by decide, by decide, .inr rfl, by decide⟩
  · rw [hw]; exact fun _ hx => absurd hx List.not_mem_nil
  · rw [he]; exact fun _ hx => absurd hx List.not_mem_nil

theorem Boot.inRange.keep {b : Boot} (h : b.inRange) {cause : Nat} (hc : cause ≤ 2) : (b.keep cause).inRange :=
  have ⟨_, _, hactive, _, _⟩ := h
  ⟨Nat.zero_le _, hc, hactive, Nat.zero_le _, Nat.zero_le _⟩

theorem coldReset_legal (h : s.Legal) : s.coldReset.Legal := legal_anew (h.boot_inRange.keep (Nat.zero_le _)) rfl rfl rfl

theorem railsOff_legal (h : s.Legal) : s.railsOff.Legal := (coldReset_legal h).with_boot (coldReset_legal h).boot_inRange

theorem warmReset_legal (h : s.Legal) : s.warmReset.Legal := by
  refine legal_anew (Boot.inRange.keep (b := s.boot) h.boot_inRange ?_) rfl rfl rfl
  split
  · exact h.cause
  · exact (by decide : 1 ≤ 2)

/-- A choice between two legal states. -/
theorem legal_ite {c : Prop} [Decidable c] {t u : State} (h1 : t.Legal) (h2 : u.Legal) : (if c then t else u).Legal :=
  iteInduction (motive := State.Legal) (fun _ => h1) fun _ => h2

/-- A legal state with another board. -/
theorem State.Legal.with_board (h : s.Legal) (b : Board) : State.Legal { s with board := b } := h.of_governed rfl

theorem opPowerOn_legal (h : s.Legal) (sbAddr : Nat) (i3c : Bool) : (s.opPowerOn sbAddr i3c).Legal :=
  legal_ite h (legal_anew (coldReset_legal h).boot_inRange rfl rfl rfl)

theorem opResetInput_legal (h : s.Legal) (perst ge100us : Bool) : (s.opResetInput perst ge100us).Legal := by
  have pin {t : State} (ht : t.Legal) :
      State.Legal { t with boot := if perst then { t.boot with perst := true } else { t.boot with modRst := true } } := by
    refine ht.with_boot ?_
    split
    · exact ht.boot_inRange
    · exact ht.boot_inRange
  have hf : s.free.2.Legal := h.of_governed rfl
  exact legal_ite (pin h) (legal_ite (pin (warmReset_legal hf)) hf)

theorem opUnder_legal (h : s.Legal) (mv us : Nat) : (s.opUnder mv us).Legal :=
  legal_ite ((railsOff_legal h).with_boot (railsOff_legal h).boot_inRange) (legal_ite (railsOff_legal h) h)

theorem opOver_legal (h : s.Legal) (mv us : Nat) : (s.opOver mv us).Legal :=
  legal_ite ((railsOff_legal h).with_boot (railsOff_legal h).boot_inRange) h

theorem opTrip_legal (h : s.Legal) (temp8 : Int) (analogue : Bool) : (s.opTrip temp8 analogue).Legal :=
  legal_ite ((railsOff_legal h).with_boot (railsOff_legal h).boot_inRange) h

theorem opTlrReturn_legal (h : s.Legal) : s.opTlrReturn.Legal :=
  legal_ite h (legal_ite (warmReset_legal (h.with_board _)) (h.with_board _))

/-! ## Start-up (R459 to R464) -/

theorem opStartUp_legal (h : s.Legal) : s.opStartUp.Legal := by
  have ⟨_, hcause, himage⟩ := h.boot_inRange
  exact legal_ite h ((h.of_governed (logStart_governed s)).with_boot ⟨(by decide : 1 ≤ 6), hcause, himage⟩)

/-- A copy in the order of R461 from a slot lies in one of two slots, as one of two. -/
theorem fwOrder_lt {slot k : Nat} (hs : slot ≤ 1) (hk : k ∈ fwOrder slot) : k / 2 ≤ 1 ∧ k % 2 ≤ 1 := by
  simp only [fwOrder, List.mem_cons, List.not_mem_nil, or_false] at hk
  omega

/-- A state with another start-up state, in range, and the hall time and PF registers of a legal one. -/
theorem State.Legal.of_boot {t : State} (h : s.Legal) (hb : t.boot.inRange) (e : t.time = s.time ∧ t.pfw = s.pfw ∧ t.pfe = s.pfe) :
    t.Legal := (h.with_boot hb).of_governed (governed_iff.2 ⟨rfl, e⟩)

theorem opBootRom_legal (h : s.Legal) (bad : Nat) : (s.opBootRom bad).Legal := by
  obtain ⟨_, hcause, himage⟩ := h.boot_inRange
  unfold State.opBootRom
  refine legal_ite h (legal_ite (h.of_boot ⟨(by decide : 2 ≤ 6), hcause, himage⟩ ⟨rfl, rfl, rfl⟩) ?_)
  dsimp only
  split
  · exact h.of_boot ⟨(by decide : 2 ≤ 6), hcause, himage⟩ ⟨rfl, rfl, rfl⟩
  · next k hk =>
    obtain ⟨hactive, _⟩ := himage
    exact h.of_boot ⟨(by decide : 3 ≤ 6), hcause, hactive, fwOrder_lt hactive (List.mem_of_find?_eq_some hk)⟩ ⟨rfl, rfl, rfl⟩

theorem opMemoryInit_legal (h : s.Legal) (trainFail : List Nat) : (s.opMemoryInit trainFail).Legal := by
  have ⟨_, hcause, himage⟩ := h.boot_inRange
  refine legal_ite h ((h.of_governed ?_).with_boot ⟨(by decide : 4 ≤ 6), hcause, himage⟩)
  have repaired (l : List Repair) (cold : Bool) (t : State) : (l.foldl (fun s r => s.applyRepair cold r) t).governed = t.governed :=
    governed_foldl l _ (fun _ _ => applyRepair_governed ..) t
  have zeroed {t : State} {c : Prop} [Decidable c] (ht : t.governed = s.governed) :
      (if c then (t.zero 0 sramEnd).zero hbmBase (384 * hbmGiB) else t.zero 0 sramEnd).governed = s.governed := governed_ite ht ht
  refine zeroed ((repaired ..).trans (governed_foldl _ _ (fun t ch => ?_) s))
  exact governed_ite rfl (setHw_governed ..)

/-- The events of start-up that wait leave with the PF's ring. -/
theorem sendBoot_legal (h : s.Legal) : s.sendBoot.Legal :=
  (h.with_boot (b := { s.boot with events := [] }) h.boot_inRange).of_governed
    (governed_foldl _ _ (fun s _ => governed_foldl _ _ (fun _ _ => writeEvt_governed ..) s) _)

/-- A legal state with another start-up state, in range, and with the accounting and the newel changed. -/
theorem State.Legal.with_start (h : s.Legal) {b : Boot} (hb : b.inRange) (a : Acct) (n : Newel) :
    State.Legal { s with acct := a, boot := b, newel := n } := h.of_boot hb ⟨rfl, rfl, rfl⟩

theorem opSelftest_legal (h : s.Legal) (coreFail sliceFail : List Nat) (sensorBad monBad pllDev16 : Nat) :
    (s.opSelftest coreFail sliceFail sensorBad monBad pllDev16).Legal := by
  obtain ⟨_, hcause, himage⟩ := h.boot_inRange
  unfold State.opSelftest
  refine legal_ite h ?_
  have sent {c : Prop} [Decidable c] {t : State} (ht : t.Legal) : (if c then t.sendBoot else t).Legal := legal_ite (sendBoot_legal ht) ht
  refine sent (State.Legal.with_start (h.of_governed ?_) ?_ _ _)
  swap
  · exact ⟨(by decide : 5 ≤ 6), hcause, himage⟩
  refine (governed_ite (governed_foldl _ _ (fun _ _ => governed_ite rfl (setBoot_governed ..)) _) rfl).trans ?_
  refine (governed_foldl _ _ (fun _ _ => setBoot_governed ..) _).trans ?_
  refine (governed_foldl _ _ (fun t p => ?_) _).trans ?_
  · split
    · rfl
    · split
      · rfl
      · exact (addRepair_governed ..).trans (setBoot_governed ..)
  · refine (governed_foldl _ _ (fun _ _ => setBoot_governed ..) _).trans ?_
    exact (judgePll_governed ..).trans ((excludeMonitors_governed ..).trans (excludeSensors_governed ..))

/-! ## Restarts of the newel (R361, R381, R383) -/

theorem alert_inRange (h : s.boot.inRange) (b : Nat) : (s.alert b).boot.inRange := by
  rw [(governed_iff.1 (alert_governed s b)).1]; exact h

theorem newelRestart_inRange (h : s.boot.inRange) (cause : Nat) : (s.newelRestart cause).boot.inRange :=
  iteInduction (motive := fun t : State => t.boot.inRange) (fun _ => h) fun _ =>
    alert_inRange (s := { s with newel := { s.newel with running := false, cause := cause } }) h 3

theorem opFwTimeout_inRange (h : s.boot.inRange) : s.opFwTimeout.boot.inRange :=
  iteInduction (motive := fun t : State => t.boot.inRange) (fun _ => h) fun _ => h

theorem restartSlot_le (h : s.boot.inRange) : s.restartSlot ≤ 1 := by
  obtain ⟨_, _, hactive, hslot, _⟩ := h
  unfold State.restartSlot
  (repeat' split) <;> omega

theorem opRestartDone_inRange (h : s.boot.inRange) (tableBad : Bool) : (s.opRestartDone tableBad).boot.inRange := by
  obtain ⟨_, hcause, hactive, hslot, hcopy⟩ := id h
  unfold State.opRestartDone
  refine iteInduction (motive := fun t : State => t.boot.inRange) (fun _ => h) fun _ => ?_
  extract_lets n order
  split
  · exact ⟨(by decide : 2 ≤ 6), hcause, hactive, hslot, hcopy⟩
  · next k hk =>
    obtain ⟨hk2, hk1⟩ := fwOrder_lt (restartSlot_le h) (List.mem_of_find?_eq_some hk)
    refine ⟨(by decide : 5 ≤ 6), hcause, ?_, hk2, hk1⟩
    exact iteInduction (motive := fun a : Nat => a ≤ 1) (fun _ => hk2) fun _ => hactive

end

end Sys2Proof.Machine

/-!
SUPPORT and the settled statements of 00_scope.md: the invariant of every step, the landing of the PF's registers, and a write of one of them.
-/
namespace Sys2Proof.Machine

/-! ## The invariant over every command -/

theorem next_legal {r t : State} (h : r.Legal) (e : (.next r : Host.Outcome State Fault Refusal) = .next t) : t.Legal :=
  Host.Outcome.next.inj e ▸ h

/-- Every command keeps a legal state legal: by the confinement of its family where that leaves the governed parts, else by its own rule. -/
theorem exec_legal {s t : State} (h : s.Legal) (i : Instr) (e : exec i s = .next t) : t.Legal := by
  cases i with
  | cxlLinkUp | cxlLinkDown | cxlCompletionTimeout | cxlReadCompletion =>
    exact next_legal (h.keepCxl _) e
  | dmaChTail | dmaChCtrlEn | dmaChStatClear =>
    exact next_legal (h.keepDmaReg _) e
  | dmaList | dmaGrid =>
    exact next_legal (h.keepDma _) e
  | frameTransmit | frameForward | rdreq | rdrsp | wrreq | wrrsp | requestTimeout | mirrorBlock | mirrorCommitSend | mirrorRecord |
    mirrorCommit | mirrorFailureReply | tokenRecord | returnRecord | contributionRecord | holdPlace | deltaRecord | rawRequestIssue |
    rawreq =>
    exact next_legal (h.keepFrame _) e
  | vector | matmul | attn | plan | draft | verify | update | vote | verdict | loss | advance | xform | convert =>
    exact next_legal (h.keepFunc _) e
  | route | send | openRound | accum | close | topen | tclose | returnRows | combine | deltaSend =>
    exact next_legal (h.keepFuncSend _) e
  | marker =>
    exact next_legal (h.keepMarker _) e
  | configRequest | vfFlr | vfEnableChange | pfD3hot | pfD0Return =>
    exact next_legal (h.keepHost _) e
  | nop | identify | cfgLoad | flightLoad | flightSwitch | flightStop | flightUnload | guestLoad =>
    exact next_legal (h.keepLoad _) e
  | mbxCmdDb | mbxCtrlEn | mbxCplHead =>
    exact next_legal (h.keepMailbox _) e
  | serdesCal | tempCal | monitor | flash | logout | telem | sliceDefer | itemEnds =>
    exact next_legal (h.keepMonitor _) e
  | shardReadDone | flashCopyTimeout =>
    exact next_legal (h.keepModelLoad _) e
  | portSignalDetect | codewordLock | codewordLockLoss | trainTimeout | retrainTimeout | cellReceive | ack | nak | credit | neigh |
    replayTimeout | retryLimit | ctrlCellSend =>
    exact next_legal (h.keepPort _) e
  | wngFltClear | svcBistClear | pciErrClear | trdNowRead | badSizeAccess =>
    exact next_legal (h.keepRegRow _) e
  | replacementTread | migrate | rowfix | linefix | scrubHbm | scrubGal | scrubSram | scrubLate | hbmChannelFault | gallerySliceFault |
    coreswap =>
    exact next_legal (h.keepRepair _) e
  | seqAdmit | seqFork | seqCancel | seqPark | seqResume | kvCopyLands | pll | vmon | tsense | nearLb | farLb | lbServe | cxlLb |
    coreScan | layoutLoad | turnLand | turnAbort | epochFlip | adapterLoad | adapterDrop | prefixRegister | prefixDrop | ctxSwitch |
    ctxSet | semAcquire | semRelease | wingQuiesce | wingReset | deviceReset | contextSaveLands =>
    exact next_legal (h.keepCommand _) e
  | unitQuery | unitSet | hbmRetire | repairList | repairFuse | coreSpare | accSnapshot =>
    exact next_legal (h.keepService _) e
  | ident | stateRead | temp | power | alerts | alertClr | bcap | bist =>
    exact next_legal (h.keepSideband _) e
  | streamBlockIssue | blockRetire | entryWorkEnd =>
    exact next_legal (h.keepStream _) e
  | tapTlrExit =>
    exact next_legal (h.keepTapExit _) e
  | bypass | idcode | samplePreload | extest | extestPulse | extestTrain | clamp | highz =>
    exact next_legal (h.keepTapPins _) e
  | landingTreadSweep =>
    exact next_legal (h.keepTread _) e
  | modelLoad | imageWrite | imageErase | imageList | attest | fwStage | fwActivate | copiesProgrammed | imageStaged | fusingEnds |
    reportFormed =>
    exact next_legal (h.keepTrust _) e
  | lockAcquired | lockLost | parentLost | holdoverExpiry | acquireNoSource | entryAbandon | flightDone | landTimeout | quiesceTimeout
    | tretDeadline | unitDiverge =>
    exact next_legal (boundaryRow_legal h _ _).keepBoundary e
  | treadBoundary => exact next_legal (opBoundary_legal h _).keepBoundary e
  | powerOn => exact next_legal (opPowerOn_legal h _ _).keepReset e
  | resetInputAssert => exact next_legal (opResetInput_legal h _ _).keepReset e
  | startUpBegin => exact next_legal (opStartUp_legal h).keepReset e
  | bootRom => exact next_legal (opBootRom_legal h _).keepReset e
  | memoryInit => exact next_legal (opMemoryInit_legal h _).keepReset e
  | startupSelftest => exact next_legal (opSelftest_legal h _ _ _ _ _).keepReset e
  | inputUndervoltage => exact next_legal (opUnder_legal h _ _).keepReset e
  | inputOvervoltage => exact next_legal (opOver_legal h _ _).keepReset e
  | thermalTrip => exact next_legal (opTrip_legal h _ _).keepReset e
  | tapTlrReturn => exact next_legal (opTlrReturn_legal h).keepReset e
  | fwActivateTimeout => exact next_legal (h.keepNewel (opFwTimeout_inRange h.boot_inRange)) e
  | newelWatchdog | newelSramUe => exact next_legal (h.keepNewel (newelRestart_inRange h.boot_inRange _)) e
  | newelRestartDone => exact next_legal (h.keepNewel (opRestartDone_inRange h.boot_inRange _)) e
  | halPortRetrain | trnForce => exact next_legal (h.keepRegWrite (fits_ite (writeReg_fits h.written _ _ _ _) h.written)) e
  | accCons => exact next_legal (h.keepRegWrite (fits_ite (opAccCons_fits h.written _) h.written)) e
  | registerWrite => exact next_legal (h.keepRegWrite (opRegWrite_fits h.written _ _ _ _)) e
  | dbgAccess => exact next_legal (h.keepDebug (opDebug_fits h.written _)) e

/-- Taking a command off the queue keeps a legal state legal. -/
theorem State.Legal.with_pending {s : State} (h : s.Legal) (q : List Instr) : State.Legal { s with pending := q } := h.of_governed rfl

/-- Settles O5: every part of the invariant is a fact of the reset state. -/
theorem legalAtReset : Obligations.LegalAtReset :=
  legal_anew ⟨by decide, by decide, by decide, by decide, by decide⟩ rfl rfl rfl

/-- Settles O6: a step idles, or runs the front command from a state that differs in its queue. -/
theorem legalKept : Obligations.LegalKept := by
  intro s t h e
  unfold step at e
  split at e
  · exact next_legal h e
  · exact exec_legal (h.with_pending _) _ e

/-! ## The landing of the PF's registers -/

/-- Settles O21: every row that carries a boundary out holds the PF's registers, and a landing leaves HAL_CFG to a hall that is DOWN. -/
theorem heldWritesLand : Obligations.HeldWritesLand := by
  intro s e core w xid kind unit i hi
  have lands (x : State) : ((∀ p < 8, (x.port p).st = 0) → x.landedPf = x.pfw) ∧
      ((∃ p, p < 8 ∧ (x.port p).st ≠ 0) →
        ∃ v, x.landedPf = (match v with | some v => Tab.set x.pfw Reg.halCfg v | none => Tab.erase x.pfw Reg.halCfg)
          ∧ v = Tab.find x.pfe Reg.halCfg) :=
    ⟨landedPf_of_down, fun h => ⟨_, landedPf_of_up h, rfl⟩⟩
  have row (due : Bool) : s.pfHeld e (s.keepBoundary (s.boundaryRow e due)) := boundaryRow_pfHeld s e due
  simp only [List.mem_cons, List.not_mem_nil, or_false] at hi
  rcases hi with rfl | rfl | rfl | rfl | rfl | rfl | rfl | rfl | rfl | rfl | rfl | rfl
  · exact ⟨_, rfl, opBoundary_pfHeld s e, lands⟩
  all_goals exact ⟨_, rfl, row _, lands⟩

/-! ## A write of a register of the PF -/

/-- Offsets of PF BAR0 that lead to registers of the PF in the parts of Table 20.3 behind the mailbox: outside the wings and the DMA channels. -/
def pfSpace (off : Nat) : Prop :=
  0x400000 ≤ off ∧ off < 0x1E00000
    ∧ (off < 0xA00000 → off % 0x200000 < 0x100000 ∧ ¬((off - 0x400000) / 0x200000 = 2 ∧ 0x100 ≤ off % 0x200000 ∧ off % 0x200000 < 0x2100))

theorem regLoc_pfSpace (s : State) {off : Nat} (h : pfSpace off) : s.regLoc 0 off = .pf off := by
  obtain ⟨hlo, hhi, hblk⟩ := h
  simp only [State.regLoc, if_true, if_neg (show ¬off < 0x200000 by omega), if_neg (show ¬off < 0x400000 by omega)]
  split
  · next hb => simp only [if_pos (hblk hb).1, if_neg (hblk hb).2]
  · rfl

/-- The registers of the protection set-up lie in that space, each at a multiple of the size of its accesses. -/
theorem prot_pfSpace : ∀ r ∈ pfRegRows, r.cls = .prot → ∀ i < r.n,
    pfSpace (r.key + r.stride * i) ∧ (r.key + r.stride * i) % (if 8 ≤ r.bytes then 8 else 4) = 0 := by
  unfold pfSpace
  decide +kernel

section
variable {s : State} {r : RegRow} (hr : r ∈ pfRegRows) (hc : r.cls = .prot) {i : Nat} (hi : i < r.n)
include hr hc hi

/-- A write at the offset of a register of the protection set-up is a write of that register from its byte 0. -/
theorem write1_prot (n v : Nat) : s.write1 0 (r.key + r.stride * i) n v = s.pfWrite r i 0 n v := by
  simp only [State.write1, regLoc_pfSpace s (prot_pfSpace r hr hc i hi).1, pfRegRows_find r hr i hi, Nat.sub_self]

/-- The register is written in one piece: 8 bytes of a register of 8 bytes or more, else 4. -/
theorem opRegWrite_prot (ha : s.fnAnswers 0 = true) (v : Nat) : s.opRegWrite 0 (r.key + r.stride * i) (8 ≤ r.bytes) v
    = s.pfWrite r i 0 (if 8 ≤ r.bytes then 8 else 4) (if 8 ≤ r.bytes then v else v % 2 ^ 32) := by
  obtain ⟨hs, hal⟩ := prot_pfSpace r hr hc i hi
  by_cases hb : 8 ≤ r.bytes
  · have hspan : s.spans 0 (r.key + r.stride * i) = true := by
      simp only [State.spans, regLoc_pfSpace s hs, pfRegRows_find r hr i hi]
      exact decide_eq_true (by omega)
    simp only [hb, if_true] at hal
    simp [State.opRegWrite, State.writeReg, ha, hb, hal, hspan, write1_prot hr hc hi]
  · simp only [hb, if_false] at hal
    simp [State.opRegWrite, State.writeReg, ha, hb, hal, write1_prot hr hc hi]

end

/-- A register of the PF that was written reads back; the others read as before. -/
theorem pfw_of_set {s t : State} {off v : Nat} (h : t.pfw = Tab.set s.pfw off v) : t.pfw_ off = v ∧ ∀ o ≠ off, t.pfw_ o = s.pfw_ o := by
  unfold State.pfw_
  rw [h]
  exact ⟨by rw [find_set_same, Option.getD_some], fun o ho => by rw [find_set_ne _ _ _ _ ho]⟩

/-- The low bits of a number, of those under a mask of low bits. -/
theorem and_low (x m k : Nat) : x % 2 ^ k &&& (m &&& (2 ^ k - 1)) = x &&& (m &&& (2 ^ k - 1)) := by
  rw [← Nat.and_two_pow_sub_one_eq_mod, Nat.and_assoc, Nat.and_left_comm (2 ^ k - 1), Nat.and_self]

/-- Settles O33: the write sets the register through its mask, in the bytes of the access. -/
theorem registersOfThePfReadBack : Obligations.RegistersOfThePfReadBack := by
  intro s v ha r hr hc i hi off m
  refine ⟨_, rfl, rfl, ?_⟩
  generalize hx : (if 8 ≤ r.bytes then v else v &&& 0xFFFFFFFF).toNat = x
  have written := (congrArg State.pfw (opRegWrite_prot (s := s) hr hc hi ha x)).trans (pfWrite_prot hc i _ _ _)
  obtain ⟨same, others⟩ := pfw_of_set (t := s.keepRegWrite _) written
  have hm : m = r.mask &&& (2 ^ (8 * if 8 ≤ r.bytes then 8 else 4) - 1) := by
    simp only [m]
    split <;> rfl
  have hv : (if 8 ≤ r.bytes then x else x % 2 ^ 32) &&& m = v.toNat &&& m := by
    simp only [m]
    by_cases hb : 8 ≤ r.bytes
    · simp only [← hx, if_pos hb]
    · have low : x = v.toNat % 2 ^ 32 := by
        rw [← hx, if_neg hb, BitVec.toNat_and, ← Nat.and_two_pow_sub_one_eq_mod]
        rfl
      simp only [if_neg hb, low, and_low]
  obtain ⟨sets, keeps⟩ := mergeReg_zero (s.pfw_ off) r.mask (if 8 ≤ r.bytes then 8 else 4) (if 8 ≤ r.bytes then x else x % 2 ^ 32) m hm
  exact ⟨(congrArg (· &&& m) same).trans (sets.trans hv), (congrArg (· ||| m) same).trans keeps, others⟩

end Sys2Proof.Machine

/-!
SUPPORT. What an access of memory leaves alone: all of the state but bytes, marks, notes of errors, records, events and counts. So the mapping
of addresses is one and the same while a write goes on (spec/06_memory.md R129 to R148).
-/
namespace Sys2Proof.Machine

/-- A wing without its counts. -/
def Wing.apart (x : Wing) : Wing := { x with acc := {}, fltLost := 0 }

/-- A CXL port without its discards and its reads that were not completed. -/
def CxlSt.apart (x : CxlSt) : CxlSt := { x with discards := 0, timed := [] }

/-- HBM without the notes of errors and the count of lost writes. -/
def Hbm.apart (h : Hbm) : Hbm := { h with ceWords := [], cands := [], ueTread := [], dropped := [] }

/-- A state without what an access of memory changes: the bytes and their marks, the gallery, the notes of HBM errors, units, records, events,
alerts and counts; each wing without its counts, and each CXL port without its discards and open reads. -/
def State.apart (s : State) : State × (Nat → Wing) × (Nat → CxlSt) :=
  ({ s with
      mem := ⟨[], []⟩, host := ⟨[], []⟩, gal := {}, units := [], recs := {}, fns := [], wings := [], cxl := []
      hbm := s.hbm.apart
      board := { s.board with alerts := 0, ibi := 0 }, acct := { s.acct with own := {} }
      newel := { s.newel with evq := [], evLost := 0 } },
    fun w => (s.wing w).apart, fun p => (s.cxlPort p).apart)

/-- A fold whose every step leaves alone what accesses leave alone does so too. -/
theorem apart_foldl {β : Type} (l : List β) (f : State → β → State) (hf : ∀ s x, (f s x).apart = s.apart) (s : State) :
    (l.foldl f s).apart = s.apart := by
  induction l generalizing s with
  | nil => rfl
  | cons x l ih => rw [List.foldl_cons, ih, hf]

theorem apart_ite {c : Prop} [Decidable c] {s t u : State} (h1 : t.apart = s.apart) (h2 : u.apart = s.apart) :
    (if c then t else u).apart = s.apart := iteInduction (motive := fun x : State => x.apart = s.apart) (fun _ => h1) fun _ => h2

section
variable (s : State)

theorem modWing_apart (w : Nat) (f : Wing → Wing) (hf : ∀ x, (f x).apart = x.apart) :
    (s.modWing w f).apart = s.apart := by
  refine Prod.ext rfl (Prod.ext (funext fun v => ?_) rfl)
  show ((s.modWing w f).wing v).apart = (s.wing v).apart
  by_cases h : v = w
  · rw [h, modWing_same, hf]
  · rw [modWing_ne _ _ _ _ h]

/-- A CXL port changes in its discards and open reads only. -/
theorem setCxl_apart (p : Nat) (x : CxlSt) (hx : x.apart = (s.cxlPort p).apart) :
    State.apart { s with cxl := Tab.set s.cxl p x } = s.apart := by
  refine Prod.ext rfl (Prod.ext rfl (funext fun q => ?_))
  show ((Tab.find (Tab.set s.cxl p x) q).getD {}).apart = (s.cxlPort q).apart
  by_cases h : q = p
  · rw [h, find_set_same, Option.getD_some, hx]
  · rw [find_set_ne _ _ _ _ h]; rfl

theorem alert_apart (b : Nat) : (s.alert b).apart = s.apart := apart_ite rfl rfl

theorem charge_apart (w : Option Nat) (f n : Nat) : (s.charge w f n).apart = s.apart := by
  unfold State.charge
  refine apart_ite rfl ?_
  cases w with
  | none => rfl
  | some w => exact modWing_apart s w _ fun _ => rfl

theorem hostWrite_apart (fn a : Nat) (bs : List PByte) : (s.hostWrite fn a bs).apart = s.apart := by
  unfold State.hostWrite
  exact apart_ite (apart_ite rfl (charge_apart ..)) rfl

theorem modFn_apart (fn : Nat) (f : FnSt → FnSt) : (s.modFn fn f).apart = s.apart := rfl

theorem writeEvt_apart (fn : Nat) (body : List Byte) (cls : Nat) : (s.writeEvt fn body cls).apart = s.apart := by
  unfold State.writeEvt
  have counted (f : FnSt → FnSt) (a : Nat) (bs : List PByte) : ((s.hostWrite fn a bs).modFn fn f).apart = s.apart :=
    (modFn_apart ..).trans (hostWrite_apart ..)
  exact apart_ite (apart_ite ((modFn_apart ..).trans (counted ..)) (counted ..)) rfl

theorem countLost_apart (b : LostBy) (n : Nat) : (s.countLost b n).apart = s.apart := by
  cases b with
  | unit u => rfl
  | wing w => exact modWing_apart s w _ fun _ => rfl

theorem postEvt_apart (fns : List Nat) (body : List Byte) (cls : Nat) (mem : Option (LostBy × Nat)) :
    (s.postEvt fns body cls mem).apart = s.apart := by
  unfold State.postEvt
  refine apart_ite (apart_foldl _ _ (fun s fn => writeEvt_apart s fn body cls) s) (apart_ite rfl ?_)
  cases mem with
  | none => rfl
  | some x => exact countLost_apart _ _ _

theorem modUnit_apart (key : Nat) (f : UnitSt → UnitSt) : (s.modUnit key f).apart = s.apart := rfl

theorem setHw_apart (key st : Nat) (own : Bool) : (s.setHw key st own).apart = s.apart := by
  unfold State.setHw
  refine apart_ite rfl ?_
  unfold State.unitEvt
  exact (postEvt_apart ..).trans (modUnit_apart ..)

theorem memRecord_apart (kind store src syn key addr : Nat) : (s.memRecord kind store src syn key addr).apart = s.apart := by
  unfold State.memRecord
  have charged (s : State) : (if kind = 0 then s.charge none Acf.ceRecs 1
      else if kind = 1 then s.charge none Acf.ueRecs 1 else s).apart = s.apart :=
    apart_ite (charge_apart ..) (apart_ite (charge_apart ..) rfl)
  refine apart_ite rfl ((postEvt_apart ..).trans ?_)
  exact apart_ite ((alert_apart ..).trans (charged _)) (charged _)

/-! ## Words and lines -/

/-- A note of an error adds to the candidates and to the error lists. -/
theorem note_apart (o pass : Nat) (ue : Bool) : State.apart { s with hbm := s.hbm.note o pass ue } = s.apart := by
  have cand (h : Hbm) (ch : Nat) (r : Nat × Nat) : (h.candidate ch r).apart = h.apart := by
    unfold Hbm.candidate; split <;> rfl
  have noted : (s.hbm.note o pass ue).apart = s.hbm.apart := by
    unfold Hbm.note
    dsimp only
    split
    · exact cand ..
    · split
      · exact cand ..
      · rfl
  unfold State.apart
  dsimp only
  rw [noted]
  rfl

theorem found_apart (src pass y i a : Nat) (loc : Option Nat) : (s.found src pass y i a loc).apart = s.apart := by
  unfold State.found
  refine (memRecord_apart ..).trans ?_
  split
  · rfl
  · exact (apart_ite (setHw_apart ..) rfl).trans (note_apart ..)
  · rfl

theorem readFix_apart (src pass word : Nat) : (s.readFix src pass word).apart = s.apart := by
  unfold State.readFix
  exact apart_ite rfl (found_apart ..)

theorem touch_apart (src pass a n : Nat) : (s.touch src pass a n).apart = s.apart :=
  apart_foldl _ _ (fun _ _ => readFix_apart ..) s

theorem mergeRead_apart (src a n : Nat) : (s.mergeRead src a n).apart = s.apart :=
  apart_foldl _ _ (fun _ _ => readFix_apart ..) s

theorem writeLost_apart (a : Nat) : (s.writeLost a).apart = s.apart := by
  unfold State.writeLost
  split
  · exact setCxl_apart s _ _ rfl
  · rfl
  · rfl

theorem forgetTimed_apart (a : Nat) : (s.forgetTimed a).apart = s.apart := by
  unfold State.forgetTimed
  split
  · exact setCxl_apart s _ _ rfl
  · rfl

theorem chargeMem_apart (r : Req) (a n : Nat) (write : Bool) : (s.chargeMem r a n write).apart = s.apart := by
  unfold State.chargeMem
  dsimp only
  split
  · exact charge_apart ..
  · exact charge_apart ..
  · rfl

theorem evict_apart (k : Nat) : (s.evict k).apart = s.apart := by
  unfold State.evict
  split
  · rfl
  · next l _ =>
    have read : (if l.dirty then s.touch 0 0 (l.tag * 256) 256 else s).apart = s.apart := apart_ite (touch_apart ..) rfl
    refine apart_ite read ?_
    split
    · exact read
    · exact (memRecord_apart ..).trans read
    · exact (writeLost_apart ..).trans read

theorem victim_apart {s t : State} {mask sl set k : Nat} (h : s.victim mask sl set = some (k, t)) : t.apart = s.apart := by
  unfold State.victim at h
  dsimp only at h
  split at h
  · cases h
  · split at h
    · cases h; rfl
    · cases h

theorem galAccess_apart (mask : Nat) (noalloc write whole : Bool) (a : Nat) : (s.galAccess mask noalloc write whole a).apart = s.apart := by
  unfold State.galAccess
  dsimp only
  split
  · split <;> rfl
  · refine apart_ite rfl ?_
    split
    · rfl
    · next k t hv =>
      have evicted := (evict_apart t k).trans (victim_apart hv)
      exact apart_ite (u := (t.evict k).touch 0 0 (a / 256 * 256) 256) evicted ((touch_apart ..).trans evicted)

theorem writePiece_apart (r : Req) (a : Nat) (bs : List PByte) : (s.writePiece r a bs).apart = s.apart := by
  unfold State.writePiece
  dsimp only
  split
  · rfl
  · exact mergeRead_apart ..
  · split
    · exact memRecord_apart ..
    · exact writeLost_apart ..
    · exact apart_ite (forgetTimed_apart s a) ((mergeRead_apart ..).trans (galAccess_apart ..))

end

/-! ## The mapping of addresses -/

section
variable {s t : State} (h : t.apart = s.apart)
include h

theorem apart_wing (w : Nat) : (t.wing w).apart = (s.wing w).apart := (congrFun (congrArg (·.2.1) h) w :)

theorem apart_job (w : Nat) : t.job w = s.job w := (congrArg Wing.job (apart_wing h w) :)

theorem apart_pr (w off : Nat) : t.pr w off = s.pr w off := (congrArg (fun x : Wing => Tab.cnt x.pwe off) (apart_wing h w) :)

theorem apart_wr (w off : Nat) : t.wr w off = s.wr w off := congrArg (fun j : Job => Tab.cnt j.wr off) (apart_job h w)

theorem apart_cxlSize (p : Nat) : (t.cxlPort p).size = (s.cxlPort p).size :=
  (congrArg CxlSt.size (congrFun (congrArg (·.2.2) h) p) :)

theorem apart_hbmEnd : t.hbmEnd = s.hbmEnd :=
  congrArg (fun x : State × (Nat → Wing) × (Nat → CxlSt) => 384 * hbmGiB - x.1.hbm.order.length * (hbmGiB * 13 / 4)) h

theorem apart_region (a : Nat) : t.region a = s.region a := by
  simp only [State.region, apart_hbmEnd h, apart_cxlSize h]

theorem apart_windows (w : Nat) : t.windows w = s.windows w := by
  simp only [State.windows, State.enabled, apart_pr h]

theorem apart_inWindowK (w : Nat) (kinds : List Nat) (a n : Nat) : t.inWindowK w kinds a n = s.inWindowK w kinds a n := by
  simp only [State.inWindowK, State.mappedAs, apart_windows h, apart_region h, apart_cxlSize h]

theorem apart_ctxGeom (w : Nat) : t.ctxGeom w = s.ctxGeom w := by
  have reg : (t.wing w).ctxReg = (s.wing w).ctxReg := (congrArg Wing.ctxReg (apart_wing h w) :)
  simp only [State.ctxGeom, State.inHbm, reg, apart_wr h, apart_inWindowK h]
  rfl

theorem apart_activeSlot (w : Nat) : t.activeSlot w = s.activeSlot w :=
  congrArg (fun x : Wing => match (Tab.find x.ctxs x.active).bind (·.slot) with | some a => a | none => 0) (apart_wing h w)

theorem apart_mapAddr (w bank a : Nat) : t.mapAddr w bank a = s.mapAddr w bank a := by
  simp only [State.mapAddr, State.ctxSwap, State.bankAddr, apart_ctxGeom h, apart_activeSlot h, apart_wr h]

/-- An access of memory moves no address. -/
theorem apart_place (r : Req) (a : Nat) : t.place r a = s.place r a := by
  simp only [State.place, State.bankAddr, apart_mapAddr h, apart_wr h]

end

end Sys2Proof.Machine

/-!
SUPPORT. Frames and records at a hall port: what a write, a refusal and a response leave of memory, how the row of a request or response is served
(spec/14_hall_fabric.md R316, R324, R326), and how a record arrives (R317, R321).
-/
namespace Sys2Proof.Machine

/-! ## A write of memory -/

/-- A write keeps every byte outside the lines' parts that it addresses. -/
theorem bytesKept_write {s t : State} {P : Nat → Prop} (h : s.bytesKept P t) (r : Req) (a : Nat) (bs : List PByte)
    (hp : ∀ p ∈ linePieces a bs.length, ∀ x, P x → ¬(t.place r p.1 ≤ x ∧ x < t.place r p.1 + p.2)) : s.bytesKept P (t.write r a bs) := by
  have key (l : List (Nat × Nat)) : ∀ u : State, u.apart = t.apart → s.bytesKept P u →
      (∀ p ∈ l, ∀ x, P x → ¬(t.place r p.1 ≤ x ∧ x < t.place r p.1 + p.2)) →
      s.bytesKept P (l.foldl (fun s (p : Nat × Nat) =>
        let y := s.place r p.1
        (s.chargeMem r y p.2 true).writePiece r y ((bs.drop (p.1 - a)).take p.2)) u) := by
    induction l with
    | nil => exact fun _ _ hu _ => hu
    | cons p l ih =>
      intro u hu kept out
      refine ih _ ((writePiece_apart ..).trans ((chargeMem_apart ..).trans hu)) ?_ fun q hq => out q (.tail _ hq)
      refine bytesKept_writePiece (bytesKept_of_same kept (by simpa using kept.1) (by simp) (by simp)) r _ _ fun x hx => ?_
      have outside := out p (.head _) x hx
      have short := List.length_take_le p.2 (bs.drop (p.1 - a))
      rw [apart_place hu]
      omega
  exact key _ t rfl h hp

/-! ## What requests, responses and records leave of memory -/

/-- Memory and the gallery are the same in two states. -/
def State.sameStore (s t : State) : Prop := t.mem = s.mem ∧ t.gal = s.gal

theorem State.sameStore.trans {s t u : State} (h : s.sameStore t) (k : t.sameStore u) : s.sameStore u :=
  ⟨k.1.trans h.1, k.2.trans h.2⟩

theorem sameStore_ite {c : Prop} [Decidable c] {s t u : State} (h1 : s.sameStore t) (h2 : s.sameStore u) : s.sameStore (if c then t else u) :=
  iteInduction (fun _ => h1) fun _ => h2

theorem bytesKept_of_sameStore {s t u : State} {P : Nat → Prop} (h : s.bytesKept P t) (k : t.sameStore u) : s.bytesKept P u :=
  bytesKept_of_same h (k.1 ▸ h.1) (congrArg Mem.cells k.1) (congrArg Gallery.lines k.2)

section
variable (s : State)

theorem charge_sameStore (w : Option Nat) (f n : Nat) : s.sameStore (s.charge w f n) := ⟨charge_mem .., charge_gal ..⟩

theorem postEvt_sameStore (fns : List Nat) (b : List Byte) (c : Nat) (u : Option (LostBy × Nat)) : s.sameStore (s.postEvt fns b c u) :=
  ⟨postEvt_mem .., postEvt_gal ..⟩

/-- A refusal counts, fires and records, and touches no byte (R339). -/
theorem refuse_sameStore (w addr : Nat) (noModule : Bool) : s.sameStore (s.refuse w addr noModule) := by
  unfold State.refuse
  have counted : s.sameStore (s.charge (some w) Acf.refused 1) := charge_sameStore ..
  have fired {c : Prop} [Decidable c] (f : Job → Job) (fn v : Nat) :
      s.sameStore (if c then ((s.charge (some w) Acf.refused 1).modJob w f).fire fn v else (s.charge (some w) Acf.refused 1).modJob w f) :=
    sameStore_ite (counted.trans ⟨rfl, rfl⟩) (counted.trans ⟨rfl, rfl⟩)
  exact sameStore_ite ((fired ..).trans ⟨rfl, rfl⟩) (State.sameStore.trans ((fired ..).trans ⟨rfl, rfl⟩) (postEvt_sameStore ..))

theorem enqueue_sameStore (dst wing pool q num cls : Nat) (fs : List Frame) : s.sameStore (s.enqueue dst wing pool q num cls fs).1 := by
  unfold State.enqueue
  split
  · exact ⟨rfl, rfl⟩
  · split
    · exact ⟨rfl, rfl⟩
    · split <;> exact ⟨rfl, rfl⟩

theorem respond_sameStore (p : Nat) (f : Frame) (status : Nat) (data : List PByte) : s.sameStore (s.respond p f status data) := enqueue_sameStore ..

theorem takeFrame_sameStore (p : Nat) (f : Frame) : s.sameStore (s.takeFrame p f) := sameStore_ite ⟨rfl, rfl⟩ ⟨rfl, rfl⟩

theorem delivered_sameStore (p : Nat) (f : Frame) : s.sameStore (s.delivered p f) := charge_sameStore ..

theorem charge_fab (w : Option Nat) (f n : Nat) : (s.charge w f n).fab = s.fab := by
  unfold State.charge
  split
  · rfl
  · cases w <;> rfl

theorem malformed_takeFrame (p clk : Nat) (f g : Frame) : ((s.takeFrame p f).at_ clk).malformed g = s.malformed g := by
  unfold State.takeFrame
  split <;> rfl

end

/-- A row of a frame or record ends in the state that its rules end in. -/
theorem frameRow_next {s t u : State} (h : t = u) : (.next (s.keepFrame t) : Host.Outcome State Fault Refusal) = .next (s.keepFrame u) := h ▸ rfl

/-! ## Requests and responses at their target -/

section
variable {s : State} {p : Nat} {f : Frame} {clk typ : Nat}

/-- T carries no request and no response. -/
theorem reqRow_T (hp : p = 8) (serve : State → State) : s.reqRow p f clk typ serve = s := by
  simp [State.reqRow, hp]

/-- A well-formed frame of the row's type for this module, at an UP hall port, is delivered and served. -/
theorem reqRow_serves (hp : p ≠ 8) (hst : (s.port p).st = 2) (ht : f.typ = typ) (hd : f.dst = s.me) (hm : s.malformed f = false)
    (serve : State → State) : s.reqRow p f clk typ serve = serve (((s.takeFrame p f).at_ clk).delivered p f) := by
  simp [State.reqRow, hp, hst, ht, hd, malformed_takeFrame, hm]

/-- The response to an open request of its kind, within its window, answers it by its STATUS; behind the window the request has timed out. -/
theorem response_answers {q : State} {r : RemReq} (raw : State → RemReq → State)
    (hrow : ∀ serve, s.reqRow p f clk typ serve = serve q)
    (hr : q.fab.reqs.find? (fun x => x.tag = f.tag && !x.done && x.write = (typ = 3)) = some r) :
    let row : Host.Outcome State Fault Refusal := .next (s.keepFrame (s.opResponse p f clk typ raw))
    (q.reqLate r = false → f.status = 0 → row = .next (s.keepFrame (raw (q.answer f.tag false (if typ = 3 then [] else
      (f.payload.take r.len).map (fun b => (b, f.pzn)) ++ List.replicate (r.len - f.payload.length) (0, true))) r))) ∧
    (q.reqLate r = false → f.status = 1 → row = .next (s.keepFrame (raw (q.answer f.tag true []) r))) ∧
    (q.reqLate r = false → 1 < f.status → row = .next (s.keepFrame (raw (q.answerPoison f.tag) r))) ∧
    (q.reqLate r = true → row = .next (s.keepFrame ((q.reqTimeout r raw).perr p Perr.latersp 1))) := by
  have hw : r.write = true ↔ typ = 3 := by
    have found := List.find?_some hr
    simp only [Bool.and_eq_true, decide_eq_true_eq] at found
    exact found.2.to_iff
  simp only [State.opResponse, hrow, hr]
  refine ⟨fun hl h0 => frameRow_next ?_, fun hl h1 => frameRow_next ?_, fun hl h2 => frameRow_next ?_, fun hl => frameRow_next ?_⟩
  · simp [hl, h0, hw]
  · simp [hl, h1]
  · simp [hl, show f.status ≠ 0 by omega, show f.status ≠ 1 by omega]
  · simp [hl]

/-- A response with no open request of its kind counts as late. -/
theorem response_unasked {q : State} (raw : State → RemReq → State) (hrow : ∀ serve, s.reqRow p f clk typ serve = serve q)
    (hr : q.fab.reqs.find? (fun x => x.tag = f.tag && !x.done && x.write = (typ = 3)) = none) :
    (.next (s.keepFrame (s.opResponse p f clk typ raw)) : Host.Outcome State Fault Refusal) = .next (s.keepFrame (q.perr p Perr.latersp 1)) := by
  simp only [State.opResponse, hrow, hr]

end

/-! ## Records at their target -/

section
variable {s : State} {r : RecIn} {clk : Nat}

theorem recRow_T (hp : 8 ≤ r.port) (f : State → State) : s.recRow r clk f = s := by
  simp [State.recRow, hp]

/-- A record at an UP hall port is charged and goes to the receive path of its kind. -/
theorem recRow_charges (hp : r.port < 8) (hst : (s.port r.port).st = 2) (f : State → State) :
    s.recRow r clk f = f ((s.at_ clk).chargeRecord r) := by
  simp [State.recRow, Nat.not_le.2 hp, hst]

/-- A record that came through a hall port leaves its receive buffer. -/
theorem leave_port (hp : r.port < 8) : s.leave r = s.recordGone r := by
  simp [State.leave, show r.port ≠ 9 by omega]

/-- Behind a record that waits on its path a record waits too. -/
theorem arrive_behind (kind : Nat) (h : s.fab.heads.any (fun x => sameVc x.2 r) = true) :
    s.arrive kind r = { s with fab := { s.fab with heads := s.fab.heads ++ [(kind, r)] } } := by
  simp only [State.arrive, h, if_true]

/-- A record behind no other whose place is free leaves its buffer at once. -/
theorem arrive_placed {t : State} {kind : Nat} (hp : r.port < 8) (hk : kind ≠ transitKind) (h : s.fab.heads.any (fun x => sameVc x.2 r) = false)
    (hw : s.ringWaits kind r (s.hold_ r.dwing) = false) (hpl : s.placeRec kind r = (t, true)) : s.arrive kind r = t.recordGone r := by
  simp [State.arrive, h, State.takeRec, hk, hw, hpl, leave_port hp]

/-- Records of tokens, returns and deltas wait for no ring. -/
theorem ringWaits_other {kind : Nat} (h : kind ≠ 2) (before : List (Nat × RecIn)) : s.ringWaits kind r before = false := by
  simp [State.ringWaits, h]

/-- A record behind no other whose place is taken waits in the hold, or at the head of its path where the hold is full, which counts. -/
theorem arrive_waits {kind : Nat} (hp : r.port < 8) (hk : kind ≠ transitKind) (h : s.fab.heads.any (fun x => sameVc x.2 r) = false)
    (hw : s.ringWaits kind r (s.hold_ r.dwing) = true ∨ (s.placeRec kind r).2 = false) :
    s.arrive kind r = if s.holdRoom r.dwing r.bytes.length then (s.setHold r.dwing (s.hold_ r.dwing ++ [(kind, r)])).recordGone r
      else
        let u := s.perr r.port Perr.holdwait 1
        { u with fab := { u.fab with heads := u.fab.heads ++ [(kind, r)] } } := by
  have taken : s.takeRec kind r = if s.holdRoom r.dwing r.bytes.length then
      ((s.setHold r.dwing (s.hold_ r.dwing ++ [(kind, r)])).recordGone r, true) else (s, false) := by
    have full : (if s.ringWaits kind r (s.hold_ r.dwing) then (s, false) else s.placeRec kind r).2 = false := by
      rcases hw with hw | hw
      · simp [hw]
      · split
        · rfl
        · exact hw
    simp only [State.takeRec, if_neg hk, full, leave_port hp, Bool.false_eq_true, if_false]
  simp only [State.arrive, h, taken, Bool.false_eq_true, if_false, show r.port ≠ 9 by omega]
  split <;> rfl

end

end Sys2Proof.Machine

/-!
The settled statements of 01_architecture.md: requests, responses and message records at their target.
-/
namespace Sys2Proof.Machine

/-- Settles O52: a frame of its row is delivered and served; a served write keeps the bytes outside the parts that it addresses. -/
theorem requestsAreServed : Obligations.RequestsAreServed := by
  intro s p f clk hst hd hm w q
  have served {typ : Nat} (hp : p.val ≠ 8) (ht : f.typ = typ) (serve : State → State) :
      s.reqRow p.val f clk.val typ serve = serve q := reqRow_serves hp hst ht hd hm serve
  have wrreq (hp : p.val ≠ 8) (ht : f.typ = 2) : exec (.wrreq p f clk) s = .next (s.keepFrame
      (if q.mappedIn w (q.bankNow w) [1, 2] f.addr f.payload.length = true ∧ q.barred w f.addr f.payload.length = false then
        (q.write (q.reqOf w) f.addr (f.payload.map fun b => (b, f.pzn))).respond p.val f 0 []
      else (q.refuse w f.addr false).respond p.val f 1 [])) := by
    refine frameRow_next ((served hp ht _).trans ?_)
    simp only [Bool.and_eq_true, Bool.not_eq_true']
    rfl
  refine ⟨fun hp i hi => ?_, fun hp ht => frameRow_next (served hp ht _), wrreq, fun hp ht hwf => ⟨_, wrreq hp ht, fun a out => ?_⟩,
    fun hp ht => frameRow_next (served hp ht _), fun r hp ht hr => ?_, fun r hp ht hr => ?_, fun hp ht hr => ?_, fun hp ht hr => ?_⟩
  · simp only [List.mem_cons, List.not_mem_nil, or_false] at hi
    rcases hi with rfl | rfl | rfl | rfl | rfl <;> exact frameRow_next (reqRow_T hp _)
  · have before : s.sameStore q := ((takeFrame_sameStore s p.val f).trans ⟨rfl, rfl⟩).trans (delivered_sameStore _ p.val f)
    have kept : s.bytesKept (· = a) q := bytesKept_of_sameStore (bytesKept_refl s _ hwf) before
    refine State.bytesKept.byteKept (P := (· = a)) ?_ rfl
    show s.bytesKept (· = a) (if _ then _ else _)
    split
    · next ok =>
      refine bytesKept_of_sameStore (bytesKept_write kept _ _ _ ?_) (respond_sameStore ..)
      rintro x hx _ rfl
      rw [List.length_map] at hx
      exact out (by simpa using ok) x hx
    · exact bytesKept_of_sameStore kept ((refuse_sameStore ..).trans (respond_sameStore ..))
  · exact response_answers (typ := 1) _ (served hp ht) (by simpa using hr)
  · exact response_answers (typ := 3) _ (served hp ht) (by simpa using hr)
  · exact response_unasked (typ := 1) _ (served hp ht) (by simpa using hr)
  · exact response_unasked (typ := 3) _ (served hp ht) (by simpa using hr)

/-- Settles O53: each kind of record by the receive path's own cases. -/
theorem recordsArrive : Obligations.RecordsArrive := by
  intro s r clk q
  have heads : q.fab = s.fab := charge_fab ..
  refine ⟨fun hp i hi => ?_, fun hp hst free => ?_, fun hp hst behind x hx => ?_, ⟨fun absent => ?_, fun e entry late => ?_⟩,
    ⟨fun absent => ?_, fun e entry late => ?_⟩, fun w x hx => ?_⟩
  · simp only [List.mem_cons, List.not_mem_nil, or_false] at hi
    rcases hi with rfl | rfl | rfl | rfl <;> exact frameRow_next (recRow_T hp _)
  · rw [← heads] at free
    have row (kind : Nat) : s.opRecord kind r clk.val = q.arrive kind r := recRow_charges hp hst _
    refine ⟨frameRow_next ?_, frameRow_next ?_, frameRow_next ?_, fun t ready placed => frameRow_next ?_, fun waits => frameRow_next ?_⟩
    · exact (row 0).trans (arrive_placed hp (by decide) free (ringWaits_other (by decide) _) rfl)
    · exact (row 1).trans (arrive_placed hp (by decide) free (ringWaits_other (by decide) _) rfl)
    · exact (row 3).trans (arrive_placed hp (by decide) free (ringWaits_other (by decide) _) rfl)
    · exact (row 2).trans (arrive_placed hp (by decide) free ready placed)
    · exact (row 2).trans (arrive_waits hp (by decide) free waits)
  · have row (kind : Nat) : ∃ t, (.next (s.keepFrame (s.opRecord kind r clk.val)) : Host.Outcome State Fault Refusal) = .next t
        ∧ t.fab.heads = s.fab.heads ++ [(kind, r)] ∧ t.mem = s.mem := by
      have waits : s.opRecord kind r clk.val = { q with fab := { q.fab with heads := q.fab.heads ++ [(kind, r)] } } :=
        (recRow_charges hp hst _).trans (arrive_behind kind (heads ▸ behind))
      refine ⟨_, frameRow_next waits, ?_, ?_⟩
      · rw [← heads]; rfl
      · exact charge_mem ..
    simp only [List.mem_cons, List.not_mem_nil, or_false] at hx
    rcases hx with rfl | rfl | rfl | rfl <;> exact row _
  · simp only [State.tokenIn, absent]
  · simp only [State.tokenIn, entry]
    rcases late with h | h <;> simp [h]
  · simp only [State.returnIn, absent]
  · simp only [State.returnIn, entry]
    rcases late with h | h <;> simp [h]
  · exact frameRow_next (by simp only [State.opHoldPlace, hx])

end Sys2Proof.Machine

/-!
SUPPORT and settled statements of 02_time.md: hall time at reset, at a boundary, in the transitions of Table 2.4, and its markers.
-/
namespace Sys2Proof.Machine

/-! ## Reset and markers -/

/-- Settles O4: each part is the value of a field of the reset state. -/
theorem resetState : Obligations.ResetState := by
  refine ⟨rfl, rfl, rfl, rfl, rfl, rfl, fun w _ => ?_, fun p _ => rfl, rfl, rfl, ?_, rfl, rfl⟩
  · simp [State.reset, State.enabled, State.pr, State.wing, Tab.find, Tab.cnt, bit]
  intro k hk
  have small : unitKey 0 k / 1024 = 0 ∧ unitKey 0 k % 208 = k % 208 := by unfold unitKey; omega
  show (unitDefault (unitKey 0 k)).hw = _
  obtain ⟨kind, number⟩ := small
  by_cases spare : k % 208 < 200
  · simp [unitDefault, kind, number, spare, Nat.not_le.2 spare]
  · simp [unitDefault, kind, number, spare, Nat.not_lt.1 spare]

/-- The confinement of a marker leaves a state whose clk lies in the tread. -/
theorem keepMarker_self {s : State} (h : s.time.phase < treadClk) : s.keepMarker s = s := by
  simp only [State.keepMarker, Nat.mod_eq_of_lt h]

/-- Settles O23: the row replaces its own port's history, and other ports' entries of the table stay. -/
theorem markerIsKept : Obligations.MarkerIsKept := by
  intro s p m clk eighth
  refine ⟨fun marks free => ⟨_, rfl, ?_⟩, fun off h => ?_⟩
  · simp only [State.opMarker, marks, free, Bool.not_true, Bool.or_self, Bool.false_eq_true, if_false]
    refine ⟨?_, ?_, ?_, ?_, ?_, fun q hq => ?_⟩
    all_goals simp only [TimeSt.mark, State.keepMarker, find_set_same, Option.getD_some]
    · rfl
    · rfl
    · rfl
    · rw [find_set_ne _ _ _ _ hq]; rfl
  · have idle : s.opMarker p.val m clk.val eighth.val = s := by
      unfold State.opMarker
      refine if_pos ?_
      rcases off with off | off <;> simp [off]
    show Host.Outcome.next (s.keepMarker (s.opMarker p.val m clk.val eighth.val)) = _
    rw [idle, keepMarker_self h]

/-! ## The tread number -/

/-- The confinement of a boundary leaves the state alone. -/
theorem keepBoundary_self (s : State) : s.keepBoundary s = s := rfl

/-- The boundary that ends a gap keeps the number that the tread has in the gap. -/
theorem gapEnd_tread {s : State} {n : Nat} (h : s.time.inGap = some n) : s.gapEnd.time.tread = s.time.tread := by
  simp [State.gapEnd, h]

/-- Outside a gap the boundary moves the tread number on. -/
theorem gapEnd_advance {s : State} (h : s.time.inGap = none) : s.gapEnd = s.advanceTread := by
  simp [State.gapEnd, h]

/-- With no step due the number grows by one. -/
theorem advanceTread_next {s : State} (h : s.stepTarget = none) : s.advanceTread.time.tread = treadAdd s.time.tread 1 := by
  simp [State.advanceTread, h]

/-- A step gives its number, unless it goes back and waits for a loaded flight. -/
theorem advanceTread_step {s : State} {n d : Nat} {back : Bool} (h : s.stepTarget = some (n, d, back)) :
    s.advanceTread.time.tread = if (back && s.anyLoaded) = true then treadAdd s.time.tread 1 else n := by
  simp only [State.advanceTread, h]
  split <;> rfl

/-- Settles O20: by the branches of the boundary, and the number that its first part sets. -/
theorem treadAdvances : Obligations.TreadAdvances := by
  intro s e
  have row : exec (.treadBoundary e) s = .next (s.keepBoundary (s.opBoundary e)) := rfl
  rw [row]
  refine ⟨fun crossed => ?_, fun fresh off => ?_, fun fresh gap => ⟨?_, rfl, rfl⟩, fun fresh on noGap => ?_⟩
  · simp only [State.opBoundary, crossed, if_true]; rfl
  · have noGap : s.gapHere e = false := by simp [State.gapHere, off]
    simp only [State.opBoundary, fresh, noGap, State.cross, off, if_true, Bool.false_eq_true, if_false, keepBoundary_self]
  · simp only [State.opBoundary, fresh, gap, if_true, Bool.false_eq_true, if_false]
  · simp only [State.opBoundary, fresh, noGap, Bool.false_eq_true, if_false]
    obtain ⟨tread, phase⟩ := cross_time s e on
    refine ⟨_, rfl, rfl, fun n inGap => ?_, fun out => ?_, fun out noStep => ?_, fun n d back out step => ?_⟩
    · exact tread.trans (gapEnd_tread inGap)
    · exact phase.trans (by rw [gapEnd_advance out]; rfl)
    · exact tread.trans (by rw [gapEnd_advance out, advanceTread_next noStep])
    · exact tread.trans (by rw [gapEnd_advance out, advanceTread_step step])

/-! ## Rows that stand for an action of the coming boundary -/

section
variable {s : State} {e : BoundaryEnv}

/-- A row whose action is due carries the whole boundary out. -/
theorem dueRow_crosses (fresh : s.time.crossed = false) (on : s.boot.st ≠ 0) {due : Bool} (h : due = true) :
    s.keepBoundary (s.boundaryRow e due) = s.crossedBy e := by
  rw [h, boundaryRow_due e fresh on]; rfl

/-- A row whose action is not due, or whose boundary has been carried out, changes nothing. -/
theorem dueRow_idles {due : Bool} (h : due = false ∨ s.time.crossed = true) : s.keepBoundary (s.boundaryRow e due) = s := by
  rw [boundaryRow_no s e h]; rfl

/-- Where no device reset is due, action 3 leaves the start-up state. -/
theorem resetAction_boot_st {x : State} (h : (x.boot.st = 5 && (x.outOp 0x602).any x.isDue) = false) (pre : State → Nat → State) :
    (x.resetAction pre).boot.st = x.boot.st := by
  unfold State.resetAction
  split
  · rfl
  · next ready =>
    have none_due : ¬(x.outOp 0x602).any x.isDue = true := by simpa [not_not.1 ready] using h
    rw [if_neg none_due]

/-- So do actions 1 to 3 of a boundary at which none is due. -/
theorem boundary3_boot_of_not_resetDue (h : s.resetDue e = false) : (s.boundary3 e).boot.st = s.boot.st := by
  refine (resetAction_boot_st h State.resetPre).trans ?_
  rw [action2_boot, boundaryFirst_boot]

/-- Where no device reset is due, the boundary leaves the unit that the move of Table 2.4 makes of the one it judges. -/
theorem crossedBy_moved (on : s.boot.st ≠ 0) (h : s.resetDue e = false) :
    ∃ num fv sent, (s.crossedBy e).time =
      { ((s.judged e).time.moved num (s.judged e).htEval).shown fv with sent := sent, crossed := true } := by
  have same : (s.cross e).boot.st = s.boot.st := by
    rw [State.cross, if_neg on, boundaryLast_boot, boundary3_boot_of_not_resetDue h]
  obtain ⟨num, fv, sent, ht⟩ := cross_moved s e on same
  refine ⟨num, fv, sent, ?_⟩
  show { (s.cross e).time with crossed := true } = _
  rw [ht]

end

section
variable (t : TimeSt) (num fv p : Nat)

/-- An entry to LOCKED under a parent, as the registers show it: HOPS is one more than the parent's. -/
theorem shown_moved_lock : let x := (t.moved num (.lock p)).shown fv
    x.lock = 2 ∧ x.parent = p ∧ x.hops = min 63 ((t.lastMsg p).hops + 1) ∧ x.tread = t.tread :=
  ⟨rfl, rfl, ite_self _, rfl⟩

/-- An entry to ACQUIRE under a parent: the step is still to be made. -/
theorem shown_moved_acquire (lost rconf : Bool) : let x := (t.moved num (.acquire p lost rconf)).shown fv
    x.lock = 1 ∧ x.parent = p ∧ x.stepMade = false ∧ x.tread = t.tread :=
  ⟨rfl, rfl, rfl, rfl⟩

theorem shown_moved_toHoldover : let x := (t.moved num .toHoldover).shown fv
    x.lock = 3 ∧ x.parent = 15 ∧ x.tread = t.tread :=
  ⟨rfl, rfl, rfl⟩

/-- An entry to FREE shows no parent and 63 hops. -/
theorem shown_moved_toFree (lost : Bool) : let x := (t.moved num (.toFree lost)).shown fv
    x.lock = 0 ∧ x.parent = 15 ∧ x.hops = 63 ∧ x.tread = t.tread :=
  ⟨rfl, rfl, rfl, rfl⟩

end

/-- Settles O22: the row of the due transition carries the boundary out, whose unit is the one that the move makes, as its registers show it. -/
theorem hallTimeMoves : Obligations.HallTimeMoves := by
  intro s e fresh on y m u
  have crossed : u.time.crossed = true := rfl
  have carries {is : HtMove → TimeSt → Bool} (h : is m y.time = true) : s.keepBoundary (s.boundaryRow e (s.htDue e is)) = u :=
    dueRow_crosses fresh on h
  have moved (h : s.resetDue e = false) : ∃ num fv sent, u.time = { (y.time.moved num m).shown fv with sent := sent, crossed := true } :=
    crossedBy_moved on h
  have idles {is : HtMove → TimeSt → Bool} (h : is m y.time = false) : s.keepBoundary (s.boundaryRow e (s.htDue e is)) = s :=
    dueRow_idles (.inl h)
  clear_value u m y
  refine ⟨crossed, ?acquired, ?lost, ?parent, ?holdover, ?expired, ?sourceless, ?stays⟩
  case acquired =>
    rintro p lock rfl
    refine ⟨congrArg _ (carries (by simp [lock, HtMove.isLock])), fun h => ?_⟩
    obtain ⟨num, fv, sent, ht⟩ := moved h
    rw [ht]
    exact shown_moved_lock y.time num fv p
  case lost =>
    rintro p l r lock parent rfl
    refine ⟨congrArg _ (carries (by simp [lock, HtMove.isAcquire, parent])), fun h => ?_⟩
    obtain ⟨num, fv, sent, ht⟩ := moved h
    rw [ht]
    exact shown_moved_acquire y.time num fv p l r
  case parent =>
    rintro p lock rfl
    refine ⟨congrArg _ (carries (by simp [lock, HtMove.isLock])), fun h => ?_⟩
    obtain ⟨num, fv, sent, ht⟩ := moved h
    obtain ⟨locked, parent, _, tread⟩ := shown_moved_lock y.time num fv p
    rw [ht]
    exact ⟨locked, parent, tread⟩
  case holdover =>
    rintro lock rfl
    refine ⟨congrArg _ (carries (by simp [lock])), fun h => ?_⟩
    obtain ⟨num, fv, sent, ht⟩ := moved h
    rw [ht]
    exact shown_moved_toHoldover y.time num fv
  case expired =>
    rintro lock hold rfl
    refine ⟨congrArg _ (carries (by simp [lock, hold])), fun h => ?_⟩
    obtain ⟨num, fv, sent, ht⟩ := moved h
    rw [ht]
    exact shown_moved_toFree y.time num fv true
  case sourceless =>
    rintro lock src rfl
    refine ⟨congrArg _ (carries (by simp [lock, src])), fun h => ?_⟩
    obtain ⟨num, fv, sent, ht⟩ := moved h
    rw [ht]
    exact shown_moved_toFree y.time num fv false
  case stays =>
    rintro rfl i hi
    simp only [List.mem_cons, List.not_mem_nil, or_false] at hi
    rcases hi with rfl | rfl | rfl | rfl | rfl <;> exact congrArg _ (idles (by simp [HtMove.isLock, HtMove.isAcquire]))

end Sys2Proof.Machine

/-!
SUPPORT and the settled statement of the rows of a boundary (02_time.md Table 2.2): each row's own action, and the row as the whole boundary.
-/
namespace Sys2Proof.Machine

/-! ## Slots of a core -/

@[simp] theorem run_setRun (x : Core) (g : Bool) (r : Option Run) : (x.setRun g r).run g = r := by
  cases g <;> rfl

/-- A slot that was emptied holds no run. -/
@[simp] theorem emptied_runAt (s : State) (core : Nat) (g : Bool) : (s.modCore core fun x => x.setRun g none).runAt core g = none := by
  simp only [State.runAt, modCore_same, run_setRun]

/-- Work that is abandoned leaves its slot empty. -/
theorem abandon_runAt (s : State) (core : Nat) (g : Bool) : (s.abandon core g).runAt core g = none := by
  unfold State.abandon
  dsimp only
  split
  · exact emptied_runAt ..
  · next none_runs => exact none_runs

/-! ## Each row's action -/

section
variable {s : State}

/-- Work in its 16th boundary is abandoned (R55). -/
theorem ageRun_late {core : Nat} {g : Bool} {r : Run} (h : s.runAt core g = some r) (late : 16 ≤ r.late) :
    s.ageRun core g = s.abandon core g := by
  simp only [State.ageRun, h, ge_iff_le, if_pos late]

/-- The flight slots of a wing are as they were last set. -/
@[simp] theorem setFl_fl (w : Nat) (f : Flights) : ((s.setFl w f).job w).fl = f := by
  simp only [State.setFl, modJob_same]

/-- With no command outstanding, a flight whose last cycle ends is DONE (R52). -/
theorem flightAction_done {w : Nat} (last : ((s.job w).fl.cycle s.tread).2.2 = true) (idle : s.flightCmd w = none) :
    ((s.flightAction w).job w).fl.fstate = 3 := by
  rcases hc : (s.job w).fl.cycle s.tread with ⟨f, ended, l⟩
  have l_true : l = true := by rw [hc] at last; exact last
  have waits (t : State) (ht : t = if f = (s.job w).fl then s else s.setFl w f) : t.flightCmd w = none := by
    rw [ht]
    split
    · exact idle
    · exact idle
  simp only [State.flightAction, hc, waits _ rfl, l_true, if_true, setFl_fl]

/-- A turn past its window ends with LAND_TIMEOUT and no landing (R294). -/
theorem turnStep_timeout {w : Nat} {l : Land} (land : (s.job w).turn.land = some l) (sound : (s.job w).turn.failed = [])
    (past : treadReached (treadAdd l.t l.h) s.tread = true) : s.turnStep w = .timeout := by
  simp only [State.turnStep, land, sound, past, List.isEmpty_nil, Bool.not_true, Bool.false_eq_true, if_false, if_true]

/-- A quiesce that has started and is past its window ends late (R349). -/
theorem quiesceStep_late {c : Cmd} (due : s.isDue c = true) (started : c.prog ≠ 0)
    (past : treadReached (treadAdd c.eff (c.arg 0)) s.tread = true) :
    s.quiesceStep c = (s.quiesceEnd c.wing true).finish c St.quiesceLate [] := by
  simp only [State.quiesceStep, due, started, past, Bool.not_true, Bool.false_eq_true, if_false, if_true]

/-- An OPEN TRET round past its DEADLINE is closed (R264). -/
theorem tretClose_past {w x : Nat} {y : XchEnt} (ent : s.xchEnt w x 2 = some y) (opened : y.state = 1)
    (past : treadReached y.deadline s.tread = true) : s.tretClose w x = (s.xchSee w x).xchState w x 2 y.round := by
  simp only [State.tretClose, ent, opened, past, decide_true, Bool.and_self, if_true]

/-- Action 2 has written the event of a unit whose divergence is due (R380). -/
theorem told_of_divergeDue {e : BoundaryEnv} {key : Nat} (h : s.divergeDue e key = true) :
    (((s.boundaryFirst e).action2a s.ending).unit key).told = true := by
  simp only [State.divergeDue, Bool.and_eq_true] at h
  exact h.2

/-- Work in its 16th boundary makes its core's ENTRY_ABANDON due. -/
theorem abandonDue_of_late {e : BoundaryEnv} {core : Nat} {g : Bool} {r : Run}
    (h : (((s.boundary3 e).boundary4 s.ending).core core).run g = some r) (late : 16 ≤ r.late) : s.abandonDue e core = true := by
  refine List.any_eq_true.2 ⟨g, ?_, ?_⟩
  · cases g <;> decide
  · simp only [h, ge_iff_le, late, decide_true]

/-- The sweep runs in the landing tread (R292). -/
theorem opSweep_in_land {w : Nat} {l : Land} (land : (s.job w).turn.land = some l) (now : l.t = s.tread) :
    s.opSweep w = (s.myCopies w (s.pendEnts w)).foldl (fun s x =>
        (upFrom 0 x.2.1.nb).foldl (fun s b => if s.turnBit w (x.2.2 + b) then s else s.wantRaw w (x.2.2 + b) x.1 b none) s)
        ((s.at_ 32).fetchIn w (s.turnMap w) (mapBytes (s.job w).turn.expect)) := by
  simp only [State.opSweep, land, now, ne_eq, not_true_eq_false, if_false]

end

/-- Settles O24: a due row is the boundary, one that is not due does nothing, and each action is the one of its rule. -/
theorem treadRows : Obligations.TreadRows := by
  intro s e core w xid kind unit
  have row {due : Bool} (fresh : s.time.crossed = false) (on : s.boot.st ≠ 0) (h : due = true) :
      (.next (s.keepBoundary (s.boundaryRow e due)) : Host.Outcome State Fault Refusal) = .next (s.crossedBy e) :=
    congrArg _ (dueRow_crosses fresh on h)
  have idle {due : Bool} (h : due = false ∨ s.time.crossed = true) :
      (.next (s.keepBoundary (s.boundaryRow e due)) : Host.Outcome State Fault Refusal) = .next s := congrArg _ (dueRow_idles h)
  refine ⟨fun fresh on => ⟨rfl, row fresh on, row fresh on, row fresh on, row fresh on, row fresh on, row fresh on⟩,
    idle, idle, idle, idle, idle, idle, ?_⟩
  refine ⟨fun r g => abandonDue_of_late, fun x r g h late => ⟨ageRun_late h late, abandon_runAt ..⟩, fun h => h,
    fun x => flightAction_done, fun x l land sound past => ⟨turnStep_timeout land sound past, ?_⟩, fun x c => quiesceStep_late,
    fun x y => tretClose_past, told_of_divergeDue, fun l land now => congrArg _ (congrArg _ (opSweep_in_land land now))⟩
  simp only [State.turnAction]

end Sys2Proof.Machine

/-!
SUPPORT. Accesses of an entry to memory: what a read and a write leave alone, how many bytes a read delivers, and which bytes the pieces of a
range reach (spec/06_memory.md R129 to R137).
-/
namespace Sys2Proof.Machine

/-! ## Ranges -/

theorem length_upFrom (lo n : Nat) : (upFrom lo n).length = n := by
  induction n generalizing lo with
  | zero => rfl
  | succ n ih => simp only [upFrom, List.length_cons, ih]

/-- The pieces of a range lie in it. -/
theorem linePieces_within {a n : Nat} {p : Nat × Nat} (h : p ∈ linePieces a n) : a ≤ p.1 ∧ p.1 + p.2 ≤ a + n := by
  unfold linePieces at h
  split at h
  · cases h
  · obtain ⟨l, hl, rfl⟩ := List.mem_map.1 h
    have bounds := mem_upFrom.1 hl
    dsimp only
    omega

/-- The pieces of a range in the lines from `l` on, up to the end of the range, cover it from its part of line `l`. -/
theorem sum_linePieces_from (a n l m : Nat) (hl : a < (l + 1) * 256) (hm : ∀ i, l ≤ i → i < l + m → i * 256 < a + n) :
    (((upFrom l m).map fun i => min (a + n) ((i + 1) * 256) - max a (i * 256)).sum) + min (a + n) (max a (l * 256))
      = min (a + n) (max a ((l + m) * 256)) := by
  induction m generalizing l with
  | zero => simp [upFrom]
  | succ m ih =>
    have here := hm l (Nat.le_refl l) (by omega)
    have next_line : a < (l + 1 + 1) * 256 := hl.trans_le (Nat.mul_le_mul_right 256 (Nat.le_succ _))
    have rest := ih (l + 1) next_line fun i hi hlt => hm i (by omega) (by omega)
    simp only [upFrom, List.map_cons, List.sum_cons]
    rw [show l + 1 + m = l + (m + 1) by omega] at rest
    rw [← rest]
    omega

/-- The pieces of a range have its bytes together. -/
theorem sum_linePieces (a n : Nat) : ((linePieces a n).map (·.2)).sum = n := by
  unfold linePieces
  split
  · next empty => rw [empty]; rfl
  · next some_bytes =>
    simp only [List.map_map, Function.comp_def]
    have total := sum_linePieces_from a n (a / 256) ((a + n - 1) / 256 - a / 256 + 1) (by omega) (by omega)
    omega

/-! ## Reads and writes -/

section
variable (s : State)

theorem readPiece_apart (r : Req) (a n : Nat) : (s.readPiece r a n).2.apart = s.apart := by
  unfold State.readPiece
  split
  · rfl
  · exact touch_apart ..
  · split
    · exact memRecord_apart ..
    · exact forgetTimed_apart ..
    · split
      · exact forgetTimed_apart ..
      · exact (touch_apart ..).trans (galAccess_apart ..)

/-- A read leaves alone what accesses leave alone. -/
theorem read_apart (r : Req) (a n : Nat) : (s.read r a n).2.apart = s.apart := by
  unfold State.read
  refine List.foldlRecOn (motive := fun acc : List PByte × State => acc.2.apart = s.apart) _ _ rfl fun acc h p _ => ?_
  exact (readPiece_apart ..).trans ((chargeMem_apart ..).trans h)

/-- A write leaves alone what accesses leave alone. -/
theorem write_apart (r : Req) (a : Nat) (bs : List PByte) : (s.write r a bs).apart = s.apart :=
  apart_foldl _ _ (fun _ _ => (writePiece_apart ..).trans (chargeMem_apart ..)) s

theorem readPiece_length (r : Req) (a n : Nat) : (s.readPiece r a n).1.length = n := by
  have bytes (m : Mem) : (m.read a n).length = n := by simp only [Mem.read, List.length_map, length_upFrom]
  unfold State.readPiece
  split
  · exact List.length_replicate
  · exact bytes _
  · split
    · exact List.length_replicate
    · exact List.length_replicate
    · split
      · exact List.length_replicate
      · exact bytes _

/-- A read delivers as many bytes as it asks for. -/
theorem read_length (r : Req) (a n : Nat) : (s.read r a n).1.length = n := by
  have grows (l : List (Nat × Nat)) : ∀ acc : List PByte × State, (l.foldl (fun (acc : List PByte × State) (p : Nat × Nat) =>
      let y := acc.2.place r p.1
      let (b, s') := (acc.2.chargeMem r y p.2 false).readPiece r y p.2
      (acc.1 ++ b, s')) acc).1.length = acc.1.length + (l.map (·.2)).sum := by
    induction l with
    | nil => exact fun acc => rfl
    | cons p l ih =>
      intro acc
      rw [List.foldl_cons, ih]
      simp only [List.length_append, readPiece_length, List.map_cons, List.sum_cons]
      omega
  refine (grows _ _).trans ?_
  simp only [List.length_nil, Nat.zero_add, sum_linePieces]

theorem fetchIn_apart (w a n : Nat) : (s.fetchIn w a n).apart = s.apart := apart_ite (read_apart ..) rfl

/-! ## Scale records -/

theorem sclRead_apart (w bank idx fmt : Nat) : (s.sclRead w bank idx fmt).2.apart = s.apart := by
  unfold State.sclRead
  split
  · rfl
  · dsimp only
    split
    · exact read_apart ..
    · exact read_apart ..

theorem sclBad_apart (r : Run) (b : Nat) : (s.sclBad r b).2.apart = s.apart := by
  unfold State.sclBad
  split
  · exact sclRead_apart ..
  · rfl

/-- Raising AMAX_CUR reads and writes scale records only. -/
theorem sclRaise_apart (r : Run) : (s.sclRaise r).apart = s.apart := by
  refine apart_foldl _ _ (fun s x => ?_) s
  dsimp only
  split
  · rfl
  · split
    · exact (write_apart ..).trans (read_apart ..)
    · exact read_apart ..

end

/-- A scale record is read like any other bytes. -/
theorem bytesKept_sclBad {s t : State} {P : Nat → Prop} (h : s.bytesKept P t) (r : Run) (b : Nat) : s.bytesKept P (t.sclBad r b).2 := by
  unfold State.sclBad State.sclRead
  split
  · dsimp only
    split
    · exact h
    · split
      · exact bytesKept_read h ..
      · exact bytesKept_read h ..
  · exact h

/-! ## What accesses leave alone of cores, tags and requests -/

section
variable {s t : State} (h : t.apart = s.apart)
include h

theorem apart_cores : t.cores = s.cores := congrArg (fun x : State × (Nat → Wing) × (Nat → CxlSt) => x.1.cores) h
theorem apart_crecs : t.crecs = s.crecs := congrArg (fun x : State × (Nat → Wing) × (Nat → CxlSt) => x.1.crecs) h
theorem apart_time : t.time = s.time := congrArg (fun x : State × (Nat → Wing) × (Nat → CxlSt) => x.1.time) h
theorem apart_pfe : t.pfe = s.pfe := congrArg (fun x : State × (Nat → Wing) × (Nat → CxlSt) => x.1.pfe) h

theorem apart_core (c : Nat) : t.core c = s.core c := by rw [State.core, apart_cores h]; rfl

theorem apart_me : t.me = s.me := by rw [State.me, State.pf, apart_pfe h]; rfl

theorem apart_blkTag (w b : Nat) : t.blkTag w b = s.blkTag w b := by
  simp only [State.blkTag, State.tagOf, apart_me h, apart_wr h]

theorem apart_blockReq (r : Run) (k : Nat) : t.blockReq r k = s.blockReq r k := by
  simp only [State.blockReq, State.entryReq, State.ways, apart_pr h]

theorem apart_halfBase (core : Nat) (g : Bool) (half : Nat) : t.halfBase core g half = s.halfBase core g half := by
  simp only [State.halfBase, apart_core h]

theorem apart_sramRefused (core : Nat) (g : Bool) (a n : Nat) : t.sramRefused core g a n = s.sramRefused core g a n := by
  simp only [State.sramRefused, apart_core h]

end

/-! ## What the clk of an event leaves alone

It changes no mapping, tag or slot. A proof `(rfl)` keeps `simp` from using its fact by unfolding alone, which leaves the decisions of an `if` as they
were. -/

section
variable (s : State) (clk : Nat)

theorem at_wing (w : Nat) : (s.at_ clk).wing w = s.wing w := (rfl)
theorem at_wr (w off : Nat) : (s.at_ clk).wr w off = s.wr w off := (rfl)
theorem at_pr (w off : Nat) : (s.at_ clk).pr w off = s.pr w off := (rfl)
theorem at_me : (s.at_ clk).me = s.me := (rfl)
theorem at_hbmEnd : (s.at_ clk).hbmEnd = s.hbmEnd := (rfl)
theorem at_cxlPort (p : Nat) : (s.at_ clk).cxlPort p = s.cxlPort p := (rfl)

theorem at_tagOf (w a : Nat) : (s.at_ clk).tagOf w a = s.tagOf w a := by
  simp only [State.tagOf, at_wr]

theorem at_blkTag (w b : Nat) : (s.at_ clk).blkTag w b = s.blkTag w b := by
  simp only [State.blkTag, at_tagOf, at_me]

theorem at_blockReq (r : Run) (k : Nat) : (s.at_ clk).blockReq r k = s.blockReq r k := by
  simp only [State.blockReq, State.entryReq, State.ways, at_pr]

theorem at_region (a : Nat) : (s.at_ clk).region a = s.region a := by
  simp only [State.region, at_hbmEnd, at_cxlPort]

theorem at_windows (w : Nat) : (s.at_ clk).windows w = s.windows w := by
  simp only [State.windows, State.enabled, at_pr]

theorem at_inWindowK (w : Nat) (kinds : List Nat) (a n : Nat) : (s.at_ clk).inWindowK w kinds a n = s.inWindowK w kinds a n := by
  simp only [State.inWindowK, State.mappedAs, at_windows, at_region, at_cxlPort]

theorem at_ctxGeom (w : Nat) : (s.at_ clk).ctxGeom w = s.ctxGeom w := by
  simp only [State.ctxGeom, State.inHbm, at_inWindowK, at_wing, at_wr]
  rfl

theorem at_activeSlot (w : Nat) : (s.at_ clk).activeSlot w = s.activeSlot w := by
  simp only [State.activeSlot, at_wing]

theorem at_mapAddr (w bank a : Nat) : (s.at_ clk).mapAddr w bank a = s.mapAddr w bank a := by
  simp only [State.mapAddr, State.ctxSwap, State.bankAddr, at_ctxGeom, at_activeSlot, at_wr]

theorem at_place (r : Req) (a : Nat) : (s.at_ clk).place r a = s.place r a := by
  simp only [State.place, State.bankAddr, at_mapAddr, at_wr]

end

/-- A block's address names this module, or no module (R26). -/
theorem near_of_here {m me : Nat} (h : m = me ∨ m = 0x1FFFF) : (decide (m = me) || decide (m = 0x1FFFF)) = true := by
  simpa only [Bool.or_eq_true, decide_eq_true_eq] using h

end Sys2Proof.Machine

/-!
SUPPORT and the settled statement of the steps of a stream (02_time.md; spec/03_core.md R54, R80, R81; spec/07_streams_dma.md R152 to R157):
the runs of a core's slots through the issue, the retiring and the end of an entry's blocks.
-/
namespace Sys2Proof.Machine

/-! ## Runs in slots -/

section
variable (s : State) (core : Nat) (g : Bool)

@[simp] theorem modRun_runAt (f : Run → Run) : (s.modRun core g f).runAt core g = (s.runAt core g).map f := by
  simp only [State.runAt, State.modRun, modCore_same, run_setRun]

theorem runAt_of_cores {t : State} (h : t.cores = s.cores) : t.runAt core g = s.runAt core g := by
  rw [State.runAt, State.core, h]; rfl

/-- An entry that has ended leaves its slot empty. -/
theorem endRun_runAt (status : Nat) : (s.endRun core g status).runAt core g = none := by
  unfold State.endRun
  split
  · next none_runs => exact none_runs
  · exact emptied_runAt ..

/-- An entry that stops with FAULT leaves its slot empty. -/
theorem faultRun_runAt : (s.faultRun core g).runAt core g = none := endRun_runAt ..

end

/-- The entry in a slot, if it is still there, has a property. -/
def State.slotHas (s : State) (core : Nat) (g : Bool) (Q : Run → Prop) : Prop := ∀ u, s.runAt core g = some u → Q u

section
variable {s t : State} {core : Nat} {g : Bool} {Q : Run → Prop}

theorem slotHas_of_cores (h : s.slotHas core g Q) (e : t.cores = s.cores) : t.slotHas core g Q :=
  fun u hu => h u ((runAt_of_cores s core g e).symm.trans hu)

theorem slotHas_faultRun : (s.faultRun core g).slotHas core g Q := fun u hu => by
  rw [faultRun_runAt] at hu; cases hu

theorem slotHas_modRun {f : Run → Run} (h : ∀ r, s.runAt core g = some r → Q (f r)) : (s.modRun core g f).slotHas core g Q := fun u hu => by
  rw [modRun_runAt] at hu
  obtain ⟨r, hr, rfl⟩ := Option.map_eq_some_iff.1 hu
  exact h r hr

end

/-! ## What leaves the cores alone -/

/-- A choice between two states that both have the cores of a third. -/
theorem cores_ite {c : Prop} [Decidable c] {s t u : State} (h1 : t.cores = s.cores) (h2 : u.cores = s.cores) :
    (if c then t else u).cores = s.cores := iteInduction (motive := fun x : State => x.cores = s.cores) (fun _ => h1) fun _ => h2

section
variable (s : State)

/-- A fold whose every step leaves the cores alone leaves them alone. -/
theorem cores_foldl {β : Type} (l : List β) (f : State → β → State) (hf : ∀ s x, (f s x).cores = s.cores) (s : State) :
    (l.foldl f s).cores = s.cores := by
  induction l generalizing s with
  | nil => rfl
  | cons x l ih => rw [List.foldl_cons, ih, hf]

theorem fetchIn_cores (w a n : Nat) : (s.fetchIn w a n).cores = s.cores := apart_cores (fetchIn_apart ..)

/-! Tags (R234). -/

theorem tagWrite_cores (w t state len addr : Nat) : (s.tagWrite w t state len addr).cores = s.cores :=
  cores_ite (apart_cores (write_apart ..)) rfl

theorem trnIrq_cores (w : Nat) : (s.trnIrq w).cores = s.cores := cores_ite rfl rfl

theorem trnLate_cores (w : Nat) : (s.trnLate w).cores = s.cores := cores_ite rfl (trnIrq_cores ..)

theorem trnFlag_cores (w step f : Nat) : (s.trnFlag w step f).cores = s.cores := cores_ite rfl (cores_ite (trnLate_cores ..) rfl)

theorem tagBad_cores (w t : Nat) (e : TagEnt) : (s.tagBad w t e).cores = s.cores := (trnFlag_cores ..).trans (tagWrite_cores ..)

theorem tagRecompute_cores (w t : Nat) : (s.tagRecompute w t).cores = s.cores := tagWrite_cores ..

/-- Where a STORE to a tag goes is the stash's matter. -/
theorem tagStore_cores (w t step n : Nat) (again : Bool) : (s.tagStore w t step n again).2.cores = s.cores := by
  unfold State.tagStore
  dsimp only
  split
  · exact trnLate_cores ..
  · split
    · rfl
    · split
      · exact cores_ite rfl (tagBad_cores ..)
      · split
        · exact tagRecompute_cores ..
        · split
          · exact tagWrite_cores ..
          · exact tagWrite_cores ..
          · exact tagWrite_cores ..
          · exact tagRecompute_cores ..

/-! Requests to other modules (R323). -/

theorem enqueue_cores (dst wing pool q num cls : Nat) (fs : List Frame) : (s.enqueue dst wing pool q num cls fs).1.cores = s.cores := by
  unfold State.enqueue
  split
  · rfl
  · split
    · rfl
    · split <;> rfl

theorem answerPoison_cores (tag : Nat) : (s.answerPoison tag).cores = s.cores := by
  unfold State.answerPoison
  split <;> rfl

theorem remote_cores (w dw num own base dst addr n prio typ epoch : Nat) (data : Option (List PByte)) :
    (s.remote w dw num own base dst addr n prio typ epoch data).cores = s.cores := by
  have sent (s : State) (tag : Nat) (p : State × Bool) (hp : p.1.cores = s.cores) :
      (if p.2 then p.1 else p.1.answerPoison tag).cores = s.cores := cores_ite hp ((answerPoison_cores ..).trans hp)
  refine cores_foldl _ _ (fun s x => ?_) s
  exact sent s _ _ (enqueue_cores ..)

/-! Gallery warming (R157). -/

theorem nextEntry_cores (core : Nat) (g : Bool) : (s.nextEntry core g).2.cores = s.cores := by
  unfold State.nextEntry
  split
  · rfl
  · extract_lets now next fl
    split
    · split
      · rfl
      · extract_lets u e v
        have read : u.cores = s.cores := fetchIn_cores ..
        have guest : v.cores = s.cores := by
          unfold v
          split
          · exact (fetchIn_cores ..).trans read
          · exact read
        split
        · exact read
        · split
          · split <;> exact guest
          · exact read
    · rfl

theorem warmNext_cores (core : Nat) (g : Bool) : (s.warmNext core g).cores = s.cores := by
  have next := nextEntry_cores s core g
  unfold State.warmNext
  split
  · next u hu => rw [hu] at next; exact next
  · next w e u hu =>
    rw [hu] at next
    refine (cores_foldl _ _ (fun _ _ => apart_cores (read_apart ..)) _).trans ?_
    exact (fetchIn_cores ..).trans next

end

end Sys2Proof.Machine

/-!
The settled statement of the steps of a stream (spec/03_core.md R54, R80, R81; spec/07_streams_dma.md R152 to R157): a block's issue, its retiring
with what it leaves of memory, and the end of an entry's work.
-/
namespace Sys2Proof.Machine

/-! ## Issue (R155) -/

/-- An entry whose block `k` was issued in state `b` at a clk: under the ways and windows then in force (R335), a STORE's clk kept (R54). -/
def State.runIssued (b : State) (k clk : Nat) (v : Run) : Run :=
  { v with issued := v.issued ++ [k], endClk := if blkDir (v.blks.getD k 0) = 1 then b.endClkAt clk else v.endClk
           via := Tab.set v.via k (b.ways v.wing, b.ctxSwap v.wing) }

section
variable {s : State} {core k clk : Nat} {g : Bool} {r v : Run}

theorem mem_runIssued : k ∈ (s.runIssued k clk v).issued := by simp [State.runIssued]

/-- The gallery warming behind an issue (R157) leaves the cores. -/
theorem warmed_cores (c : Run → Bool) (t : State) : (match t.runAt core g with
    | some r => if c r then t.warmNext core g else t
    | none => t).cores = t.cores := by
  split
  · exact cores_ite (warmNext_cores ..) rfl
  · rfl

/-- A block that may issue and passes its checks is issued; one without a tag, in this module, changes its entry in nothing else. -/
theorem opIssue_issued {b : State} {x : Nat} (hr : s.runAt core g = some r) (may : s.mayIssue r k clk = true)
    (hb : (s.at_ clk).beginRun core g = b) (hv : b.runAt core g = some v) (hx : v.blks.getD k 0 = x) (ok : b.blkRefused v x = false)
    (sram : blkDir x ≠ 2 → b.sramRefused core g (b.halfBase core g (blkHalf x) + blkLoff x) (blkLen x) = false) :
    (s.opIssue core g k clk).slotHas core g (fun u => k ∈ u.issued) ∧
    (blkAddr x / 2 ^ 47 = b.me ∨ blkAddr x / 2 ^ 47 = 0x1FFFF → b.blkTag v.wing x = none →
      (s.opIssue core g k clk).runAt core g = some (b.runIssued k clk v)) := by
  have free : (decide (blkDir x ≠ 2) && b.sramRefused core g (b.halfBase core g (blkHalf x) + blkLoff x) (blkLen x)) = false :=
    Bool.and_eq_false_imp.2 fun st => sram (of_decide_eq_true st)
  unfold State.opIssue
  simp -zeta only [hr, may, Bool.not_true, Bool.false_eq_true, if_false]
  extract_lets begun own
  obtain rfl : b = begun := hb.symm
  simp -zeta only [hv]
  rw [hx]
  extract_lets y dir m a base i n asked
  rw [if_neg (by rw [ok]; exact Bool.false_ne_true), if_neg (by rw [free]; exact Bool.false_ne_true)]
  have entry : i.runAt core g = some (begun.runIssued k clk v) := by
    unfold i State.runIssued
    rw [modRun_runAt, hv, hx]
    rfl
  have issued : i.slotHas core g fun u => k ∈ u.issued := fun u hu => by
    cases entry.symm.trans hu
    exact mem_runIssued
  have asks : asked.slotHas core g fun u => k ∈ u.issued := by
    unfold asked
    split
    · next t _ =>
      have stored : ((i.fetchIn v.wing (i.tagAddr v.wing t) 16).tagStore v.wing t v.step n (cwAgain v.cfg)).2.slotHas core g
          fun u => k ∈ u.issued := slotHas_of_cores issued ((tagStore_cores ..).trans (fetchIn_cores ..))
      split
      · split
        · split
          · exact slotHas_faultRun
          · exact slotHas_modRun stored
        · exact stored
      · exact issued
    · split
      · exact issued
      · have read : (if dir = 1 then i.sclBad v y else (false, i)).2.cores = i.cores := by
          split
          · exact apart_cores (sclBad_apart ..)
          · rfl
        refine slotHas_of_cores issued ((cores_foldl _ _ (fun s z => ?_) _).trans read)
        exact cores_ite ((remote_cores ..).trans (apart_cores (read_apart ..))) (remote_cores ..)
  refine ⟨slotHas_of_cores asks (warmed_cores (fun r => decide (dir = 0) && r.loadsIssued) asked), fun here noTag => ?_⟩
  refine (runAt_of_cores _ core g (warmed_cores (fun r => decide (dir = 0) && r.loadsIssued) asked)).trans (Eq.trans ?_ entry)
  have tag : i.blkTag v.wing y = none := noTag
  have near : (decide (m = i.me) || decide (m = 0x1FFFF)) = true := near_of_here here
  have asks_nothing : asked = i := by
    unfold asked
    simp only [tag, near, if_true]
  rw [asks_nothing]

end

/-! ## Retiring (R155) -/

/-- The entry with one more block retired. -/
def Run.retiring (k : Nat) (r : Run) : Run := { r with retired := r.retired ++ [k], blocks := r.blocks + 1 }

/-- A block that is issued, in its turn and answered may retire. -/
structure State.mayRetire (s : State) (core : Nat) (g : Bool) (k : Nat) (r : Run) : Prop where
  run : s.runAt core g = some r
  issued : k ∈ r.issued
  waits : k ∉ r.retired
  turn : s.inOrder r k = true
  answered : s.reqsDone (blockOwn (slotUnit core g) k) = true

theorem slotHas_retiring {s : State} {core k : Nat} {g : Bool} :
    (s.modRun core g (Run.retiring k)).slotHas core g fun u => k ∈ u.retired :=
  slotHas_modRun fun r _ => by simp [Run.retiring]

section
variable {s : State} {core k clk : Nat} {g : Bool} {r : Run} (h : s.mayRetire core g k r)
include h

theorem retire_passes : (!(r.issued.contains k) || r.retired.contains k || !s.inOrder r k
    || !s.reqsDone (blockOwn (slotUnit core g) k)) = false := by
  simp [h.issued, h.waits, h.turn, h.answered]

/-- A WARM retires when its lines have been read. -/
theorem opRetire_warm (dir : blkDir (r.blks.getD k 0) = 2) : s.opRetire core g k clk =
    ((s.at_ clk).read ((s.at_ clk).blockReq r k) (blkAddr (r.blks.getD k 0) % 2 ^ 47) (blkLen (r.blks.getD k 0))).2.modRun core g
      (Run.retiring k) := by
  simp only [State.opRetire, h.run, retire_passes h, dir, Bool.false_eq_true, if_false, if_true]
  rfl

/-- A STORE in this module retires when it is made. -/
theorem opRetire_store (dir : blkDir (r.blks.getD k 0) = 1)
    (here : blkAddr (r.blks.getD k 0) / 2 ^ 47 = s.me ∨ blkAddr (r.blks.getD k 0) / 2 ^ 47 = 0x1FFFF) :
    s.opRetire core g k clk = ((s.at_ clk).storeNow core g r k).modRun core g (Run.retiring k) := by
  have near := near_of_here ((at_me s clk).symm ▸ here)
  simp only [State.opRetire, h.run, retire_passes h, dir, near, Bool.false_eq_true, if_false, if_true]
  rfl

/-- A block of any kind that retires is marked so, unless the entry stops. -/
theorem opRetire_retired : (s.opRetire core g k clk).slotHas core g fun u => k ∈ u.retired := by
  unfold State.opRetire
  simp -zeta only [h.run]
  extract_lets b now mark m base scaled loaded
  rw [if_neg (by rw [retire_passes h]; exact Bool.false_ne_true)]
  have marked (t : State) : (mark t).slotHas core g fun u => k ∈ u.retired := slotHas_retiring
  split
  · exact marked _
  · split
    · split
      · exact marked _
      · split
        · exact slotHas_faultRun
        · exact marked _
    · split
      · exact slotHas_faultRun
      · split
        · exact slotHas_faultRun
        · exact marked _

end

/-! ## What a retiring block leaves of memory (R80, R131, R137) -/

/-- The ranges of a block that move lie in the block. -/
theorem moved_within {r : Run} {k : Nat} {x : Nat × Nat} (h : x ∈ r.moved k) : x.1 + x.2 ≤ blkLen (r.blks.getD k 0) := by
  unfold Run.moved at h
  extract_lets b start total m at h
  have span : m ≤ blkSpan b := Nat.min_le_right ..
  unfold blkSpan at span
  split at h
  · cases h
  · split at h
    · rw [List.mem_singleton.1 h]; simp [b]
    · split at h
      · cases h
      · split at h
        · next split =>
          rw [if_pos split] at span
          rcases List.mem_cons.1 h with rfl | h
          · show 0 + m ≤ blkLen b; omega
          · rw [List.mem_singleton.1 h]; show blkLen b / 2 + m ≤ blkLen b; omega
        · next whole =>
          rw [if_neg whole] at span
          rw [List.mem_singleton.1 h]; show 0 + m ≤ blkLen b; omega

section
variable {s t : State} {P : Nat → Prop} {core k : Nat} {g : Bool} {r : Run} (kept : s.bytesKept P t)
include kept

omit kept in
theorem sramRead_apart (a n : Nat) : (t.sramRead a n).2.apart = t.apart := read_apart ..

omit kept in
theorem sramRead_length (a n : Nat) : (t.sramRead a n).1.length = n := read_length ..

theorem bytesKept_sramRead (a n : Nat) : s.bytesKept P (t.sramRead a n).2 := bytesKept_read kept ..

/-- A change of an entry is none of memory. -/
theorem bytesKept_modRun (f : Run → Run) : s.bytesKept P (t.modRun core g f) := kept

/-- Bytes put into SRAM keep every byte outside their range: SRAM is addressed as it stands. -/
theorem bytesKept_sramWrite (a : Nat) (bs : List PByte) (out : ∀ x, P x → ¬(a ≤ x ∧ x < a + bs.length)) :
    s.bytesKept P (t.sramWrite a bs) := by
  refine bytesKept_write kept _ _ _ fun p hp x hx => ?_
  show ¬(p.1 ≤ x ∧ x < p.1 + p.2)
  have within := linePieces_within hp
  have := out x hx
  omega

omit kept in
/-- Poison marks leave the number of bytes. -/
theorem marked_length (bad : Bool) (bs : List PByte) : (if bad then bs.map fun y => (y.1, true) else bs).length = bs.length := by
  split
  · exact List.length_map ..
  · rfl

/-- A STORE without a tag keeps every byte outside the places of the ranges that move. -/
theorem bytesKept_storeNow (noTag : t.blkTag r.wing (r.blks.getD k 0) = none)
    (out : ∀ a, P a → ∀ y ∈ r.moved k, ∀ z ∈ linePieces (blkAddr (r.blks.getD k 0) % 2 ^ 47 + y.1) y.2,
      ¬(t.place (t.blockReq r k) z.1 ≤ a ∧ a < t.place (t.blockReq r k) z.1 + z.2)) :
    s.bytesKept P (t.storeNow core g r k) := by
  have scaled := sclBad_apart t r (r.blks.getD k 0)
  have still : ((t.sclBad r (r.blks.getD k 0)).2.blkTag r.wing (r.blks.getD k 0)).isSome = false := by
    rw [apart_blkTag scaled, noTag]; rfl
  unfold State.storeNow
  simp only [noTag, still, Bool.false_eq_true, if_false]
  refine And.right (List.foldlRecOn (motive := fun u : State => u.apart = t.apart ∧ s.bytesKept P u) _ _
    ⟨scaled, bytesKept_sclBad kept ..⟩ fun u hu y hy => ?_)
  obtain ⟨apart, kept⟩ := hu
  have moves := (List.of_mem_zip hy).2
  have read (a n : Nat) : (u.sramRead a n).2.apart = t.apart := (sramRead_apart ..).trans apart
  refine ⟨(write_apart ..).trans (read ..), bytesKept_write (bytesKept_sramRead kept ..) _ _ _ fun z hz a ha => ?_⟩
  rw [marked_length, sramRead_length] at hz
  rw [apart_blockReq (read ..), apart_place (read ..)]
  exact out a ha y.2 moves z hz

/-- A LOAD of this module without a tag reads the ranges that move, and keeps every byte. -/
theorem loadBytes_here (noTag : t.blkTag r.wing (r.blks.getD k 0) = none)
    (here : blkAddr (r.blks.getD k 0) / 2 ^ 47 = t.me ∨ blkAddr (r.blks.getD k 0) / 2 ^ 47 = 0x1FFFF) :
    let x := t.loadBytes core g r k
    x.2.1 = false ∧ x.2.2.apart = t.apart ∧ s.bytesKept P x.2.2 ∧ ∀ y ∈ x.1, (y.1, y.2.length) ∈ r.moved k := by
  simp only [State.loadBytes, noTag, near_of_here here, if_true, true_and]
  refine List.foldlRecOn (motive := fun acc : List (Nat × List PByte) × State => acc.2.apart = t.apart ∧ s.bytesKept P acc.2
    ∧ ∀ y ∈ acc.1, (y.1, y.2.length) ∈ r.moved k) _ _ ⟨rfl, kept, fun y hy => absurd hy List.not_mem_nil⟩ fun acc hacc x hx => ?_
  obtain ⟨apart, kept, moves⟩ := hacc
  refine ⟨(read_apart ..).trans apart, bytesKept_read kept .., fun y hy => ?_⟩
  rcases List.mem_append.1 hy with hy | hy
  · exact moves y hy
  · rw [List.mem_singleton.1 hy]
    dsimp only
    rwa [read_length]

end

section
variable {s : State} {P : Nat → Prop} {core k clk : Nat} {g : Bool} {r : Run} (h : s.mayRetire core g k r) (wf : s.mem.wf = true)
include h wf

omit h in
theorem bytesKept_at : s.bytesKept P (s.at_ clk) := bytesKept_refl s P wf

/-- A WARM keeps every byte. -/
theorem bytesKept_retireWarm (dir : blkDir (r.blks.getD k 0) = 2) : s.bytesKept P (s.opRetire core g k clk) := by
  rw [opRetire_warm h dir]
  exact bytesKept_modRun (bytesKept_read (bytesKept_at wf) ..) _

variable (here : blkAddr (r.blks.getD k 0) / 2 ^ 47 = s.me ∨ blkAddr (r.blks.getD k 0) / 2 ^ 47 = 0x1FFFF)
  (noTag : s.blkTag r.wing (r.blks.getD k 0) = none)
include here noTag

/-- A STORE in this module without a tag keeps every byte outside the places of the ranges that move. -/
theorem bytesKept_retireStore (dir : blkDir (r.blks.getD k 0) = 1)
    (out : ∀ a, P a → ∀ y ∈ r.moved k, ∀ z ∈ linePieces (blkAddr (r.blks.getD k 0) % 2 ^ 47 + y.1) y.2,
      ¬(s.place (s.blockReq r k) z.1 ≤ a ∧ a < s.place (s.blockReq r k) z.1 + z.2)) :
    s.bytesKept P (s.opRetire core g k clk) := by
  rw [opRetire_store h dir here]
  refine bytesKept_modRun (bytesKept_storeNow (bytesKept_at wf) ?_ ?_) _
  · rwa [at_blkTag]
  · simpa only [at_blockReq, at_place] using out

/-- A LOAD in this module without a tag, whose place in SRAM is its entry's, keeps every byte outside that place. -/
theorem bytesKept_retireLoad (dir : blkDir (r.blks.getD k 0) = 0)
    (ours : s.sramRefused core g (s.halfBase core g (blkHalf (r.blks.getD k 0)) + blkLoff (r.blks.getD k 0)) (blkLen (r.blks.getD k 0)) = false)
    (out : ∀ a, P a → ¬(s.halfBase core g (blkHalf (r.blks.getD k 0)) + blkLoff (r.blks.getD k 0) ≤ a
      ∧ a < s.halfBase core g (blkHalf (r.blks.getD k 0)) + blkLoff (r.blks.getD k 0) + blkLen (r.blks.getD k 0))) :
    s.bytesKept P (s.opRetire core g k clk) := by
  obtain ⟨good, apart, kept, moves⟩ := loadBytes_here (core := core) (g := g) (bytesKept_at (P := P) (clk := clk) wf)
    ((at_blkTag ..).trans noTag) here
  unfold State.opRetire
  simp -zeta only [h.run]
  extract_lets b now mark m base scaled loaded
  have place : base = s.halfBase core g (blkHalf b) + blkLoff b := congrArg (· + blkLoff b) (apart_halfBase apart core g (blkHalf b))
  have ours : (now.loadBytes core g r k).2.2.sramRefused core g base (blkLen b) = false := by
    rw [apart_sramRefused apart, place]
    exact ours
  rw [if_neg (by rw [retire_passes h]; exact Bool.false_ne_true), if_neg (by rw [dir]; decide), if_neg (by rw [dir]; decide),
    if_neg (by rw [good]; exact Bool.false_ne_true), if_neg (by rw [ours]; exact Bool.false_ne_true)]
  have written : scaled.apart = now.apart ∧ s.bytesKept P scaled := by
    refine List.foldlRecOn (motive := fun u : State => u.apart = now.apart ∧ s.bytesKept P u) _ _
      ⟨(sclBad_apart ..).trans apart, bytesKept_sclBad kept ..⟩ fun u hu x hx => ?_
    obtain ⟨apart, kept⟩ := hu
    refine ⟨(write_apart ..).trans apart, bytesKept_sramWrite kept _ _ fun a ha => ?_⟩
    have within := moved_within (moves x hx)
    have far := out a ha
    rw [marked_length, place]
    unfold b
    dsimp only at within
    omega
  obtain ⟨apart, kept⟩ := written
  have tag : scaled.blkTag r.wing b = none := (apart_blkTag apart ..).trans noTag
  have untagged : loaded = scaled := by
    unfold loaded
    simp only [tag]
  rw [untagged]
  exact bytesKept_modRun kept _

end

/-! ## The end of an entry's work (R80, R81) -/

/-- An entry that ends stages its record behind the earlier ones; the clk stays. -/
theorem endRun_stages {s : State} {core : Nat} {g : Bool} {r : Run} (h : s.runAt core g = some r) (status : Nat) :
    (s.endRun core g status).time = s.time ∧ ∃ n, (s.endRun core g status).crecs = s.crecs ++ [⟨r.wing, g, r.tread, core, r.rank, n,
      crecBytes r.tread r.fid status core r.rank (entCfg r.ent) g (some r)⟩] := by
  have fired (t : State) : (t.nfFire r State.fire).apart = t.apart := apart_ite (s := t) rfl rfl
  have ended : (((s.sclRaise r).chargeEnd r).nfFire r State.fire).apart = s.apart :=
    (fired _).trans (((charge_apart ..).trans (charge_apart ..)).trans (sclRaise_apart ..))
  have same_time := apart_time ended
  have same_crecs := apart_crecs ended
  simp only [State.endRun, h]
  generalize ((s.sclRaise r).chargeEnd r).nfFire r State.fire = t at same_time same_crecs
  exact ⟨same_time, _, congrArg (· ++ _) same_crecs⟩

/-- An entry as its work ends at a clk: one with a STORE keeps the clk of its last one (R54). -/
def State.runEnding (s : State) (clk : Nat) (r : Run) : Run :=
  { r with endClk := if r.blks.any (fun b => blkDir b = 1) then r.endClk else s.endClkAt clk }

/-- An entry whose function has ended and whose blocks have all retired ends with STATUS DONE. -/
theorem opWorkEnd_ends {s : State} {core : Nat} {g : Bool} {r : Run} (h : s.runAt core g = some r) (done : r.fnDone = true)
    (retired : r.retired.length = r.blks.length) (clk : Nat) :
    s.opWorkEnd core g clk = ((s.at_ clk).modRun core g ((s.at_ clk).runEnding clk)).endRun core g 0 := by
  simp only [State.opWorkEnd, h, done, retired, decide_true, Bool.and_self, if_true]
  rfl

/-- The clk of an event lies in the tread. -/
theorem at_phase_lt (s : State) (clk : Clk) : (s.at_ clk.val).time.phase < treadClk := by
  show (if _ then 0 else clk.val) < treadClk
  split
  · decide
  · exact clk.isLt

/-- Settles O41: issue, retiring and end, each by the rule of its row. -/
theorem streamSteps : Obligations.StreamSteps := by
  intro s core slot k clk r g b hr
  refine ⟨fun v may hv ok sram => ?_, fun issued waits turn answered => ?_, fun issued waits turn answered wf here noTag => ?_,
    fun done retired => ?_⟩
  · obtain ⟨anywhere, inside⟩ := opIssue_issued hr may rfl hv rfl ok sram
    exact ⟨⟨_, rfl, anywhere⟩, fun here noTag => ⟨_, rfl, inside here noTag⟩⟩
  · exact ⟨_, rfl, opRetire_retired ⟨hr, issued, waits, turn, answered⟩⟩
  · have may : s.mayRetire core.val g k r := ⟨hr, issued, waits, turn, answered⟩
    refine ⟨_, rfl, fun dir ours a out => ?_, fun dir a out => ?_, fun dir a => ?_⟩
    · refine State.bytesKept.byteKept (P := (· = a)) (bytesKept_retireLoad may wf here noTag dir ours ?_) rfl
      rintro _ rfl
      exact out
    · refine State.bytesKept.byteKept (P := (· = a)) (bytesKept_retireStore may wf here noTag dir ?_) rfl
      rintro _ rfl
      exact out
    · exact State.bytesKept.byteKept (P := (· = a)) (bytesKept_retireWarm may wf dir) rfl
  · have closing : ((s.at_ clk.val).modRun core.val g ((s.at_ clk.val).runEnding clk.val)).runAt core.val g
        = some ((s.at_ clk.val).runEnding clk.val r) := (modRun_runAt ..).trans (congrArg _ hr)
    obtain ⟨time, n, crecs⟩ := endRun_stages closing 0
    refine ⟨_, n, congrArg (fun t => Host.Outcome.next (s.keepStream t)) (opWorkEnd_ends hr done retired clk.val), endRun_runAt .., ?_, crecs⟩
    exact (congrArg (fun x : TimeSt => x.phase % treadClk) time).trans (Nat.mod_eq_of_lt (at_phase_lt s clk))

end Sys2Proof.Machine

/-!
The settled statement of the end of a core's functions (spec/03_core.md R75, R78; spec/07_streams_dma.md R155): a function row whose operands
are in runs the function to its end, or to the stop of an entry that was refused an access.
-/
namespace Sys2Proof.Machine

/-- The entry in a slot, if it is still there, has ended its function. -/
def State.functionEnded (s : State) (core : Nat) (g : Bool) : Prop := s.slotHas core g fun u => u.fnDone = true

section
variable {s : State} {core : Nat} {g : Bool} {r : Run}

theorem functionEnded_of_empty (empty : s.runAt core g = none) : s.functionEnded core g := fun u hu => by
  rw [empty] at hu; cases hu

/-- A function that ends either marks its entry or, after a refused access of its own, stops it (R339). -/
theorem fnEnd_functionEnded (s : State) (core : Nat) (g : Bool) : (s.fnEnd core g).functionEnded core g := by
  unfold State.fnEnd
  split
  · split
    · exact slotHas_faultRun
    · exact slotHas_modRun fun _ _ => rfl
  · next empty => exact functionEnded_of_empty empty

section
variable (h : s.runAt core g = some r) (notDone : r.fnDone = false) (opsIn : r.opsIn)
include h notDone opsIn

/-- A function row ends the function of an entry that waits for it. An entry whose first issue already ends it (R238) is gone before the
function runs. -/
theorem fnRow_functionEnded {is : Nat → Bool} (fits : is r.cfg = true) (body : State → Run → State) :
    (s.fnRow core g is body).functionEnded core g := by
  rw [fnRow_runs h fits notDone opsIn]
  split
  · next empty => exact functionEnded_of_empty empty
  · split <;> exact fnEnd_functionEnded _ core g

/-- A row that sends records does the same while the entry's wing is not quiescing (R349). -/
theorem sendRow_functionEnded (awake : (s.wing r.wing).quiet = false) {is : Nat → Bool} (fits : is r.cfg = true)
    (body : State → Run → State) : (s.sendRow core g is body).functionEnded core g := by
  rw [sendRow_eq h, awake]
  exact fnRow_functionEnded h notDone opsIn fits body

end

/-- A row leaves parts of the state as they were; the cores are none of them. -/
theorem functionEnded_keepFunc {t : State} (ended : t.functionEnded core g) : (s.keepFunc t).functionEnded core g :=
  slotHas_of_cores ended rfl

theorem functionEnded_keepFuncSend {t : State} (ended : t.functionEnded core g) : (s.keepFuncSend t).functionEnded core g :=
  slotHas_of_cores ended rfl

end

/-- Settles O39: each row by its shape, a function in its module, one with the frame of the exchange, or one that sends records. -/
theorem functionsEnd : Obligations.FunctionsEnd := by
  intro s core slot r h notDone opsIn
  have inModule {is : Nat → Bool} {body : State → Run → State} (fits : is r.cfg = true) :=
    functionEnded_keepFunc (s := s) (fnRow_functionEnded h notDone opsIn fits body)
  have exchange {is : Nat → Bool} {body : State → Run → State} (fits : is r.cfg = true) :=
    functionEnded_keepFuncSend (s := s) (fnRow_functionEnded h notDone opsIn fits body)
  have sends {is : Nat → Bool} {body : State → Run → State} (fits : is r.cfg = true) (awake : (s.wing r.wing).quiet = false) :=
    functionEnded_keepFuncSend (s := s) (sendRow_functionEnded h notDone opsIn awake fits body)
  simp only [List.forall_mem_cons, List.not_mem_nil, false_imp_iff, implies_true, and_true]
  refine ⟨⟨?vector, ?matmul, ?attn, ?plan, ?draft, ?verify, ?openRound, ?accum, ?close, ?topen, ?tclose, ?combine, ?update, ?vote, ?verdict,
    ?loss, ?advance, ?xform, ?convert⟩, ?route, ?send, ?returnRows, ?deltaSend⟩
  case openRound | accum | close | topen | tclose | combine => exact fun fits => ⟨_, rfl, exchange fits⟩
  case route | send | returnRows | deltaSend => exact fun fits awake => ⟨_, rfl, sends fits awake⟩
  case vector | matmul | attn | plan | draft | verify | update | vote | verdict | loss | advance | xform | convert =>
    exact fun fits => ⟨_, rfl, inModule fits⟩

end Sys2Proof.Machine

/-!
The settled statement of what a core's function rows do (spec/03_core.md R75, R78; spec/07_streams_dma.md R155): every row is one shape, whether
or not it waits for its wing to be awake (R349), and the shape is said once for an entry that runs and once for one that waits.
-/
namespace Sys2Proof.Machine

/-- The row of a function: one that sends records waits while the wing of the entry quiesces (R349). -/
def State.functionRow (s : State) (sends : Bool) (core : Nat) (g : Bool) (is : Nat → Bool) (body : State → Run → State) : State :=
  if sends then s.sendRow core g is body else s.fnRow core g is body

section
variable {s : State} {sends : Bool} {core : Nat} {g : Bool} {is : Nat → Bool} {r u : Run}

section
variable (h : s.runAt core g = some r)
include h

theorem functionRow_awake (awake : sends = true → (s.wing r.wing).quiet = false) (body : State → Run → State) :
    s.functionRow sends core g is body = s.fnRow core g is body := by
  cases sends
  · rfl
  · exact (sendRow_eq h is body).trans (by rw [awake rfl]; rfl)

theorem functionRow_waits (waits : is r.cfg = false ∨ r.fnDone = true ∨ ¬r.opsIn ∨ sends = true ∧ (s.wing r.wing).quiet = true)
    (body : State → Run → State) : s.functionRow sends core g is body = s := by
  by_cases asleep : sends = true ∧ (s.wing r.wing).quiet = true
  · obtain ⟨rfl, quiet⟩ := asleep
    exact (sendRow_eq h is body).trans (if_pos quiet)
  · rw [functionRow_awake h fun sending => Bool.eq_false_iff.2 fun quiet => asleep ⟨sending, quiet⟩]
    exact fnRow_waits h (by simpa only [asleep, or_false] using waits) body

section
variable (fits : is r.cfg = true) (notDone : r.fnDone = false) (opsIn : r.opsIn) (awake : sends = true → (s.wing r.wing).quiet = false)
include fits notDone opsIn awake

/-- The function of an entry runs on the entry as its first issue leaves it; a ragged entry of no rows has nothing to run. -/
theorem functionRow_runs (begun : (s.beginRun core g).runAt core g = some u) (body : State → Run → State) :
    s.functionRow sends core g is body = if cwRagged u.cfg = true ∧ cwFunc u.cfg ≠ 4 ∧ u.rows = 0 then (s.beginRun core g).fnEnd core g
      else (body (s.beginRun core g) u).fnEnd core g := by
  rw [functionRow_awake h awake, fnRow_runs h fits notDone opsIn, begun]
  simp only [Bool.and_eq_true, decide_eq_true_eq, and_assoc]

/-- The function of an entry that has begun runs on the state as it stands. -/
theorem functionRow_runs_started (started : r.started = true) (body : State → Run → State) :
    s.functionRow sends core g is body = if cwRagged r.cfg = true ∧ cwFunc r.cfg ≠ 4 ∧ r.rows = 0 then s.fnEnd core g
      else (body s r).fnEnd core g := by
  have stays : s.beginRun core g = s := beginRun_started h started
  simpa only [stays] using functionRow_runs h fits notDone opsIn awake (stays.symm ▸ h) body

end

end

end

/-- Settles O40: every row is the row of its function under its own frame, and the three clauses are what such a row does. -/
theorem functionsRunTheirRules : Obligations.FunctionsRunTheirRules := by
  intro s core slot r g rows ready h
  have row : ∀ x ∈ rows, exec x.1 s = .next (x.2.2.2.1 (s.functionRow x.2.2.1 core.val g x.2.1 x.2.2.2.2)) := by
    simp only [rows, List.forall_mem_cons, List.not_mem_nil, false_imp_iff, implies_true, and_true]
    and_intros <;> rfl
  refine ⟨fun x hx fits started notDone opsIn awake => ?started, fun x hx u fits notDone opsIn awake begun someRows => ?begins,
    fun x hx waits => ?waits⟩
  case started => rw [row x hx, functionRow_runs_started h fits notDone opsIn awake started]
  case begins =>
    rw [row x hx, functionRow_runs h fits notDone opsIn awake begun,
      if_neg fun ⟨ragged, notSample, empty⟩ => someRows ragged notSample empty]
  case waits => rw [row x hx, functionRow_waits h waits]

end Sys2Proof.Machine

/-!
The settled statement of the placement of HBM granules (spec/06_memory.md R126): the channel of a granule is its place in its run of 128, by
exclusive or with a number that the run alone gives.
-/
namespace Sys2Proof.Machine

/-- The part of the channel of R126 that a run of 128 granules gives: a run is the number of each of its granules within its channel. -/
def placeFold (c : Nat) : Nat := bits c 0 7 ^^^ (bits c 7 7 ^^^ bits c 14 7 ^^^ bits c 21 3)

theorem bits_lt (x lo n : Nat) : bits x lo n < 2 ^ n := Nat.mod_lt _ (Nat.two_pow_pos n)

theorem placeFold_lt (c : Nat) : placeFold c < 128 :=
  have low (lo : Nat) : bits c lo 7 < 2 ^ 7 := bits_lt c lo 7
  have top : bits c 21 3 < 2 ^ 7 := (bits_lt c 21 3).trans (by decide)
  Nat.xor_lt_two_pow (low 0) (Nat.xor_lt_two_pow (Nat.xor_lt_two_pow (low 7) (low 14)) top)

/-- Above its low seven bits, a granule of a run is the run. -/
theorem bits_granule {j : Nat} (hj : j < 128) (run lo n : Nat) : bits (128 * run + j) (7 + lo) n = bits run lo n := by
  have high : (128 * run + j) >>> 7 = run := by rw [Nat.shiftRight_eq_div_pow]; omega
  rw [bits, Nat.shiftRight_add, high, bits]

/-- The channel of a granule: its place in the run, by exclusive or with the run's own part (R126). -/
theorem hbmChannel_granule {j : Nat} (hj : j < 128) (run : Nat) : hbmChannel (256 * (128 * run + j)) = j ^^^ placeFold run := by
  have low : bits (128 * run + j) 0 7 = j := by simp only [bits, Nat.shiftRight_zero]; omega
  have inside : 256 * (128 * run + j) / 256 = 128 * run + j := Nat.mul_div_cancel_left _ (Nat.succ_pos 255)
  calc hbmChannel (256 * (128 * run + j))
    _ = bits (128 * run + j) 0 7 ^^^ bits (128 * run + j) (7 + 0) 7 ^^^ (bits (128 * run + j) (7 + 7) 7 ^^^ bits (128 * run + j) (7 + 14) 7)
        ^^^ bits (128 * run + j) (7 + 21) 3 := by rw [hbmChannel, inside]; rfl
    _ = j ^^^ placeFold run := by simp only [bits_granule hj, low, placeFold, Nat.xor_assoc]

theorem hbmGranule_eq (ch c : Nat) : hbmGranule ch c = 256 * (128 * c + (ch ^^^ placeFold c)) := by
  rw [Nat.mul_comm, Nat.mul_comm 128, placeFold, ← Nat.xor_assoc]
  rfl

/-- Settles O59: in a run of 128 granules, place and channel are one another's exclusive or with the run's own part. -/
theorem hbmPlacementInverts : Obligations.HbmPlacementInverts := by
  refine ⟨fun ch c hch _ => ?_, fun o _ => ?_, fun run ch _ hch => ?_⟩
  · have place : ch ^^^ placeFold c < 128 := Nat.xor_lt_two_pow (n := 7) hch (placeFold_lt c)
    rw [hbmGranule_eq, hbmChannel_granule place, Nat.xor_xor_cancel_right]
    exact ⟨rfl, by unfold hbmChanAddr; omega⟩
  · have split : 128 * (o / 256 / 128) + o / 256 % 128 = o / 256 := Nat.div_add_mod ..
    have place : o / 256 % 128 < 128 := Nat.mod_lt _ (by decide)
    have channel : hbmChannel o = o / 256 % 128 ^^^ placeFold (o / 256 / 128) := by
      rw [← hbmChannel_granule place, split]
      simp only [hbmChannel, Nat.mul_div_cancel_left _ (Nat.succ_pos 255)]
    have number : hbmChanAddr o / 256 = o / 256 / 128 := by unfold hbmChanAddr; omega
    rw [hbmGranule_eq, channel, number, Nat.xor_xor_cancel_right, split, Nat.mul_comm]
  · have place : ch ^^^ placeFold run < 128 := Nat.xor_lt_two_pow (n := 7) hch (placeFold_lt run)
    refine ⟨128 * run + (ch ^^^ placeFold run), by omega, by omega, ?_, fun h lo hi same => ?_⟩
    · rw [hbmChannel_granule place, Nat.xor_xor_cancel_right]
    · obtain ⟨j, rfl⟩ := Nat.exists_eq_add_of_le lo
      rw [hbmChannel_granule (by omega)] at same
      rw [← same, Nat.xor_xor_cancel_right]

end Sys2Proof.Machine

/-!
The settled statement of the CXL ports (spec/20_host_links.md R446 to R448; spec/06_memory.md R135, R137).
-/
namespace Sys2Proof.Machine

/-! ## What a record leaves of the CXL ports -/

theorem cxl_ite {c : Prop} [Decidable c] {s t u : State} (h1 : t.cxl = s.cxl) (h2 : u.cxl = s.cxl) : (if c then t else u).cxl = s.cxl :=
  iteInduction (motive := fun x : State => x.cxl = s.cxl) (fun _ => h1) fun _ => h2

theorem cxl_foldl {β : Type} (l : List β) (f : State → β → State) (hf : ∀ s x, (f s x).cxl = s.cxl) (s : State) :
    (l.foldl f s).cxl = s.cxl := by
  induction l generalizing s with
  | nil => rfl
  | cons x l ih => rw [List.foldl_cons, ih, hf]

section
variable (s : State)

theorem alert_cxl (b : Nat) : (s.alert b).cxl = s.cxl := cxl_ite rfl rfl

theorem charge_cxl (w : Option Nat) (f n : Nat) : (s.charge w f n).cxl = s.cxl := by
  unfold State.charge
  refine cxl_ite rfl ?_
  cases w <;> rfl

theorem hostWrite_cxl (fn a : Nat) (bs : List PByte) : (s.hostWrite fn a bs).cxl = s.cxl := by
  unfold State.hostWrite
  exact cxl_ite (cxl_ite rfl (charge_cxl ..)) rfl

theorem writeEvt_cxl (fn : Nat) (body : List Byte) (cls : Nat) : (s.writeEvt fn body cls).cxl = s.cxl := by
  unfold State.writeEvt
  exact cxl_ite (cxl_ite (hostWrite_cxl ..) (hostWrite_cxl ..)) rfl

theorem postEvt_cxl (fns : List Nat) (body : List Byte) (cls : Nat) (mem : Option (LostBy × Nat)) :
    (s.postEvt fns body cls mem).cxl = s.cxl := by
  unfold State.postEvt
  refine cxl_ite (cxl_foldl _ _ (fun s fn => writeEvt_cxl s fn body cls) s) (cxl_ite rfl ?_)
  rcases mem with _ | ⟨_ | _, _⟩ <;> rfl

/-- A memory record leaves the CXL ports. -/
theorem memRecord_cxl (kind store src syn key addr : Nat) : (s.memRecord kind store src syn key addr).cxl = s.cxl := by
  unfold State.memRecord
  have charged (s : State) : (if kind = 0 then s.charge none Acf.ceRecs 1
      else if kind = 1 then s.charge none Acf.ueRecs 1 else s).cxl = s.cxl :=
    cxl_ite (charge_cxl ..) (cxl_ite (charge_cxl ..) rfl)
  refine cxl_ite rfl ((postEvt_cxl ..).trans ?_)
  exact cxl_ite ((alert_cxl ..).trans (charged _)) (charged _)

end

/-! ## The rows of a CXL port -/

section
variable {s t : State} {p : Nat}

/-- Writing one port's entry sets that port and keeps the other. -/
theorem cxlPort_of_set {x : CxlSt} (h : t.cxl = Tab.set s.cxl p x) : t.cxlPort p = x ∧ ∀ q ≠ p, t.cxlPort q = s.cxlPort q := by
  unfold State.cxlPort
  rw [h, find_set_same]
  exact ⟨rfl, fun q hq => by rw [find_set_ne _ _ _ _ hq]⟩

/-- A row of a CXL port leaves what its operation leaves. -/
theorem cxlRow_next {u : State} (h : t = u) : (.next (s.keepCxl t) : Host.Outcome State Fault Refusal) = .next (s.keepCxl u) := h ▸ rfl

theorem opCxlUp_type3 {x : CxlPartner} (train : (s.cxlPort p).st = 1) (free : s.board.pinsTaken = false) (direct : x.type3Direct = true) :
    s.opCxlUp p x = { s with cxl := Tab.set s.cxl p { s.cxlPort p with
      st := 2, size := min (x.capacity / 0x10000000) 8192, speed := x.speed % 8, width := min x.width 16 } } := by
  simp [State.opCxlUp, train, free, direct]

theorem opCxlUp_rejects {x : CxlPartner} (train : (s.cxlPort p).st = 1) (free : s.board.pinsTaken = false) (other : x.type3Direct = false) :
    s.opCxlUp p x = { s with cxl := Tab.set s.cxl p { s.cxlPort p with st := 3, size := 0 } } := by
  simp [State.opCxlUp, train, free, other]

/-- A lost link changes its own port alone, and leaves memory and the gallery (R137). -/
theorem cxlLost_effect (st : Nat) :
    (s.cxlLost p st).cxl = Tab.set s.cxl p { s.cxlPort p with st := st, speed := 0, width := 0, timed := [], gone := [] }
    ∧ s.sameStore (s.cxlLost p st) := by
  unfold State.cxlLost
  dsimp only
  split
  · exact ⟨memRecord_cxl .., memRecord_mem .., memRecord_gal ..⟩
  · exact ⟨rfl, rfl, rfl⟩

variable {a : Nat}

theorem opCxlTimeout_early {openClk : Nat} (early : openClk < s.cxlCto p) : s.opCxlTimeout p a openClk = s := by
  simp [State.opCxlTimeout, early]

theorem opCxlCompletion_gone (gone : a / 256 ∈ (s.cxlPort p).gone) (poison : Bool) : s.opCxlCompletion p a poison
    = { s with cxl := Tab.set s.cxl p { s.cxlPort p with
      late := sat 16 ((s.cxlPort p).late + 1), gone := (s.cxlPort p).gone.erase (a / 256) } } := by
  simp [State.opCxlCompletion, gone]

theorem opCxlCompletion_whole (owed : a / 256 ∉ (s.cxlPort p).gone) : s.opCxlCompletion p a false = s := by
  simp [State.opCxlCompletion, owed]

section
variable {off : Nat} (up : (s.cxlPort p).st = 2) (here : s.region a = .cxl p off) (miss : s.gal.locate a = none)
include up here miss

/-- A read open past its timeout is counted; its poisoned delivery and its late completion are to come (R448). -/
theorem opCxlTimeout_late {openClk : Nat} (late : s.cxlCto p ≤ openClk) :
    (s.opCxlTimeout p a openClk).cxl = Tab.set s.cxl p { s.cxlPort p with
      timeouts := sat 16 ((s.cxlPort p).timeouts + 1), timed := a / 256 :: (s.cxlPort p).timed, gone := a / 256 :: (s.cxlPort p).gone }
    ∧ (s.opCxlTimeout p a openClk).mem = s.mem := by
  simp [State.opCxlTimeout, up, here, miss, Nat.not_lt.2 late, memRecord_cxl]

/-- A poisoned completion puts the stored mark on every word of its line, and moves no data byte (R136). -/
theorem opCxlCompletion_poisoned (owed : a / 256 ∉ (s.cxlPort p).gone) :
    (s.opCxlCompletion p a true).mem.cells = s.mem.cells
    ∧ (s.opCxlCompletion p a true).mem.errs = (upFrom (a / 256 * 64) 64).foldl (fun e w => setErr e w 127) s.mem.errs := by
  simp [State.opCxlCompletion, owed, up, here, miss]

end

end

/-- The stored mark on a run of words, and every other word as it was. -/
theorem cnt_markRun (w lo n : Nat) (e : Tab Nat) : Tab.cnt ((upFrom lo n).foldl (fun e w => setErr e w 127) e) w
    = if lo ≤ w ∧ w < lo + n then 127 else Tab.cnt e w := by
  induction n generalizing lo e with
  | zero => exact (if_neg (by omega)).symm
  | succ n ih =>
    have marked : setErr e lo 127 = Tab.set e lo 127 := rfl
    rw [upFrom, List.foldl_cons, ih, marked]
    by_cases first : w = lo
    · subst first
      rw [cnt_set_same, if_neg (by omega), if_pos (by omega)]
    · rw [cnt_set_ne _ _ _ _ first]
      exact if_congr (by omega) rfl rfl

/-- Settles O56: each row writes its own port's entry, marks a line's words, or does nothing. -/
theorem cxlPortsAct : Obligations.CxlPortsAct := by
  intro s p
  refine ⟨fun x train free => ?up, fun linked => ?down, fun a off up here miss => ⟨fun clk late => ?late, fun clk early => ?early⟩,
    fun a poison gone => ?gone, fun a off _ owed up here miss => ⟨?plain, ?poison⟩⟩
  case up =>
    by_cases direct : x.type3Direct = true
    · obtain ⟨own, other⟩ := cxlPort_of_set (congrArg State.cxl (opCxlUp_type3 train free direct))
      refine ⟨_, rfl, other, ?_⟩
      rw [if_pos direct]
      exact ⟨congrArg CxlSt.st own, congrArg CxlSt.size own⟩
    · obtain ⟨own, other⟩ := cxlPort_of_set (congrArg State.cxl (opCxlUp_rejects train free (Bool.eq_false_iff.2 direct)))
      refine ⟨_, rfl, other, ?_⟩
      rw [if_neg direct]
      exact ⟨congrArg CxlSt.st own, congrArg CxlSt.size own⟩
  case down =>
    have lost : s.opCxlDown p.val = s.cxlLost p.val 1 := if_neg (by omega)
    obtain ⟨port, mem, gal⟩ := cxlLost_effect (s := s) (p := p.val) 1
    obtain ⟨own, other⟩ := cxlPort_of_set port
    exact ⟨_, cxlRow_next lost, congrArg CxlSt.st own, congrArg CxlSt.speed own, congrArg CxlSt.width own, (congrArg CxlSt.size own :),
      mem, gal, other⟩
  case late =>
    obtain ⟨port, mem⟩ := opCxlTimeout_late up here miss late
    obtain ⟨own, _⟩ := cxlPort_of_set port
    refine ⟨_, rfl, congrArg CxlSt.timeouts own, ?_, ?_, mem⟩
    · exact (congrArg CxlSt.timed own).symm ▸ List.mem_cons_self
    · exact (congrArg CxlSt.gone own).symm ▸ List.mem_cons_self
  case early => exact cxlRow_next (opCxlTimeout_early early)
  case gone =>
    have row := opCxlCompletion_gone gone poison
    obtain ⟨own, _⟩ := cxlPort_of_set (congrArg State.cxl row)
    exact ⟨_, rfl, congrArg CxlSt.late own, congrArg CxlSt.gone own, (congrArg State.mem row :)⟩
  case plain => exact cxlRow_next (opCxlCompletion_whole owed)
  case poison =>
    obtain ⟨cells, errs⟩ := opCxlCompletion_poisoned up here miss owed
    exact ⟨_, rfl, cells, fun w => (congrArg (Tab.cnt · w) errs).trans (cnt_markRun w ..)⟩

end Sys2Proof.Machine

/-!
The settled statement of patrol scrub (spec/06_memory.md R143, R144).
-/
namespace Sys2Proof.Machine

/-- A memory record leaves the service state. -/
theorem memRecord_svc (s : State) (kind store src syn key addr : Nat) : (s.memRecord kind store src syn key addr).svc = s.svc :=
  congrArg (fun x : State × (Nat → Wing) × (Nat → CxlSt) => x.1.svc) (memRecord_apart s kind store src syn key addr)

section
variable {s t : State}

/-- The row of a repair or of patrol leaves what its operation leaves. -/
theorem repairRow_next {u : State} (h : t = u) :
    (.next (s.keepRepair t) : Host.Outcome State Fault Refusal) = .next (s.keepRepair u) := h ▸ rfl

/-- The start of a pass leaves the gallery: what a unit reads may be told by the gallery as it stands before. -/
theorem scrubUnit_congr {f g : Nat → State → State} (h : ∀ pass t, t.gal = s.gal → f pass t = g pass t)
    (store : Nat) (first last : Bool) : s.scrubUnit store first last f = s.scrubUnit store first last g := by
  unfold State.scrubUnit
  dsimp only
  rw [h]
  cases first <;> rfl

variable {sl set way k : Nat}

theorem opScrubGal_line {l : Line} (hk : sl * 65536 + set * 16 + way = k) (held : Tab.find s.gal.lines k = some l) :
    s.opScrubGal sl set way = s.scrubUnit 1 (k = 0) (k = 32 * 65536 - 1) fun pass s => s.touch 1 pass (l.tag * 256) 256 := by
  subst hk
  unfold State.opScrubGal
  exact scrubUnit_congr (fun pass t same => by simp only [same, held]) ..

theorem opScrubGal_empty (hk : sl * 65536 + set * 16 + way = k) (empty : Tab.find s.gal.lines k = none) :
    s.opScrubGal sl set way = s.scrubUnit 1 (k = 0) (k = 32 * 65536 - 1) fun pass s => s.touchStale pass k := by
  subst hk
  unfold State.opScrubGal
  exact scrubUnit_congr (fun pass t same => by simp only [same, empty]) ..

/-- The pass of a store under way has run for more than twice its period (R144). -/
def State.passLate (s : State) (store : Nat) : Bool :=
  match Tab.find s.svc.passStart store with
  | some t => treadPast t (2 * (if store = 0 then 720000000 else 1500000)) s.tread
  | none => false

theorem opScrubLate_records {store : Nat} (first : store ∉ s.svc.scrubLate) (late : s.passLate store = true) :
    (s.opScrubLate store).svc.scrubLate = store :: s.svc.scrubLate := by
  have due : ¬(s.svc.scrubLate.contains store || !s.passLate store) = true := by simp [first, late]
  have records : (s.opScrubLate store).svc
      = State.svc { s with svc := { s.svc with scrubLate := store :: s.svc.scrubLate } } :=
    (congrArg State.svc (if_neg due)).trans (memRecord_svc ..)
  rw [records]

theorem opScrubLate_idle {store : Nat} (h : store ∈ s.svc.scrubLate ∨ s.passLate store = false) : s.opScrubLate store = s := by
  have idle : (s.svc.scrubLate.contains store || !s.passLate store) = true := by
    rcases h with h | h <;> simp [h]
  exact if_pos idle

end

/-- Settles O46: each row is the unit of its store, as what the unit meets tells it, or nothing. -/
theorem patrolsAct : Obligations.PatrolsAct := by
  intro s
  refine ⟨fun g used => ?hbm, fun g unused => ?beyond, fun sl set way => ⟨fun l held => ?line, fun empty => ?stale⟩,
    fun core word inside => ?sram, fun x => ⟨fun first late => ?late, fun idle => ?idle⟩⟩
  case hbm => exact repairRow_next (if_neg (Nat.not_le.2 used))
  case beyond => exact repairRow_next (if_pos unused)
  case line => exact repairRow_next (opScrubGal_line rfl held)
  case stale => exact repairRow_next (opScrubGal_empty rfl empty)
  case sram =>
    have whole : word / 64 * 64 % 0x80000 = word / 64 * 64 := Nat.mod_eq_of_lt (by omega)
    exact repairRow_next (by rw [State.opScrubSram, whole])
  case late => exact ⟨_, rfl, opScrubLate_records first late⟩
  case idle => exact repairRow_next (opScrubLate_idle idle)

end Sys2Proof.Machine

/-!
The settled statement of repairs (spec/06_memory.md R145 to R150; spec/19_service.md R430 to R434): it fails for a gallery whose table lists a
location twice.
-/
namespace Sys2Proof.Machine

/-- A clean line that a location of slice 0 holds. -/
def cleanLine : Line := ⟨0, false, 0, [], []⟩

/-- A gallery whose table names location 0 twice, a candidate of a slice whose 128 spares are used. -/
def heldTwice : State := { State.reset with
  gal := { lines := [(0, cleanLine), (0, cleanLine)], candidates := [0] }
  svc := { galSpares := [(0, 128)] } }

/-- The eviction of its LINEFIX drops the first of the two entries alone. -/
theorem linefix_heldTwice : Tab.find (heldTwice.opLinefix 0 0 0).gal.lines 0 = some cleanLine := by decide

/-- Refutes O45: the statement speaks of every state, and in one whose gallery lists a location twice a LINEFIX without a spare leaves the
second entry, so the location still holds a line. -/
theorem not_repairsAct : ¬ Obligations.RepairsAct := by
  intro repairs
  obtain ⟨_, linefix, _⟩ := repairs heldTwice
  obtain ⟨t, fixed, _, taken⟩ := linefix 0 0 0 (List.mem_singleton_self 0)
  cases fixed
  rw [if_neg (by decide)] at taken
  obtain ⟨_, gone, _⟩ := taken
  cases linefix_heldTwice.symm.trans gone

end Sys2Proof.Machine

/-!
The settled statements of DMA channels and their descriptors (spec/07_streams_dma.md R160 to R169).
-/
namespace Sys2Proof.Machine

theorem bit_eq_testBit (x i : Nat) : bit x i = x.testBit i := by
  rw [bit, Nat.testBit_eq_decide_div_mod_eq, Nat.shiftRight_eq_div_pow]
  rfl

/-! ## The registers of a channel -/

section
variable {s : State} {fn w idx c d v : Nat}

/-- An index that names no channel of the wing, or a space that does not answer, reaches no channel. -/
theorem chanRow_idle (h : s.fnAnswers fn = false ∨ s.chanOf fn w idx = none) (f : State → Nat → State) : s.chanRow fn w idx f = s := by
  unfold State.chanRow
  rcases h with silent | unnamed
  · rw [silent]; rfl
  · rw [unnamed]; exact ite_self s

theorem chanRow_acts (answers : s.fnAnswers fn = true) (named : s.chanOf fn w idx = some c) (f : State → Nat → State) :
    s.chanRow fn w idx f = f s c := by
  rw [State.chanRow, if_pos answers, named]

/-- The row of a channel's register leaves what its operation leaves. -/
theorem dmaRegRow_next {t u : State} (h : t = u) :
    (.next (s.keepDmaReg t) : Host.Outcome State Fault Refusal) = .next (s.keepDmaReg u) := h ▸ rfl

/-- The channel takes the tail written, and reads on (R162). -/
theorem tailWrite_same : ((s.tailWrite c v).chan c).tail = v % 65536 ∧ ((s.tailWrite c v).chan c).waitOwn = false ∧
    ((s.tailWrite c v).chan c).head = (s.chan c).head ∧ ((s.tailWrite c v).chan c).stat = (s.chan c).stat := by
  simp only [State.tailWrite, modChan_same, and_self]

theorem tailWrite_ne (other : d ≠ c) : (s.tailWrite c v).chan d = s.chan d := modChan_ne _ _ _ _ other

/-- The STAT bits written as 1 clear (R15). -/
theorem statClear_same : ((s.statClear c v).chan c).stat = (s.chan c).stat &&& (15 - v % 16) ∧
    ((s.statClear c v).chan c).tail = (s.chan c).tail := by
  simp only [State.statClear, modChan_same, and_self]

theorem statClear_ne (other : d ≠ c) : (s.statClear c v).chan d = s.chan d := modChan_ne _ _ _ _ other

/-- A write of DMA_CH_CTRL leaves every other channel. -/
theorem ctrlWrite_ne (other : d ≠ c) : (s.ctrlWrite w c v).chan d = s.chan d := by
  unfold State.ctrlWrite
  dsimp only
  split
  · split <;> exact modChan_ne _ _ _ _ other
  · split <;> exact modChan_ne _ _ _ _ other

/-- The write mask of DMA_CH_CTRL leaves EN as written. -/
theorem bit_ctrlMask (v : Nat) : bit (v &&& 0xFD) 0 = bit v 0 := by
  rw [bit_eq_testBit, bit_eq_testBit, Nat.testBit_and]
  exact Bool.and_true _

theorem bit_pred_odd (odd : bit v 0 = true) : bit (v - 1) 0 = false := by
  simp only [bit, Nat.shiftRight_zero, beq_iff_eq, beq_eq_false_iff_ne] at *
  omega

theorem bit_or_8 (x : Nat) : bit (x ||| 8) 3 = true := by
  rw [bit_eq_testBit, Nat.testBit_or]
  exact Bool.or_true _

section
variable (rises : bit v 0 = true) (off : bit (s.chan c).ctrl 0 = false)
include rises off

/-- EN rising on a local ring outside the window: STAT tells it and EN stays 0 (R161). -/
theorem ctrlWrite_refused (out : bit (s.chan c).ring 0 = true ∧ s.inHbm w ((s.chan c).ring / 4096 * 4096) (64 * (s.chan c).size) = false) :
    bit ((s.ctrlWrite w c v).chan c).ctrl 0 = false ∧ bit ((s.ctrlWrite w c v).chan c).stat 3 = true := by
  have odd : bit (v &&& 0xFD) 0 = true := (bit_ctrlMask v).trans rises
  simp only [State.ctrlWrite, odd, off, out, Bool.not_false, Bool.and_self, if_true, modChan_same, bit_pred_odd odd, bit_or_8, and_self]

/-- EN rising on any other ring: the channel runs with the bits written. -/
theorem ctrlWrite_runs (fits : ¬(bit (s.chan c).ring 0 = true ∧ s.inHbm w ((s.chan c).ring / 4096 * 4096) (64 * (s.chan c).size) = false)) :
    ((s.ctrlWrite w c v).chan c).ctrl = v &&& 0xFD ∧ ((s.ctrlWrite w c v).chan c).stat = (s.chan c).stat := by
  have odd : bit (v &&& 0xFD) 0 = true := (bit_ctrlMask v).trans rises
  have fits : (bit (s.chan c).ring 0 && !s.inHbm w ((s.chan c).ring / 4096 * 4096) (64 * (s.chan c).size)) = false := by simpa using fits
  simp only [State.ctrlWrite, odd, off, fits, Bool.not_false, Bool.and_self, if_true, Bool.false_eq_true, if_false, modChan_same, and_self]

end
end

/-- Settles O31: each row changes its own channel, as the register that it writes tells. -/
theorem dmaChannelRegisters : Obligations.DmaChannelRegisters := by
  intro s fn w idx v
  refine ⟨fun idle => ?_, fun c answers named => ⟨?tail, ?stat, ?ctrl⟩⟩
  · have unchanged (f : State → Nat → State) :
        (.next (s.keepDmaReg (s.chanRow fn.val w.val idx.val f)) : Host.Outcome State Fault Refusal) = .next s := by
      rw [chanRow_idle idle]; rfl
    exact ⟨unchanged _, unchanged _, unchanged _⟩
  all_goals refine ⟨_, dmaRegRow_next (chanRow_acts answers named _), ?_⟩
  case tail =>
    obtain ⟨tail, waitOwn, head, stat⟩ := tailWrite_same (s := s) (c := c) (v := v.toNat)
    exact ⟨tail, waitOwn, head, stat, fun d => tailWrite_ne⟩
  case stat =>
    obtain ⟨stat, tail⟩ := statClear_same (s := s) (c := c) (v := v.toNat)
    exact ⟨stat, tail, fun d => statClear_ne⟩
  case ctrl =>
    refine ⟨fun d => ctrlWrite_ne, fun rises off => ?_⟩
    split
    case isTrue out => exact ctrlWrite_refused rises off out
    case isFalse fits => exact ctrlWrite_runs rises off fits

/-! ## Descriptors -/

/-- The descriptor that a channel takes at HEAD, with the state behind its read: one whose remote reads are out was read when they were issued. -/
def State.descTaken (s : State) (w c clk : Nat) : Option (List Byte) × State :=
  let out (x : State) : Bool := x.fab.reqs.any fun r => r.own = blockOwn (chanUnit c) 0
  if out (s.at_ clk) then (((s.at_ clk).descRead w (s.chan c)).1, s.at_ clk) else (s.at_ clk).descRead w (s.chan c)

/-- A running channel with work, which waits for no tail write, takes the descriptor `d` at HEAD; its read leaves `u`. -/
structure State.TakesDesc (s : State) (w c clk : Nat) (d : List Byte) (u : State) : Prop where
  owner : s.chanWing c = some w
  runs : bit (s.chan c).ctrl 0 = true ∨ (s.chan c).drain = true
  work : (s.chan c).work = true
  awake : (s.chan c).waitOwn = false
  taken : s.descTaken w c clk = (some d, u)

section
variable {s u : State} {c clk w : Nat} {d : List Byte} (h : s.TakesDesc w c clk d u)
include h

/-- The row of the descriptor's class, and both rows for a reserved class, give a descriptor back to the host, end it INVALID, or carry it
out; a grid that issued remote reads waits for them, and one that issued none changes nothing. -/
theorem opDma_takes {grid : Bool} (mine : bits (fieldN d 0 4) 29 2 < 2 → decide (bits (fieldN d 0 4) 29 2 = 1) = grid) :
    s.opDma c clk grid =
      if bit (fieldN d 0 4) 31 = false then u.modChan c fun x => { x with waitOwn := true, idle := true, drain := false }
      else if 2 ≤ bits (fieldN d 0 4) 29 2 then u.descDone w c (fieldN d 0 4) invalidEnd
      else if grid then
        match u.gridRun w c d with
        | (some e, x) => x.descDone w c (fieldN d 0 4) e
        | (none, x) => if (x.fab.reqs.any fun r => r.own = blockOwn (chanUnit c) 0) = true then x else s
      else (u.listRun w d).2.descDone w c (fieldN d 0 4) (u.listRun w d).1 := by
  obtain ⟨owner, runs, work, awake, taken⟩ := h
  have goes : ((bit (s.chan c).ctrl 0 || (s.chan c).drain) && (s.chan c).work && !(s.chan c).waitOwn) = true := by
    simpa [work, awake] using runs
  have own : (decide (bits (fieldN d 0 4) 29 2 < 2) && decide ((bits (fieldN d 0 4) 29 2 = 1) ≠ (grid = true))) = false := by
    simpa using mine
  unfold State.descTaken at taken
  dsimp only at taken
  simp only [State.opDma, owner, goes, taken, own, Bool.not_true, Bool.false_eq_true, if_false, Bool.not_eq_true', ge_iff_le]
    <;> rfl

end

/-- The row of a descriptor leaves what its operation leaves. -/
theorem dmaRow_next {s t u : State} (h : t = u) : (.next (s.keepDma t) : Host.Outcome State Fault Refusal) = .next (s.keepDma u) := h ▸ rfl

/-- Settles O32: each row by the class and the OWN bit of the descriptor that the channel takes. -/
theorem descriptorsRun : Obligations.DescriptorsRun := by
  intro s ch clk w d u owner out x runs work awake taken
  have takes : s.TakesDesc w ch.val clk.val d u := ⟨owner, runs, work, awake, taken⟩
  have given (own : bit (fieldN d 0 4) 31 = true) : ¬bit (fieldN d 0 4) 31 = false := ne_false_of_eq_true own
  refine ⟨fun cls own => dmaRow_next ?_, fun cls own => dmaRow_next ?_, fun cls own => ⟨dmaRow_next ?_, dmaRow_next ?_⟩,
    fun cls own => dmaRow_next ?_, fun cls own => dmaRow_next ?_⟩
  · rw [opDma_takes takes fun _ => decide_eq_false cls, if_pos own]
  · have small : ¬2 ≤ bits (fieldN d 0 4) 29 2 := by omega
    rw [opDma_takes takes fun _ => decide_eq_false (by omega), if_neg (given own), if_neg small, if_neg Bool.false_ne_true]
  · rw [opDma_takes takes fun low => absurd low (Nat.not_lt.2 cls), if_neg (given own), if_pos cls]
  · rw [opDma_takes takes fun low => absurd low (Nat.not_lt.2 cls), if_neg (given own), if_pos cls]
  · rw [opDma_takes takes fun low => decide_eq_true (by omega), if_pos own]
  · have small : ¬2 ≤ bits (fieldN d 0 4) 29 2 := by omega
    rw [opDma_takes takes fun _ => decide_eq_true cls, if_neg (given own), if_neg small, if_pos rfl] <;> rfl

end Sys2Proof.Machine

/-!
The settled statement of frames that leave and pass through a port (spec/14_hall_fabric.md R313 to R332).
-/
namespace Sys2Proof.Machine

/-- The confinement of a frame leaves a state whose clk lies in the tread. -/
theorem keepFrame_self {s : State} (h : s.time.phase < treadClk) : s.keepFrame s = s := by
  simp only [State.keepFrame, Nat.mod_eq_of_lt h]

/-! ## What sending leaves at a port -/

/-- What the choice of a frame changes at a port: the frames that wait, REORDER and the frame sent among them, the credits in flight, and the
queues' turns. -/
def PortSt.egress (x : PortSt) : List QFrame × Tab Int × Tab Nat × List QFrame × List QFrame × List Frame :=
  (x.txq, x.acc, x.used, x.held, x.late, x.out)

theorem modPort_egress (s : State) (p q : Nat) {f : PortSt → PortSt} (hf : ∀ x, (f x).egress = x.egress := by exact fun _ => rfl) :
    ((s.modPort p f).port q).egress = (s.port q).egress := by
  by_cases h : q = p
  · rw [h, modPort_same, hf]
  · rw [modPort_ne _ _ _ _ h]

section
variable (s : State) (p q : Nat)

theorem charge_port (w : Option Nat) (f n : Nat) : (s.charge w f n).port p = s.port p :=
  congrArg (fun x : State × (Nat → Wing) × (Nat → CxlSt) => x.1.port p) (charge_apart s w f n)

theorem release_egress (y : QFrame) : ((s.release y).port q).egress = (s.port q).egress := by
  unfold State.release
  rcases y.inn with _ | ⟨p, vci, pool⟩
  · rfl
  · exact modPort_egress s p q

theorem inject_egress (mode : Nat) : ((s.inject p mode).2.port q).egress = (s.port q).egress := by
  unfold State.inject
  dsimp only
  split
  · rfl
  · exact modPort_egress s p q

/-- A fold that gathers a result beside the state, and whose every step leaves what sending changes at a port, leaves it. -/
theorem egress_foldl_snd {α β : Type} {q : Nat} (l : List β) (f : α × State → β → α × State)
    (hf : ∀ a x, ((f a x).2.port q).egress = (a.2.port q).egress) (a : α × State) :
    ((l.foldl f a).2.port q).egress = (a.2.port q).egress := by
  induction l generalizing a with
  | nil => rfl
  | cons x l ih => rw [List.foldl_cons, ih, hf]

/-- With no injection set, no unit is acted on. -/
theorem inject_off {mode : Nat} (off : bits (s.pf (Reg.halInj + 8 * p)) 32 3 = 0) (set : mode ≠ 0) : s.inject p mode = (false, s) :=
  if_pos (off ▸ set.symm)

theorem sendCells_egress (bs : List Byte) (flush : Bool) : ((s.sendCells p bs flush).port q).egress = (s.port q).egress := by
  unfold State.sendCells
  refine (modPort_egress _ p q).trans ((egress_foldl_snd _ _ (fun a c => ?injected) _).trans (modPort_egress s p q))
  case injected => exact (inject_egress _ p q 5).trans (inject_egress a.2 p q 4)

/-- A frame that is sent stands at the output, and leaves all else that a choice changes. -/
theorem sendFrame_egress (f : Frame) : ((s.sendFrame p f).port p).egress = { s.port p with out := [f] }.egress := by
  unfold State.sendFrame
  dsimp only
  rw [sendCells_egress, modPort_same]

end

/-! ## The row of a port's egress -/

/-- The entry of a port as the choice of a waiting frame leaves it: the frame is out of its queue, at the output, and in flight. -/
def PortSt.choose (x : PortSt) (y : QFrame) (acc : Tab Int) : PortSt :=
  { x with
    acc := acc.filter fun z => (x.txq.erase y).any fun t => t.q = z.1
    txq := x.txq.erase y, out := [y.f]
    grant := if y.f.last then Tab.erase x.grant (2 * classOf y.f.typ + y.f.vc) else Tab.set x.grant (2 * classOf y.f.typ + y.f.vc) y.rid
    used := Tab.bump x.used ((2 * classOf y.f.typ + y.f.vc) * 64 + y.f.pool) (frameCredits y.f.payload.length) }

/-- The state as that choice leaves it: what the frame held at its input is free, and it is charged. -/
def State.chosen (s : State) (p : Nat) (y : QFrame) (acc : Tab Int) : State :=
  ((s.modPort p fun x => x.choose y acc).release y).charge (if y.f.pool < 32 then some y.f.swing else none) Acf.fabTx (32 + y.f.payload.length)

/-- A chosen frame's payload, with one bit turned over by injection (R332). -/
def State.corrupted (s : State) (p : Nat) (f : Frame) : Frame × State :=
  let (bad, s) := if f.payload.isEmpty then (false, s) else s.inject p 2
  let (fv, s) := s.free
  (if bad then
    let i := fv % (8 * f.payload.length)
    { f with payload := setIdx f.payload (i / 8) ((f.payload.getD (i / 8) 0) ^^^ BitVec.ofNat 8 (2 ^ (i % 8))) }
  else f, s)

/-- REORDER injection holds a frame back that is a record of its own (R332). -/
def State.swapped (s : State) (p : Nat) (f : Frame) : Bool × State := if f.first && f.last then s.inject p 3 else (false, s)

/-- A frame goes, and the single frames that REORDER held back of its VC go behind it. -/
def State.sendAhead (s : State) (p : Nat) (f : Frame) : State :=
  let back (h : QFrame) : Bool := f.first && f.last && h.f.vc = f.vc && classOf h.f.typ = classOf f.typ
  (s.modPort p fun x => { x with late := x.held.filter back, held := x.held.filter fun h => !back h }).sendFrame p f

/-- What becomes of a chosen frame: injection drops it, corrupts it, or holds it back behind the next of its VC, or it goes (R332). -/
def State.leaves (s : State) (p : Nat) (y : QFrame) : State :=
  let (drop, s) := s.inject p 1
  if drop then
    s.modPort p fun x =>
      let k := (2 * classOf y.f.typ + y.f.vc) * 64 + y.f.pool
      { x with out := [], used := Tab.set x.used k (Tab.cnt x.used k - frameCredits y.f.payload.length) }
  else
    let (f, s) := s.corrupted p y.f
    let (swap, s) := s.swapped p f
    if swap then s.modPort p fun x => { x with out := [], held := { y with f := f } :: x.held } else s.sendAhead p f

section
variable {s : State} {p : Nat}

theorem chosen_egress (y : QFrame) (acc : Tab Int) : ((s.chosen p y acc).port p).egress = ((s.port p).choose y acc).egress := by
  rw [State.chosen, charge_port, release_egress, modPort_same]

theorem chosen_pf (y : QFrame) (acc : Tab Int) (off : Nat) : (s.chosen p y acc).pf off = s.pf off := by
  have charged (t : State) (w : Option Nat) (f n : Nat) : (t.charge w f n).pf off = t.pf off := by
    rw [State.pf, apart_pfe (charge_apart t w f n)]; rfl
  rw [State.chosen, charged, State.release]
  rcases y.inn with _ | ⟨p, vci, pool⟩ <;> rfl

/-- A port that is not UP, and one with nothing to send, stays. -/
theorem opTransmit_idle (h : (s.port p).st ≠ 2 ∨ (s.port p).late = [] ∧ s.sendable p = []) : s.opTransmit p = s := by
  unfold State.opTransmit
  dsimp only
  rcases h with down | ⟨none, empty⟩
  · exact if_pos down
  · rw [none, empty]
    exact ite_self s

/-- A frame that REORDER held back goes first. -/
theorem opTransmit_late {y : QFrame} {rest : List QFrame} (up : (s.port p).st = 2) (late : (s.port p).late = y :: rest)
    (room : (s.port p).replay.length + (s.port p).newCells (32 + y.f.payload.length) ≤ 256) :
    s.opTransmit p = (s.modPort p fun x => { x with late := rest }).sendFrame p y.f := by
  simp only [State.opTransmit, up, late, room, ne_eq, not_true_eq_false, if_false, if_true]

section
variable {q : Nat} {y : QFrame} {acc : Tab Int}

/-- An UP port takes the frame that its arbitration chooses. -/
theorem opTransmit_chooses (up : (s.port p).st = 2) (late : (s.port p).late = [])
    (serves : serveQueue (fun q => bits (s.pf Reg.dmaQwgt) (4 * q) 4) ((s.sendable p).map (·.q)).eraseDups (s.port p).acc = (some q, acc))
    (chooses : chooseFrame s.requesters s.fab.ptr ((s.sendable p).filter fun y => y.q = q) = some y) :
    s.opTransmit p = (s.chosen p y acc).leaves p y := by
  unfold State.opTransmit
  dsimp only
  rw [if_neg (not_not_intro up), late, serves]
  dsimp only [Option.bind_some]
  rw [chooses]
  rfl

/-- The frames waiting at a port and its queues' turns. -/
def PortSt.queue (x : PortSt) : List QFrame × Tab Int := (x.txq, x.acc)

theorem queue_of_egress {x z : PortSt} (h : x.egress = z.egress) : x.queue = z.queue :=
  congrArg (fun e : List QFrame × Tab Int × Tab Nat × List QFrame × List QFrame × List Frame => (e.1, e.2.1)) h

theorem corrupted_egress (f : Frame) : ((s.corrupted p f).2.port p).egress = (s.port p).egress := by
  show ((if f.payload.isEmpty then (false, s) else s.inject p 2).2.port p).egress = _
  split
  · rfl
  · exact inject_egress ..

theorem swapped_egress (f : Frame) : ((s.swapped p f).2.port p).egress = (s.port p).egress := by
  unfold State.swapped
  split
  · exact inject_egress ..
  · rfl

theorem sendAhead_queue (f : Frame) : ((s.sendAhead p f).port p).queue = (s.port p).queue := by
  unfold State.sendAhead
  dsimp only
  rw [queue_of_egress (sendFrame_egress ..), modPort_same]
  rfl

/-- Whatever becomes of a chosen frame, the frames still waiting and the queues' turns stay. -/
theorem leaves_queue (y : QFrame) : ((s.leaves p y).port p).queue = (s.port p).queue := by
  have injected := queue_of_egress (inject_egress s p p 1)
  unfold State.leaves
  dsimp only
  split
  · rw [modPort_same]
    exact injected
  · have kept (f : Frame) : ((((s.inject p 1).2.corrupted p y.f).2.swapped p f).2.port p).queue = (s.port p).queue :=
      queue_of_egress ((swapped_egress f).trans ((corrupted_egress y.f).trans (inject_egress ..)))
    split
    · rw [modPort_same]
      exact kept _
    · rw [sendAhead_queue, kept]

/-- With no injection set and none held back, a chosen frame stands at the output as it is, and nothing is to go behind it. -/
theorem leaves_off {y : QFrame} (off : bits (s.pf (Reg.halInj + 8 * p)) 32 3 = 0) (empty : (s.port p).held = []) :
    ((s.leaves p y).port p).egress = { s.port p with out := [y.f], late := [] }.egress := by
  have whole : s.corrupted p y.f = (y.f, s.free.2) := by
    rw [State.corrupted, inject_off s p off (by decide), ite_self]
    rfl
  have goes : s.free.2.swapped p y.f = (false, s.free.2) := by
    rw [State.swapped, inject_off s.free.2 p off (by decide), ite_self]
  have ahead : s.leaves p y = s.free.2.sendAhead p y.f := by
    unfold State.leaves
    rw [inject_off s p off (by decide)]
    dsimp only
    rw [if_neg Bool.false_ne_true, whole]
    dsimp only
    rw [goes]
    exact if_neg Bool.false_ne_true
  have still : s.free.2.port p = s.port p := rfl
  rw [ahead, State.sendAhead, sendFrame_egress, modPort_same, still, empty]
  simp only [List.filter_nil, PortSt.egress, empty]

end
end

/-! ## The row of a port's ingress -/

section
variable (s : State) (p : Nat) (f : Frame)

/-- A row that takes a frame changes what its port received in cells, and nothing else. -/
theorem takeFrame_port (q : Nat) : ∃ l, (s.takeFrame p f).port q = { s.port q with rxFrames := l } := by
  unfold State.takeFrame
  split
  · by_cases h : q = p
    · exact ⟨_, by rw [h, modPort_same]⟩
    · exact ⟨_, modPort_ne _ _ _ _ h⟩
  · exact ⟨_, rfl⟩

theorem takeFrame_port_ne {q : Nat} (other : q ≠ p) : (s.takeFrame p f).port q = s.port q := by
  unfold State.takeFrame
  split
  · exact modPort_ne _ _ _ _ other
  · rfl

theorem takeFrame_txq (q : Nat) : ((s.takeFrame p f).port q).txq = (s.port q).txq := by
  obtain ⟨l, here⟩ := takeFrame_port s p f q
  rw [here]

theorem takeFrame_perr (q : Nat) : ((s.takeFrame p f).port q).perr = (s.port q).perr := by
  obtain ⟨l, here⟩ := takeFrame_port s p f q
  rw [here]

theorem takeFrame_fab : (s.takeFrame p f).fab = s.fab := by
  unfold State.takeFrame
  split <;> rfl

theorem takeFrame_me : (s.takeFrame p f).me = s.me := by
  unfold State.takeFrame
  split <;> rfl

theorem takeFrame_inHall : (s.takeFrame p f).inHall = s.inHall := by
  unfold State.takeFrame
  split <;> rfl

theorem takeFrame_route (dst : Nat) (inn : Option (Nat × Nat)) : (s.takeFrame p f).route dst inn = s.route dst inn := by
  unfold State.takeFrame
  split <;> rfl

theorem takeFrame_portOpen (q : Nat) : (s.takeFrame p f).portOpen q = s.portOpen q := by
  obtain ⟨l, here⟩ := takeFrame_port s p f q
  simp only [State.portOpen, here]

end

section
variable {s : State} {p q vc : Nat} {f : Frame}

/-- A frame dropped for its header is counted, and only the credits it held are freed beside. -/
theorem headerBad_counts : let t := (s.perr p Perr.malformed 1).freeFrame p f
    Tab.cnt (t.port p).perr Perr.malformed = min (Tab.cnt (s.port p).perr Perr.malformed + 1) 0xFFFF ∧ (t.port p).txq = (s.port p).txq ∧
      ∀ q ≠ p, t.port q = s.port q := by
  refine ⟨?_, ?_, fun q other => (modPort_ne _ _ _ _ other).trans (modPort_ne _ _ _ _ other)⟩
  all_goals simp only [State.freeFrame, State.freeCredits, State.perr, modPort_same, cnt_set_same]
  rfl

/-- A transit frame toward an open port waits there, in the pool of transit. -/
theorem transit_queues (hall : s.inHall = true) (next : s.route f.dst (some (p, f.vc)) = some (q, vc)) (opens : s.portOpen q = true) :
    ∃ rid, ((s.transit p f).port q).txq = (s.port q).txq
        ++ [⟨{ f with vc := vc, pool := 32 }, f.prio, f.swing, 2048 + p, rid, some (p, frameVci f, f.pool % 64)⟩]
      ∧ ∀ r, r ≠ q → r ≠ p → (s.transit p f).port r = s.port r := by
  simp only [State.transit, hall, next, opens, if_true, Bool.not_true, Bool.false_eq_true, if_false]
  refine ⟨if f.first then s.fab.nextRid else (Tab.find (s.port p).inRec (frameVci f)).getD s.fab.nextRid, ?waits,
    fun r notOut notIn => (modPort_ne _ _ _ _ notOut).trans (modPort_ne _ _ _ _ notIn)⟩
  case waits =>
    refine (congrArg PortSt.txq (modPort_same ..)).trans (congrArg₂ HAppend.hAppend ?_ rfl)
    exact congrArg Prod.fst (modPort_egress _ p q)

/-- A transit frame with no open port is unreachable. -/
theorem transit_unreachable (hall : s.inHall = true) (next : s.route f.dst (some (p, f.vc)) = some (q, vc)) (shut : s.portOpen q = false) :
    s.transit p f = (s.unreachable q f).freeFrame p f := by
  simp only [State.transit, hall, next, shut, if_true, Bool.not_false]

/-- A well-formed frame on a hall port, or of a mirror record on T, is not dropped (R316, R327). -/
theorem passes_checks {g : Frame} (wf : s.malformed g = false) (carried : p = 8 → f.typ = 7) :
    ¬(s.malformed g = true ∨ p = 8 ∧ f.typ ≠ 7) :=
  not_or.2 ⟨ne_true_of_eq_false wf, fun ⟨twin, other⟩ => other (carried twin)⟩

section
variable {serve : State → Nat → Frame → State} {deliver : State → Nat → RecIn → State} {bad b : Bool}
  (up : (s.port p).st = 2) (read : (if bad then { f with pzn := true } else f) = { f with pzn := b })
include up

/-- A frame whose header reads uncorrectable is dropped, whatever its payload reads. -/
theorem opForward_headerBad : ∃ g, s.opForward serve deliver p f true bad = ((s.takeFrame p f).perr p Perr.malformed 1).freeFrame p g :=
  ⟨_, if_neg (not_not_intro up)⟩

include read

/-- A frame that comes in is dropped as malformed, goes on to another module, or is for this one. -/
theorem opForward_reads : s.opForward serve deliver p f false bad =
    let u := s.takeFrame p f
    let g := { f with pzn := b }
    if s.malformed g = true ∨ p = 8 ∧ f.typ ≠ 7 then u.dropMalformed p g
    else if p ≠ 8 ∧ f.dst ≠ s.me then
      if classOf f.typ = 2 ∧ ∃ x ∈ s.fab.heads, x.2.port = p ∧ x.2.vc = f.vc % 2 then
        { u with fab := { u.fab with heads := u.fab.heads ++ [(transitKind,
          ⟨p, f.src, f.swing, f.dwing, b, 0, 0, frameHead g ++ f.payload, f.vc % 2, f.pool % 64, [f.payload.length], none⟩)] } }
      else u.transit p g
    else if classOf f.typ = 2 then u.joinFrame deliver p g else serve u p g := by
  have judged (g : Frame) : (s.takeFrame p f).malformed g = s.malformed g := malformed_takeFrame s p 0 f g
  simp only [State.opForward, up, read, judged, takeFrame_me, takeFrame_fab, ne_eq, not_true_eq_false, if_false, Bool.false_eq_true,
    Bool.or_eq_true, Bool.and_eq_true, decide_eq_true_eq, decide_not, Bool.not_eq_true', decide_eq_false_iff_not, List.any_eq_true]

/-- A well-formed frame for another module, behind no record on its path, is in transit. -/
theorem opForward_transits (wf : s.malformed { f with pzn := b } = false) (hall : p ≠ 8) (away : f.dst ≠ s.me)
    (clear : classOf f.typ ≠ 2 ∨ ∀ x ∈ s.fab.heads, ¬(x.2.port = p ∧ x.2.vc = f.vc % 2)) :
    s.opForward serve deliver p f false bad = (s.takeFrame p f).transit p { f with pzn := b } := by
  have first : ¬(classOf f.typ = 2 ∧ ∃ x ∈ s.fab.heads, x.2.port = p ∧ x.2.vc = f.vc % 2) := by
    rintro ⟨message, x, waits, same⟩
    exact clear.elim (absurd message) fun clear => clear x waits same
  rw [opForward_reads up read]
  exact (if_neg (passes_checks wf fun twin => absurd twin hall)).trans ((if_pos ⟨hall, away⟩).trans (if_neg first))

end
end

/-- Settles O50: a port sends what its arbitration or REORDER gives it, and passes on, counts, serves or joins what comes in. -/
theorem framesMove : Obligations.FramesMove := by
  intro s p
  refine ⟨fun q y acc up late serves chooses => ?chosen, fun y rest up late room => ?late, fun clk idle => ?idle,
    fun clk down f hb pb => ?down, fun f bad up => ?comes⟩
  case chosen =>
    have row := opTransmit_chooses up late serves chooses
    have chosen := chosen_egress (s := s) (p := p.val) y acc
    refine ⟨⟨_, frameRow_next row, ?_⟩, fun off none => ⟨_, frameRow_next row, ?_⟩⟩
    · have queue := (leaves_queue y).trans (queue_of_egress chosen)
      exact ⟨congrArg Prod.fst queue, congrArg Prod.snd queue⟩
    · simp only [PortSt.egress, PortSt.choose, Prod.mk.injEq] at chosen
      obtain ⟨taken, _, counted, held, _⟩ := chosen
      have sent := leaves_off (y := y) ((congrArg (bits · 32 3) (chosen_pf y acc _)).trans off) (held.trans none)
      simp only [PortSt.egress, Prod.mk.injEq] at sent
      obtain ⟨txq, _, used, _, late, out⟩ := sent
      refine ⟨txq.trans taken, out, late, ?_⟩
      exact (congrArg (Tab.cnt · _) (used.trans counted)).trans (cnt_set_same ..)
  case late =>
    have sent := sendFrame_egress (s.modPort p.val fun x => { x with late := rest }) p.val y.f
    simp only [modPort_same, PortSt.egress, Prod.mk.injEq] at sent
    obtain ⟨txq, _, _, _, late', out⟩ := sent
    exact ⟨_, frameRow_next (opTransmit_late up late room), out, late', txq⟩
  case idle => exact (frameRow_next (opTransmit_idle idle)).trans (congrArg _ (keepFrame_self clk))
  case down => exact (frameRow_next (if_pos down)).trans (congrArg _ (keepFrame_self clk))
  case comes =>
    intro u g
    obtain ⟨b, read⟩ : ∃ b, (if bad then { f with pzn := true } else f) = { f with pzn := b } := by cases bad <;> exact ⟨_, rfl⟩
    have marked : g = { f with pzn := b } := read
    clear_value g
    subst marked
    have reads := opForward_reads (serve := State.serveFrame) (deliver := State.deliverRec) up read
    refine ⟨fun wrong => ?malformed, fun wf hall away clear => ⟨fun q vc inHall next opens => ?queues, fun q vc inHall next shut => ?shut⟩,
      fun wf hall away message behind => ?behind, fun wf here => ?here, ?headerBad⟩
    case malformed => exact frameRow_next (reads.trans (if_pos wrong))
    case queues =>
      obtain ⟨rid, queued, others⟩ := transit_queues (f := { f with pzn := b })
        ((takeFrame_inHall ..).trans inHall) ((takeFrame_route ..).trans next) ((takeFrame_portOpen s p.val f q).trans opens)
      rw [takeFrame_txq] at queued
      exact ⟨_, rid, frameRow_next (opForward_transits up read wf hall away clear), queued,
        fun r notOut notIn => (others r notOut notIn).trans (takeFrame_port_ne _ _ _ notIn)⟩
    case shut =>
      exact frameRow_next ((opForward_transits up read wf hall away clear).trans (transit_unreachable ((takeFrame_inHall ..).trans inHall)
        ((takeFrame_route ..).trans next) ((takeFrame_portOpen ..).trans shut)))
    case behind =>
      exact ⟨_, _, frameRow_next (reads.trans ((if_neg (passes_checks wf fun twin => absurd twin hall)).trans
          ((if_pos ⟨hall, away⟩).trans (if_pos ⟨message, behind⟩)))),
        congrArg (fun x : Fab => x.heads ++ [_]) (takeFrame_fab ..), rfl, rfl, rfl, takeFrame_txq s p.val f⟩
    case here =>
      have carried (twin : p.val = 8) : f.typ = 7 := here.elim (fun h => absurd twin h.1) And.right
      have mine : ¬(p.val ≠ 8 ∧ f.dst ≠ s.me) := fun ⟨hall, away⟩ => here.elim (fun h => away h.2) fun h => hall h.1
      exact frameRow_next (reads.trans ((if_neg (passes_checks wf carried)).trans (if_neg mine)))
    case headerBad =>
      obtain ⟨g, dropped⟩ := opForward_headerBad (serve := State.serveFrame) (deliver := State.deliverRec) (f := f) (bad := bad) up
      obtain ⟨count, txq, others⟩ := headerBad_counts (s := u) (p := p.val) (f := g)
      rw [takeFrame_perr] at count
      exact ⟨_, frameRow_next dropped, count, txq.trans (takeFrame_txq ..),
        fun q other => (others q other).trans (takeFrame_port_ne _ _ _ other)⟩

end Sys2Proof.Machine

/-!
SUPPORT. What the taking of an entry and the completion of a command leave alone (spec/16_newel.md R363 to R371): service and trust, bytes,
the commands outstanding, and of each wing all but its counts.
-/
namespace Sys2Proof.Machine

/-- Service and trust, which rows of other commands take from the state before them. -/
def State.standing (s : State) : Svc × Trust := (s.svc, s.trust)

section
variable {s t : State} (h : t.apart = s.apart)
include h

theorem apart_svc : t.svc = s.svc := congrArg (fun x : State × (Nat → Wing) × (Nat → CxlSt) => x.1.svc) h
theorem apart_trust : t.trust = s.trust := congrArg (fun x : State × (Nat → Wing) × (Nat → CxlSt) => x.1.trust) h
theorem apart_out : t.newel.out = s.newel.out := congrArg (fun x : State × (Nat → Wing) × (Nat → CxlSt) => x.1.newel.out) h
theorem apart_load (w : Nat) : (t.wing w).load = (s.wing w).load := (congrArg Wing.load (apart_wing h w) :)
theorem apart_standing : t.standing = s.standing := congrArg₂ Prod.mk (apart_svc h) (apart_trust h)

end

section
variable (s : State)

theorem writeCpl_apart (x : Cpl) : (s.writeCpl x).apart = s.apart := by
  unfold State.writeCpl
  exact apart_ite ((modFn_apart ..).trans ((modFn_apart ..).trans (hostWrite_apart ..))) ((modFn_apart ..).trans (hostWrite_apart ..))

@[simp] theorem writeCpl_mem (x : Cpl) : (s.writeCpl x).mem = s.mem := by
  unfold State.writeCpl
  dsimp only
  split
  · exact hostWrite_mem ..
  · exact hostWrite_mem ..

/-- A completion is written now, or waits with those due after a restart (R381). -/
theorem complete_cases (c : Cmd) (status detail : Nat) (r : List Nat) :
    s.complete c status detail r = s.writeCpl ⟨c, status, detail, s.tread, r⟩
      ∨ ∃ due, s.complete c status detail r = { s with newel := { s.newel with due := due } } := by
  unfold State.complete
  dsimp only
  split
  · exact .inl rfl
  · exact .inr ⟨_, rfl⟩

variable (c : Cmd) (status detail : Nat) (r : List Nat)

theorem complete_standing : (s.complete c status detail r).standing = s.standing := by
  rcases complete_cases s c status detail r with now | ⟨due, waits⟩
  · rw [now, apart_standing (writeCpl_apart ..)]
  · rw [waits]; rfl

@[simp] theorem complete_out : (s.complete c status detail r).newel.out = s.newel.out := by
  rcases complete_cases s c status detail r with now | ⟨due, waits⟩
  · rw [now, apart_out (writeCpl_apart ..)]
  · rw [waits]

@[simp] theorem complete_load (w : Nat) : ((s.complete c status detail r).wing w).load = (s.wing w).load := by
  rcases complete_cases s c status detail r with now | ⟨due, waits⟩
  · rw [now, apart_load (writeCpl_apart ..)]
  · rw [waits]; rfl

@[simp] theorem complete_mem : (s.complete c status detail r).mem = s.mem := by
  rcases complete_cases s c status detail r with now | ⟨due, waits⟩
  · rw [now, writeCpl_mem]
  · rw [waits]

@[simp] theorem complete_trust : (s.complete c status detail r).trust = s.trust := congrArg Prod.snd (complete_standing s c status detail r)

theorem takeHead_standing (fn : Nat) : (s.takeHead fn).standing = s.standing := by
  have charged : (s.hostIn fn 128).apart = s.apart := apart_ite rfl (charge_apart ..)
  show (s.hostIn fn 128).standing = s.standing
  exact apart_standing charged

end

theorem takeRest_standing (n : Nat) (s : State) : (State.takeRest n s).standing = s.standing := by
  induction n generalizing s with
  | zero => rfl
  | succ n ih =>
    unfold State.takeRest
    split
    · rfl
    · split
      · rfl
      · dsimp only
        split
        · rw [ih, complete_standing, takeHead_standing]
        · rfl

section
variable {s q : State} {fn : Fn} {clk : Clk} {k : CmdSpec} {c : Cmd}

/-- The taking of an entry changes neither service nor trust. -/
theorem taken_standing (h : s.taken fn clk k = some (q, c)) : q.standing = s.standing := by
  unfold State.taken at h
  dsimp only at h
  split at h
  · cases h
  · split at h
    · cases h
      exact (takeHead_standing ..).trans (takeRest_standing ..)
    · cases h

/-- The row of a command whose entry is taken ends in the state that its own rules end in, under the row's own confinement. -/
theorem commandRow_next (h : s.taken fn clk k = some (q, c)) {body : State → Cmd → State} {r : State} (runs : body q c = r)
    (keep : State → State) : (.next (keep (s.mailRow fn.val clk.val k body)) : Host.Outcome State Fault Refusal) = .next (keep r) := by
  rw [mailRow_taken h, runs]

/-- A command held by a row that changes neither service nor trust is outstanding, and nothing else has changed. -/
theorem hold_holding {u : State} (same : u.standing = s.standing) (c : Cmd) : u.holding (s.keepCommand (u.hold c)) c := by
  obtain ⟨svc, trust⟩ := Prod.mk.inj same
  exact ⟨rfl, rfl, rfl, rfl, rfl, rfl, rfl, rfl, svc.symm, trust.symm⟩

end

end Sys2Proof.Machine

/-!
The settled statement of commands that stage an effect (spec/08_generation.md R172, spec/09_kv_cache.md R204, spec/10_variants_epochs.md R219,
R222, R227, spec/13_turn.md R294, spec/15_wings.md R341, spec/16_newel.md R380, spec/17_trust.md R391, R395, spec/19_service.md R433).
-/
namespace Sys2Proof.Machine

/-- A test that holds does not refuse. -/
theorem not_refused {b : Bool} (holds : b = true) : ¬(!b) = true := by rw [holds]; decide

/-- A test that fails refuses. -/
theorem refused {b : Bool} (fails : ¬b = true) : (!b) = true := by rwa [Bool.not_eq_true', ← Bool.not_eq_true]

/-! ## Admissions, forks and registrations -/

/-! Fields of the argument words (Table 16.5). -/

/-- The row that SEQ_ADMIT fills or SEQ_FORK copies. -/
def Cmd.slot (c : Cmd) : Nat := bits (c.arg 0) 0 14

/-- The row that SEQ_FORK fills or PREFIX_REGISTER shares. -/
def Cmd.slot2 (c : Cmd) : Nat := bits (c.arg 0) 16 14

/-- The PREFIX entry that an admission names, where it names one. -/
def Cmd.pfx (c : Cmd) : Nat := bits (c.arg 0) 32 16

/-- An admission names a PREFIX entry. -/
def Cmd.named (c : Cmd) : Bool := bit (c.arg 0) 48

/-- The tokens of an admission's prompt. -/
def Cmd.prompt (c : Cmd) : Nat := bits (c.arg 1) 0 21

/-- The PREFIX entry that a registration names. -/
def Cmd.handle (c : Cmd) : Nat := bits (c.arg 0) 0 16

/-- The tokens that a fork begins with. -/
def Cmd.forkLen (c : Cmd) : Nat := bits (c.arg 0) 32 21

/-- The tokens that a registration covers. -/
def Cmd.pfxLen (c : Cmd) : Nat := bits (c.arg 0) 32 13

section
variable (s : State) (c : Cmd)

/-- The entry of the adapter that a row uses is read. -/
def State.rowAdpFetch : State := if rwNoadapt c.rowArg then s else s.adpFetch c.wing (rwAdapter c.rowArg)

/-- The state past the tables that SEQ_ADMIT judges. -/
def State.admitFetch : State :=
  let r := s.seqFetch c.wing c.slot
  (if c.named then r.pfxFetch c.wing c.pfx else r).rowAdpFetch c

/-- The state past the tables that SEQ_FORK judges. -/
def State.forkFetch : State := ((s.seqFetch c.wing c.slot).seqFetch c.wing c.slot2).rowAdpFetch c

/-- The entry that a SEQ_ADMIT names is READY. -/
def State.admitKnown : Bool := c.named && c.pfx < s.pfxCount c.wing && s.pfxState c.wing c.pfx = 2

/-- The tokens that an admitted sequence takes from its PREFIX entry. -/
def State.admitPfx : Nat := if s.admitKnown c then s.pfxLen c.wing c.pfx else 0

/-- The pages that an admitted sequence shares with its PREFIX entry. -/
def State.admitShare : List Nat := (upFrom 0 (s.admitPfx c / 16)).map (s.pfxPage c.wing c.pfx)

/-- The row that SEQ_ADMIT stages. -/
def State.admitRow : List Byte :=
  s.newRow c.wing c.rowArg (s.admitPfx c + c.prompt) (s.admitPfx c) (s.admitPfx c) (if c.named then some c.pfx else none)

/-- The row that SEQ_FORK stages. -/
def State.forkRow : List Byte :=
  let p := s.ptRow c.wing c.slot
  s.newRow c.wing c.rowArg c.forkLen (c.forkLen - 1) (rwPfx (s.rowBytes c.wing c.slot)) (if p.pfxv then some p.pfxh else none)

variable (w slot n : Nat)

/-- The first pages of a sequence's live list. -/
def State.livePages : List Nat := (upFrom 0 n).map fun x => (s.entOf w slot (s.ptRow w slot).sel x).2

/-- The page state entries of some pages are read. -/
def State.pgFetches (l : List Nat) : State := l.foldl (fun s i => s.pgFetch w i) s

/-- The page of a live list that a copy begins from, where so many tokens do not end with a page (R204). -/
def State.partPage : Option Nat := if n % 16 = 0 then none else some (s.entOf w slot (s.ptRow w slot).sel (n / 16)).2

/-- A live list and the page state entries of its first pages are read. -/
def State.shareFetch (bytes : Nat) : State :=
  (s.fetchIn w (s.ptEnt w slot (s.ptRow w slot).sel 0) bytes).pgFetches w (s.livePages w slot n)

/-- The pages of a sequence are its own to share: it is LIVE, or PARKED in place (R204, R227). -/
def State.shares : Prop := rwState (s.rowBytes w slot) = 1 ∨ rwState (s.rowBytes w slot) = 2 ∧ (s.ptRow w slot).place = 0

/-- A sequence can be forked at a length (R204). -/
structure State.Forks : Prop where
  inTable : slot < s.seqCount w
  shares : s.shares w slot
  notEmpty : 0 < n
  pastPrefix : rwPfx (s.rowBytes w slot) ≤ n - 1
  written : n - 1 ≤ rwPos (s.rowBytes w slot)

/-- The first tokens of a sequence can be registered as a PREFIX entry (R227). -/
structure State.Registers (h : Nat) : Prop where
  handle : h < s.pfxCount w
  notEmpty : 1 ≤ n
  fits : n ≤ 4096
  inTable : slot < s.seqCount w
  empty : s.pfxState w h = 0
  shares : s.shares w slot
  written : n ≤ rwPos (s.rowBytes w slot)
  plain : rwNoadapt (s.rowBytes w slot) = true
  whole : rwPfx (s.rowBytes w slot) = 0

/-- A row can be laid out: the pages that it shares can gain a reference, it may stage, and its further pages are free (R203, R206). -/
structure State.Lays (share : List Nat) : Prop where
  below : ∀ i ∈ share, s.pgRefs w i < 65535
  stages : s.canStage w slot = true
  room : s.kvReserve w + n ≤ (s.freePages w).length

end

section
variable {s q f : State} {c : Cmd} {w slot n : Nat}

theorem shares_iff :
    (rwState (s.rowBytes w slot) = 1 || rwState (s.rowBytes w slot) = 2 && (s.ptRow w slot).place = 0) = true ↔ s.shares w slot := by
  simp only [State.shares, Bool.or_eq_true, Bool.and_eq_true, decide_eq_true_eq]

/-- No page of a list that can gain references stands at their limit (R195). -/
theorem not_refLimit {l : List Nat} (below : ∀ i ∈ l, f.pgRefs w i < 65535) : ¬(l.any fun i => decide (f.pgRefs w i ≥ 65535)) = true := by
  simpa only [List.any_eq_true, decide_eq_true_eq, not_exists, not_and, not_le] using below

theorem partPage_isSome (s : State) (w slot n : Nat) : (s.partPage w slot n).isSome = decide (n % 16 ≠ 0) := by
  unfold State.partPage
  by_cases whole : n % 16 = 0
  · rw [if_pos whole, decide_eq_false (not_not_intro whole)]; rfl
  · rw [if_neg whole, decide_eq_true whole]; rfl

/-- An admission that passes lays its row out, sharing the pages of its PREFIX entry (R172, R203, R228). -/
theorem cmdSeqAdmit_stages (fetched : s.admitFetch c = q) (judged : q.pgFetches c.wing (q.admitShare c) = f)
    (known : c.named = true → c.pfx < q.pfxCount c.wing ∧ q.pfxState c.wing c.pfx = 2
      ∧ q.pfxEpoch c.wing c.pfx = (q.job c.wing).vr.wep)
    (passes : q.rowRefusal c.wing c.slot c.rowArg (q.admitPfx c + c.prompt) c.prompt = none)
    (lays : f.Lays c.wing c.slot (backing (q.admitRow c) - q.admitPfx c / 16) (q.admitShare c)) :
    ∃ part, s.cmdSeqAdmit c = f.stageRow c.wing c.slot 0 c (q.admitRow c) (q.admitShare c) part := by
  subst fetched judged
  have ready : ¬(c.named && !(s.admitFetch c).admitKnown c) = true := by
    simp only [State.admitKnown, Bool.and_eq_true, Bool.not_eq_true', not_and, Bool.not_eq_false, decide_eq_true_eq]
    intro named
    obtain ⟨inTable, ready, _⟩ := known named
    exact ⟨⟨named, inTable⟩, ready⟩
  have current : ¬(c.named && decide ((s.admitFetch c).pfxEpoch c.wing c.pfx ≠ ((s.admitFetch c).job c.wing).vr.wep)) = true := by
    simp only [Bool.and_eq_true, decide_eq_true_eq, not_and, not_not]
    intro named
    obtain ⟨_, _, current⟩ := known named
    exact current
  unfold State.cmdSeqAdmit
  dsimp only
  split
  · rename_i st refused
    exact absurd (passes.symm.trans refused) (Option.some_ne_none st).symm
  · exact ⟨_, (if_neg ready).trans ((if_neg current).trans ((if_neg (not_refLimit lays.below)).trans
      ((if_neg (not_refused lays.stages)).trans (if_neg (not_lt.2 lays.room)))))⟩

/-- A fork that passes lays its row out, sharing the pages of the row that it copies (R204). -/
theorem cmdSeqFork_stages (fetched : s.forkFetch c = q) {k : Nat} {part : Option Nat} (whole : (c.forkLen - 1) / 16 = k)
    (cut : q.partPage c.wing c.slot (c.forkLen - 1) = part)
    (judged : q.shareFetch c.wing c.slot k (4 * ((q.livePages c.wing c.slot k).length + b2n part.isSome)) = f)
    (forks : q.Forks c.wing c.slot c.forkLen)
    (passes : q.rowRefusal c.wing c.slot2 c.rowArg c.forkLen (c.forkLen - rwPfx (q.rowBytes c.wing c.slot)) = none)
    (lays : f.Lays c.wing c.slot2 (backing (q.forkRow c) - k) (q.livePages c.wing c.slot k)) :
    s.cmdSeqFork c = f.stageRow c.wing c.slot2 1 c (q.forkRow c) (q.livePages c.wing c.slot k) part := by
  have fits : ¬(c.forkLen = 0 ∨ c.forkLen - 1 < rwPfx (q.rowBytes c.wing c.slot) ∨ c.forkLen - 1 > rwPos (q.rowBytes c.wing c.slot)) := by
    obtain ⟨_, _, notEmpty, pastPrefix, written⟩ := forks
    omega
  subst fetched whole cut judged
  unfold State.cmdSeqFork
  dsimp only
  refine (if_neg (not_le.2 forks.inTable)).trans ((if_neg (not_refused (shares_iff.2 forks.shares))).trans ((if_neg fits).trans ?_))
  split
  · rename_i st refused
    exact absurd (passes.symm.trans refused) (Option.some_ne_none st).symm
  · exact (if_neg (not_refLimit lays.below)).trans ((if_neg (not_lt.2 lays.room)).trans (if_neg (not_refused lays.stages)))

/-- A registration that passes is held; where the tokens do not end with a page, a copy of the last one is begun (R227). -/
theorem cmdPrefixRegister_stages (fetched : (s.pfxFetch c.wing c.handle).seqFetch c.wing c.slot2 = q)
    (judged : q.shareFetch c.wing c.slot2 (c.pfxLen / 16) (4 * ((c.pfxLen + 15) / 16)) = f)
    (registers : q.Registers c.wing c.slot2 c.pfxLen c.handle)
    (below : ∀ i ∈ q.livePages c.wing c.slot2 (c.pfxLen / 16), f.pgRefs c.wing i < 65535)
    (room : c.pfxLen % 16 ≠ 0 → f.kvReserve c.wing + 1 ≤ (f.freePages c.wing).length) :
    ∃ u, s.cmdPrefixRegister c = State.hold u c := by
  obtain ⟨handle, notEmpty, fits, inTable, empty, shares, written, plain, whole⟩ := registers
  have inRange : ¬(c.handle ≥ q.pfxCount c.wing ∨ c.pfxLen = 0 ∨ c.pfxLen > 4096 ∨ c.slot2 ≥ q.seqCount c.wing) := by omega
  have sound : ¬(c.pfxLen > rwPos (q.rowBytes c.wing c.slot2) ∨ rwNoadapt (q.rowBytes c.wing c.slot2) = false
      ∨ rwPfx (q.rowBytes c.wing c.slot2) ≠ 0) := by
    rw [plain, whole]
    simpa using written
  have free : ¬(c.pfxLen % 16 ≠ 0 ∧ (f.freePages c.wing).length < f.kvReserve c.wing + 1) :=
    fun ⟨part, full⟩ => absurd (room part) (not_le.2 full)
  subst fetched judged
  unfold State.cmdPrefixRegister
  dsimp only
  exact ⟨_, (if_neg inRange).trans ((if_neg (not_not_intro empty)).trans ((if_neg (not_refused (shares_iff.2 shares))).trans
    ((if_neg sound).trans ((if_neg (not_refLimit below)).trans (if_neg free)))))⟩

end

/-! ## Flips, adapters and landings -/

section
variable {s q : State} {c : Cmd}

@[simp] theorem modVr_vr (w : Nat) (f : Variants → Variants) : ((s.modVr w f).job w).vr = f (s.job w).vr := by simp [State.modVr]
@[simp] theorem modVr_turn (w : Nat) (f : Variants → Variants) : ((s.modVr w f).job w).turn = (s.job w).turn := by simp [State.modVr]
@[simp] theorem modTurn_turn (w : Nat) (f : Turn → Turn) : ((s.modTurn w f).job w).turn = f (s.job w).turn := by simp [State.modTurn]

/-- The flip that EPOCH_FLIP asks for. -/
def Cmd.flip (c : Cmd) : Flip := ⟨c.arg 0, if bit (c.arg 1) 0 then some (c.arg 2) else none, c.eff, some c.cid⟩

/-- The flip is pending, and EPOCH and BANK wait for it (R219). -/
theorem cmdEpochFlip_stages (sound : (s.wing c.wing).load.bad = false) (passes : s.flipRefusal c.wing (c.arg 0) = none) :
    s.cmdEpochFlip c = (s.modVr c.wing fun v => { v with pend := some c.flip }).hold c := by
  unfold State.cmdEpochFlip
  rw [sound, passes]
  rfl

theorem adpFetch_apart (s : State) (w h : Nat) : (s.adpFetch w h).apart = s.apart := apart_ite (fetchIn_apart ..) rfl

theorem cmdAdapterLoad_holds {f : FmtInfo}
    (fetched : (s.adpFetch c.wing (bits (c.arg 0) 0 12)).fetchIn c.wing (c.arg 1) (32 * min (c.arg 2) 4096) = q)
    (fields : bits (c.arg 0) 0 12 < q.adpCount c.wing ∧ (bits (c.arg 0) 16 5 = 2 ∨ bits (c.arg 0) 16 5 = 16) ∧ 1 ≤ bits (c.arg 0) 32 9
      ∧ bits (c.arg 0) 32 9 ≤ q.rmax c.wing ∧ 1 ≤ c.arg 2 ∧ c.arg 2 ≤ 4096 ∧ c.arg 3 % 2 ^ 31 < 0x7F800000)
    (known : fmtInfo (bits (c.arg 0) 16 5) = some f) (free : adpOldv (q.adpEnt c.wing (bits (c.arg 0) 0 12)) = false)
    (inWindow : q.mappedIn c.wing (q.bankNow c.wing) [1] (c.arg 1) (32 * c.arg 2) = true)
    (sites : ∀ i ∈ upFrom 0 (c.arg 2), q.siteOk c.wing f (bits (c.arg 0) 32 9) (c.arg 1 + 32 * i) = true) :
    s.cmdAdapterLoad c = q.hold c := by
  have inRange : ¬(bits (c.arg 0) 0 12 ≥ q.adpCount c.wing ∨ (bits (c.arg 0) 16 5 ≠ 2 ∧ bits (c.arg 0) 16 5 ≠ 16) ∨ bits (c.arg 0) 32 9 = 0
      ∨ bits (c.arg 0) 32 9 > q.rmax c.wing ∨ c.arg 2 = 0 ∨ c.arg 2 > 4096 ∨ c.arg 3 % 2 ^ 31 ≥ 0x7F800000) := by omega
  subst fetched
  unfold State.cmdAdapterLoad
  dsimp only
  refine (if_neg inRange).trans ((if_neg (ne_true_of_eq_false free)).trans ?_)
  rw [known]
  exact if_pos (Bool.and_eq_true_iff.2 ⟨inWindow, List.all_eq_true.2 sites⟩)

/-- The landing that TURN_LAND asks for. -/
def Cmd.land (c : Cmd) : Land := ⟨c.arg 0, bits (c.arg 1) 0 16, bit (c.arg 1) 32, c.arg 2, bits (c.arg 1) 16 2, c.cid⟩

/-- The landing is named, with the flip that it carries, and failed blocks get fresh attempts (R293, R294). -/
theorem cmdTurnLand_stages (layout : (s.job c.wing).turn.pend.isSome = true) (idle : (s.job c.wing).turn.land = none)
    (ahead : treadReached (treadAdd c.at_ 2) (c.arg 0) = true) (policy : bits (c.arg 1) 16 2 ≠ 3) (window : bits (c.arg 1) 0 16 ≠ 0)
    (snap : s.seqCount c.wing = 0
      ∨ s.mappedIn c.wing (s.bankNow c.wing) [1] (addrOf (s.wr c.wing Reg.wngTurnSnap) 6) (16 + 4 * s.seqCount c.wing) = true)
    (flips : bit (c.arg 1) 32 = true → (s.wing c.wing).load.bad = false ∧ s.flipRefusal c.wing (c.arg 2) = none) :
    ∃ u, s.cmdTurnLand c = State.hold u c ∧ u.newel = s.newel ∧ (u.job c.wing).turn.land = some c.land ∧ (u.job c.wing).turn.failed = [] := by
  have given : ¬(s.job c.wing).turn.pend.isNone = true := by rwa [Option.isNone_iff_eq_none, ← ne_eq, ← Option.isSome_iff_ne_none]
  have noLand : ¬(s.job c.wing).turn.land.isSome = true := by rw [idle]; exact Bool.false_ne_true
  have inWindow : (decide (s.seqCount c.wing = 0) || s.mappedIn c.wing (s.bankNow c.wing) [1] (addrOf (s.wr c.wing Reg.wngTurnSnap) 6)
      (16 + 4 * s.seqCount c.wing)) = true := by rwa [Bool.or_eq_true, decide_eq_true_eq]
  have passes : (if (!bit (c.arg 1) 32) = true then none else if (s.wing c.wing).load.bad = true then some St.shardBad
      else s.flipRefusal c.wing (c.arg 2)) = none := by
    cases flip : bit (c.arg 1) 32
    · rfl
    · obtain ⟨good, accepts⟩ := flips flip
      rw [good, accepts]; rfl
  unfold State.cmdTurnLand
  dsimp only
  rw [if_neg given, if_neg noLand, if_neg (not_refused ahead), inWindow, if_neg (by simp [policy, window]), passes]
  refine ⟨_, rfl, ?_⟩
  split <;> exact ⟨rfl, by simp [Cmd.land], by simp⟩

/-- The guest flight is held beside those that run (R341). -/
theorem cmdGuestLoad_stages {f : Flight} (fetched : s.flightFetch c.wing (c.arg 1) = q) (aligned : c.arg 1 % 64 = 0)
    (lends : s.lends (bits (c.arg 0) 0 5) c.wing = true) (valid : s.validate c.wing (c.arg 1) (some (bits (c.arg 0) 0 5)) = .inr f) :
    ∃ u, s.cmdGuestLoad c = State.hold u c ∧ u.newel = q.newel
      ∧ (u.wing c.wing).guestNext = (q.wing c.wing).guestNext ++ [⟨bits (c.arg 0) 0 5, f⟩]
      ∧ (u.wing c.wing).guests = (q.wing c.wing).guests := by
  refine ⟨q.modWing c.wing fun x => { x with guestNext := x.guestNext ++ [⟨bits (c.arg 0) 0 5, f⟩] }, ?_, rfl, ?_⟩
  · unfold State.cmdGuestLoad
    dsimp only
    rw [if_neg (by rw [lends, aligned]; decide), valid, fetched]
  · rw [modWing_same]
    exact ⟨rfl, rfl⟩

end

/-! ## Units, images and loads -/

section
variable {s : State} {c : Cmd}

/-- A unit as UNIT_SET leaves it at acceptance: the state intended is named, and is acted on from its boundary (R380). -/
def UnitSt.intend (u : UnitSt) (st now : Nat) : UnitSt :=
  { u with want := st, ackd := true, since := if st = u.hw then none else some now, told := false }

theorem acceptUnitSet_stages {kind n st : Nat} (named : bits (c.arg 0) 0 4 = kind) (number : bits (c.arg 0) 4 10 = n)
    (wanted : bits (c.arg 1) 0 8 = st) (inRange : n < unitCount kind) (settable : kind ≠ 1 ∧ kind ≠ 2) (state : st = 0 ∨ st = 4)
    (spare : kind = 0 → ∀ l, s.logicalOf n = some l → s.coreWing l = none) (free : (s.unit (unitKey kind n)).ackd = false)
    (alone : ∀ d ∈ s.outOp 0x701, bits (d.arg 0) 0 14 ≠ bits (c.arg 0) 0 14) (sound : st = 0 → (s.unit (unitKey kind n)).hw ≠ 1) :
    s.acceptUnitSet c = (s.hold c).modUnit (unitKey kind n) fun u => u.intend st s.tread := by
  subst named number wanted
  unfold State.acceptUnitSet
  dsimp only
  refine (if_neg ?fields).trans ((if_neg ?free).trans (if_neg fun ⟨live, faulty⟩ => sound live faulty))
  case fields =>
    rintro (out | one | two | odd | inWing)
    · exact absurd inRange (not_lt.2 out)
    · exact settable.1 one
    · exact settable.2 two
    · exact not_refused (decide_eq_true state) odd
    · rw [Bool.and_eq_true, decide_eq_true_eq] at inWing
      obtain ⟨core, owned⟩ := inWing
      split at owned
      · rename_i l here
        rw [spare core l here] at owned
        cases owned
      · cases owned
  case free =>
    rintro (taken | other)
    · exact ne_true_of_eq_false free taken
    · rw [List.any_eq_true] at other
      obtain ⟨d, held, same⟩ := other
      exact alone d held (of_decide_eq_true same)

/-- The replacement that CORE_SPARE begins with a spare. -/
def Cmd.repl (c : Cmd) (spare : Nat) : Repl := ⟨c.cid, bits (c.arg 0) 0 10, spare, c.arg 1, 0, false⟩

/-- The lowest spare of the field is chosen (R433). -/
theorem acceptCoreSpare_stages {p : Nat} {ps : List Nat} (core : bits (c.arg 0) 0 10 ≤ 799) (ahead : treadReached s.tread (c.arg 1) = true)
    (far : 128 ≤ treadDiff s.tread (c.arg 1)) (alone : ∀ r ∈ s.svc.repl, r.core ≠ bits (c.arg 0) 0 10)
    (spares : s.sparesOf (bits (c.arg 0) 0 10) = p :: ps) :
    s.acceptCoreSpare c = { s.hold c with svc := { s.svc with repl := s.svc.repl ++ [c.repl p] } } := by
  have inTime : ¬((!treadReached s.tread (c.arg 1)) = true ∨ treadDiff s.tread (c.arg 1) < 128) :=
    not_or.2 ⟨not_refused ahead, not_lt.2 far⟩
  have idle : ¬(s.svc.repl.any fun r => decide (r.core = bits (c.arg 0) 0 10)) = true := by
    simpa only [List.any_eq_true, decide_eq_true_eq, not_exists, not_and] using alone
  unfold State.acceptCoreSpare
  dsimp only
  rw [if_neg (not_lt.2 core), if_neg inTime, if_neg idle, spares]
  rfl

@[simp] theorem modLoad_load (w : Nat) (f : ModelLoad → ModelLoad) : ((s.modLoad w f).wing w).load = f (s.wing w).load := by simp [State.modLoad]
@[simp] theorem modVr_load (w : Nat) (f : Variants → Variants) : ((s.modVr w f).wing w).load = (s.wing w).load := by
  simp [State.modVr, State.modJob]

/-- A load as MODEL_LOAD begins it (R395, R396). -/
def ModelLoad.begun (l : ModelLoad) (c : Cmd) (im : Image) : ModelLoad :=
  { l with
    fshard := naLoc, st := 1, done := 0, cid := some c.cid, image := im.id, base := c.arg 1, span := im.destSize
    queues := shardQueues im.shards.length, written := [], wrong := [] }

/-- The signature decides whether a load that passes its other checks begins (R388, R395). -/
theorem cmdModelLoad_judges {im : Image} (found : s.findImage (c.arg 0) = some im) (aligned : c.arg 1 % 64 = 0)
    (alone : s.outOf 0x800 c.wing = []) (still : bit (c.arg 2) 0 = false → c.arg 3 = 0)
    (flips : bit (c.arg 2) 0 = true → s.flipRefusal c.wing (c.arg 3) = none) (inWindow : s.tableIn c.wing (c.arg 1) im.destSize = true)
    (writable : s.barred c.wing (c.arg 1) im.destSize = false) :
    if s.sigGood (bits (s.pr c.wing Reg.wngKeys) 0 8) im.keyHash im.manifest im.sig = true then
      ∃ u, s.cmdModelLoad c = State.hold u c ∧ u.newel = s.newel ∧ (u.wing c.wing).load = (s.wing c.wing).load.begun c im
    else s.cmdModelLoad c = s.complete c St.sigBad 0 [] := by
  have sound : ¬(decide (c.arg 1 % 64 ≠ 0) || !(s.outOf 0x800 c.wing).isEmpty || !bit (c.arg 2) 0 && decide (c.arg 3 ≠ 0)) = true := by
    rw [alone, aligned]
    cases flip : bit (c.arg 2) 0
    · simp [still flip]
    · simp
  have passes : (if bit (c.arg 2) 0 = true then s.flipRefusal c.wing (c.arg 3) else none) = none := by
    split
    · exact flips ‹_›
    · rfl
  unfold State.cmdModelLoad
  dsimp only
  rw [found]
  dsimp only
  rw [if_neg sound, passes]
  dsimp only
  split
  · rename_i good
    rw [if_neg (not_refused good), if_neg (by rw [inWindow, writable]; decide)]
    refine ⟨_, rfl, ?_⟩
    split <;> exact ⟨rfl, by simp [ModelLoad.begun]⟩
  · exact if_pos (refused ‹_›)

end

section
variable {s : State} {c : Cmd} {b : List Byte}

theorem sliceB_take {lo n k : Nat} (within : lo + n ≤ k) : sliceB (b.take k) lo n = sliceB b lo n := by
  have same : ((b.take k).drop lo).take n = (b.drop lo).take n := by
    rw [List.drop_take, List.take_take, min_eq_left (by omega)]
  simp only [sliceB, same]

/-- The manifest that an image's bytes begin with (Table 17.2). -/
def manifestOf (b : List Byte) : List Byte := b.take (256 + 96 * fieldN b 4 4)

/-- The image that IMAGE_WRITE enters, with nothing of it in flash. -/
def Cmd.image (c : Cmd) (b : List Byte) : Image :=
  let m := manifestOf b
  ⟨fieldN m 8 8, c.arg 1, fieldN m 24 8, fieldN m 32 4, fieldN m 36 4, sliceB m 40 16, 0, m, sliceB b (256 + 96 * fieldN b 4 4) 29792,
    (upFrom 0 (fieldN b 4 4)).map (shardOf m), [], some c.cid, []⟩

/-- The signature decides whether a well-formed image enters the directory (R388, R391). -/
theorem acceptImageWrite_judges (head : (s.hostRead c.fn (c.arg 0) 256).map (fun x => x.map (·.1)) = some (b.take 256))
    (few : fieldN b 4 4 ≤ 65536)
    (whole : (s.hostRead c.fn (c.arg 0) (256 + 96 * fieldN b 4 4 + 29792)).map (fun x => x.map (·.1)) = some b) (aligned : c.arg 0 % 4096 = 0)
    (total : c.arg 1 = fieldN (manifestOf b) 16 8) (formed : manifestOk (manifestOf b) = true)
    (fresh : ∀ x ∈ s.trust.images, x.id ≠ fieldN (manifestOf b) 8 8) :
    if s.sigGood 255 (sliceB (manifestOf b) 40 16) (manifestOf b) (sliceB b (256 + 96 * fieldN b 4 4) 29792) = true then
      s.acceptImageWrite c = { s.hold c with trust := { s.trust with images := s.trust.images ++ [c.image b] } }
    else s.acceptImageWrite c = s.complete c St.sigBad 0 [] := by
  obtain ⟨h0, read, first⟩ := Option.map_eq_some_iff.1 head
  have count : fieldN (b.take 256) 4 4 = fieldN b 4 4 := congrArg leNat (sliceB_take (by decide))
  obtain ⟨b0, readAll, all⟩ := Option.map_eq_some_iff.1 whole
  have sound : ¬(c.arg 0 % 4096 ≠ 0 ∨ c.arg 1 ≠ fieldN (manifestOf b) 16 8 ∨ fieldN b 4 4 > 65536 ∨ (!manifestOk (manifestOf b)) = true
      ∨ (s.trust.images.any fun x => decide (x.id = fieldN (manifestOf b) 8 8)) = true) := by
    simp only [aligned, total, formed, not_lt.2 few, ne_eq, not_true_eq_false, false_or, Bool.not_true, Bool.false_eq_true, List.any_eq_true,
      decide_eq_true_eq, not_exists, not_and]
    exact fresh
  unfold State.acceptImageWrite
  rw [read]
  dsimp only
  rw [first, count, min_eq_left few, readAll]
  dsimp only
  rw [all]
  split
  · exact (if_neg sound).trans (if_neg (not_refused ‹_›))
  · exact (if_neg sound).trans (if_pos (refused ‹_›))

end

/-! ## The statement -/

/-- A row whose command is held leaves it outstanding. -/
theorem mem_held {u : State} {c : Cmd} : c ∈ (u.hold c).newel.out := List.mem_append_right _ (List.mem_singleton_self c)

/-- Settles O27: each row runs its command's rules on the state past the head, and those end in the command held with what it stages. -/
theorem commandsStageTheirEffect : Obligations.CommandsStageTheirEffect := by
  intro s q fn clk c
  refine ⟨?start, ?fork, ?flip, ?adapter, ?register, ?land, ?guest, ?unit, ?spare, ?load, ?image⟩
  case start =>
    intro q0 taken _ _ q _ _ _ _ _ known passes _ f below stages room
    obtain ⟨part, staged⟩ := cmdSeqAdmit_stages (s := q0) (q := q) (f := f) rfl rfl known passes ⟨below, stages, room⟩
    exact ⟨_, commandRow_next taken staged s.keepCommand, mem_held⟩
  case fork =>
    intro q0 taken _ q _ _ _ _ _ inTable shares notEmpty pastPrefix written passes _ f below stages room
    have judged := congrArg (fun part : Bool => q.shareFetch c.wing c.slot ((c.forkLen - 1) / 16)
      (4 * ((q.livePages c.wing c.slot ((c.forkLen - 1) / 16)).length + b2n part))) (partPage_isSome q c.wing c.slot (c.forkLen - 1))
    have staged := cmdSeqFork_stages (s := q0) (q := q) (f := f) rfl rfl rfl judged
      ⟨inTable, shares, notEmpty, pastPrefix, written⟩ passes ⟨below, stages, room⟩
    exact ⟨_, commandRow_next taken staged s.keepCommand, mem_held⟩
  case flip =>
    intro taken sound passes
    refine ⟨_, commandRow_next taken (cmdEpochFlip_stages sound passes) s.keepCommand, rfl, ?_⟩
    have staged := modVr_vr (s := q) c.wing fun v => { v with pend := some c.flip }
    exact ⟨(congrArg Variants.pend staged :), (congrArg Variants.wep staged :), (congrArg Variants.bank staged :)⟩
  case adapter =>
    intro f q0 taken q inTable format known ranked most sited few scale free inWindow sites
    have fetched : q.standing = s.standing := (apart_standing ((fetchIn_apart ..).trans (adpFetch_apart ..))).trans (taken_standing taken)
    exact ⟨_, commandRow_next taken (cmdAdapterLoad_holds rfl ⟨inTable, format, ranked, most, sited, few, scale⟩ known free inWindow sites)
      s.keepCommand, hold_holding fetched c⟩
  case register =>
    intro q0 taken w h src q plen handle notEmpty fits inTable empty shares written plain whole _ f below room
    obtain ⟨u, staged⟩ := cmdPrefixRegister_stages (s := q0) (q := q) (f := f) rfl rfl
      ⟨handle, notEmpty, fits, inTable, empty, shares, written, plain, whole⟩ below room
    exact ⟨_, commandRow_next taken staged s.keepCommand, mem_held⟩
  case land =>
    intro taken layout idle ahead policy window snap flips
    obtain ⟨u, staged, newel, land, failed⟩ := cmdTurnLand_stages layout idle ahead policy window snap flips
    exact ⟨_, commandRow_next taken staged s.keepCommand, congrArg (fun n : Newel => n.out ++ [c]) newel, land, failed⟩
  case guest =>
    intro f taken aligned lends valid r
    obtain ⟨u, staged, newel, next, guests⟩ := cmdGuestLoad_stages (q := r) rfl aligned lends valid
    exact ⟨_, commandRow_next taken staged s.keepLoad, congrArg (fun n : Newel => n.out ++ [c]) newel, next, guests⟩
  case unit =>
    intro taken k st inRange notSlice notChan state spare free alone sound
    refine ⟨_, commandRow_next taken (acceptUnitSet_stages rfl rfl rfl inRange ⟨notSlice, notChan⟩ state spare free alone sound)
      s.keepService, rfl, ?_⟩
    have staged := modUnit_same (q.hold c) k fun u => u.intend st q.tread
    exact ⟨(congrArg UnitSt.want staged :), (congrArg UnitSt.ackd staged :), (congrArg UnitSt.hw staged :), (congrArg UnitSt.epoch staged :)⟩
  case spare =>
    intro p ps taken core ahead far alone spares
    exact ⟨_, commandRow_next taken (acceptCoreSpare_stages core ahead far alone spares) s.keepService, rfl, rfl⟩
  case load =>
    intro im taken found aligned alone still flips inWindow writable
    have judged := cmdModelLoad_judges found aligned alone still flips inWindow writable
    split at judged
    · rename_i good
      obtain ⟨u, staged, newel, load⟩ := judged
      exact ⟨_, commandRow_next taken staged s.keepTrust, (if_pos good).mpr ⟨congrArg (fun n : Newel => n.out ++ [c]) newel,
        (congrArg ModelLoad.st load :), (congrArg ModelLoad.done load :), (congrArg ModelLoad.image load :), (congrArg ModelLoad.base load :),
        (congrArg ModelLoad.queues load :)⟩⟩
    · rename_i bad
      exact ⟨_, commandRow_next taken judged s.keepTrust, (if_neg bad).mpr ⟨complete_out .., complete_load .., complete_mem ..⟩⟩
  case image =>
    intro b taken n m head few _ whole aligned total formed fresh
    have judged := acceptImageWrite_judges head few whole aligned total formed fresh
    split at judged
    · rename_i good
      exact ⟨_, commandRow_next taken judged s.keepTrust, (if_pos good).mpr ⟨rfl, c.image b, rfl, rfl, rfl, rfl⟩⟩
    · rename_i bad
      exact ⟨_, commandRow_next taken judged s.keepTrust, (if_neg bad).mpr ⟨complete_out .., complete_trust ..⟩⟩

end Sys2Proof.Machine

/-!
The settled statement of the copies of the KV cache and of contexts (spec/09_kv_cache.md R205 to R212): it fails for a state whose clk lies
past the end of the tread.
-/
namespace Sys2Proof.Machine

section
variable {s : State}

/-- The confinement of a mailbox command brings the clk into the tread, so it leaves just the states whose clk lies there. -/
theorem keepCommand_self_iff : s.keepCommand s = s ↔ s.time.phase < treadClk := by
  constructor
  · intro same
    have clk : s.time.phase % treadClk = s.time.phase := congrArg (fun t : State => t.time.phase) same
    exact clk ▸ clk_mod _
  · intro clk
    simp only [State.keepCommand, Nat.mod_eq_of_lt clk]

/-- A newel that restarts moves no byte of a copy (R381). -/
theorem opCopyLands_idle (idle : s.newel.running = false) (w copy clk : Nat) : s.opCopyLands w copy clk = s := by
  unfold State.opCopyLands
  split
  · rfl
  · exact if_pos (by rw [idle]; decide)

/-- While the newel restarts, KV_COPY_LANDS leaves a state just where its clk lies in the tread. -/
theorem kvCopyLands_idle_iff (idle : s.newel.running = false) (w : WingId) (copy : Nat) (clk : Clk) :
    exec (.kvCopyLands w copy clk) s = .next s ↔ s.time.phase < treadClk :=
  calc exec (.kvCopyLands w copy clk) s = .next s
    _ ↔ s.keepCommand (s.opCopyLands w.val copy clk.val) = s := Iff.of_eq (Host.Outcome.next.injEq ..)
    _ ↔ s.keepCommand s = s := by rw [opCopyLands_idle idle]
    _ ↔ s.time.phase < treadClk := keepCommand_self_iff

end

/-- A copy of frame 0 to frame 1 of the pool, in progress. -/
def poolCopy : KvCopy := ⟨4, 0, 0, 0, 0, 1, 0, false, false, false⟩

/-- A module whose newel does not run and whose clk is the first past the end of the tread, with that copy on wing 0. -/
def pastTread : State := { State.reset with
  wings := [(0, { job := { gen := { copies := [poolCopy] } } })]
  time := { State.reset.time with phase := treadClk } }

/-- Refutes O48: the statement speaks of every state, and where the newel does not run and the clk lies past the end of the tread,
KV_COPY_LANDS brings the clk back into it. -/
theorem not_jobCopiesAct : ¬ Obligations.JobCopiesAct := by
  intro copies
  obtain ⟨lands, _⟩ := copies pastTread 0
  have held : (pastTread.job 0).gen.copies.find? (fun c => c.id = 4 && !c.landed) = some poolCopy := by decide
  obtain ⟨waits, _⟩ := lands 4 0 poolCopy held
  have clk : pastTread.time.phase < treadClk := (kvCopyLands_idle_iff (by decide) 0 4 0).1 (waits (by decide))
  exact absurd clk (lt_irrefl treadClk)

end Sys2Proof.Machine

/-!
The settled statement of layout tables given to a wing and of the firmware's activation (spec/13_turn.md R280, R283, R291;
spec/16_newel.md R381, R383).
-/
namespace Sys2Proof.Machine

/-- An alert stands once it is raised, whether it stood before or not (Table 20.6). -/
theorem bit_alert (s : State) (b : Nat) : bit (s.alert b).board.alerts b = true := by
  unfold State.alert
  split
  · assumption
  · rw [bit_eq_testBit, Nat.testBit_or, Nat.testBit_two_pow_self, Bool.or_true]

section
variable (s : State) (w base n expect : Nat)

/-- The entry count in the header of a layout table (Table 13.1). -/
def State.layCount : Nat := bits (s.peekN w (base + 4) 4) 0 17

/-- The header and the entries of a layout table are read. -/
def State.layFetch : State := (s.fetchIn w base 64).fetchIn w (base + 64) (32 * s.layCount w base)

/-- The blocks that a layout table brings to the wing, its EXPECT (R291). -/
def State.layExpect : Nat := s.expectOf w (s.layEnts w base n)

/-- A layout table as it becomes pending, with nothing of it landed (R280). -/
def Turn.layout (t : Turn) : Turn :=
  { t with pend := some (base, n), expect := expect % 2 ^ 32, landed := 0, failed := [], dup := 0, stale := 0, pzn := 0, rawreq := 0, raws := [],
           checks := [] }

end

section
variable {s r : State} {c : Cmd} {n : Nat}

/-- A layout table that passes the checks of R283 becomes pending, and its turn map is cleared. -/
theorem cmdLayoutLoad_accepts (count : s.layCount c.wing (c.arg 0) = n) (fetched : s.layFetch c.wing (c.arg 0) = r)
    (free : (s.job c.wing).turn.pend = none) (header : s.mappedIn c.wing (s.bankNow c.wing) [1] (c.arg 0) 64 = true)
    (next : r.peekN c.wing (c.arg 0) 4 = ((s.job c.wing).turn.lep + 1) % 2 ^ 32)
    (table : r.mappedIn c.wing (r.bankNow c.wing) [1] (c.arg 0) (64 + 32 * n) = true)
    (map : r.layExpect c.wing (c.arg 0) n ≠ 0 → r.mappedIn c.wing (r.bankNow c.wing) [1] (r.turnMap c.wing)
      (mapBytes (r.layExpect c.wing (c.arg 0) n)) = true)
    (formed : r.layFail c.wing (c.arg 0) n = none) :
    let ex := r.layExpect c.wing (c.arg 0) n
    s.cmdLayoutLoad c = ((r.modTurn c.wing fun t => t.layout (c.arg 0) n ex).mapClear c.wing).complete c St.ok 0 [ex % 2 ^ 32] := by
  have noLayout : ¬(s.job c.wing).turn.pend.isSome = true := by rw [free]; exact Bool.false_ne_true
  have mapped : ¬(decide (r.layExpect c.wing (c.arg 0) n ≠ 0) && !r.mappedIn c.wing (r.bankNow c.wing) [1] (r.turnMap c.wing)
      (mapBytes (r.layExpect c.wing (c.arg 0) n))) = true := by
    simpa only [Bool.and_eq_true, decide_eq_true_eq, Bool.not_eq_true', Bool.not_eq_false, not_and] using map
  subst count fetched
  unfold State.cmdLayoutLoad
  refine (if_neg noLayout).trans ((if_neg (not_refused header)).trans ((if_neg (not_not_intro next)).trans
    ((if_neg (not_refused table)).trans ((if_neg mapped).trans ?_))))
  split
  · rename_i i fails
    exact absurd (formed.symm.trans fails) (Option.some_ne_none i).symm
  · rfl

/-- A staged image is activated: the command is held, the newel stops, and the reset alert stands (R383). -/
theorem acceptFwActivate_accepts (staged : (Tab.find s.trust.fw (2 * (1 - s.boot.slot))).isSome = true) :
    let t := s.acceptFwActivate c
    t.newel.out = s.newel.out ++ [c] ∧ t.newel.running = false ∧ t.newel.activating = some c.cid ∧ bit t.board.alerts 3 = true := by
  have image : ¬(Tab.find s.trust.fw (2 * (1 - s.boot.slot))).isNone = true := by
    rwa [Option.isNone_iff_eq_none, ← ne_eq, ← Option.isSome_iff_ne_none]
  have held : ((s.hold c).alert 3).newel.out = s.newel.out ++ [c] := apart_out (alert_apart (s.hold c) 3)
  unfold State.acceptFwActivate
  rw [if_neg image]
  exact ⟨held, rfl, rfl, bit_alert ..⟩

end

/-- Settles O29: both rows run their command's rules on the state past the head, which accept it. -/
theorem layoutLoadAndFirmware : Obligations.LayoutLoadAndFirmware := by
  intro s q fn clk c
  refine ⟨?layout, ?firmware⟩
  case layout =>
    intro taken w n r ex free header next table map formed
    exact commandRow_next taken (cmdLayoutLoad_accepts rfl rfl free header next table map formed) s.keepCommand
  case firmware =>
    intro taken staged
    exact ⟨_, commandRow_next taken rfl s.keepTrust, acceptFwActivate_accepts staged⟩

end Sys2Proof.Machine

/-!
The settled statement of raw requests (spec/13_turn.md R291, R292).
-/
namespace Sys2Proof.Machine

section
variable (s : State) (w : Nat) (x : RawBlk)

/-- A block is requested: its layout entry is read, and the request is counted and marked as out (R291). -/
def State.rawAsked : State :=
  let v := match (s.job w).turn.pend with | some (base, _) => s.fetchIn w (base + 64 + 32 * x.entry) 32 | none => s
  v.modTurn w fun t => { t with
    rawreq := (t.rawreq + 1) % 2 ^ 32, raws := t.raws.map fun y => if y.idx = x.idx then { y with out := true } else y }

variable (r : LayEnt) (a n epoch : Nat)

/-- What becomes of the request: it fails where the reference copy names no module (R26), is served at once where it names this one, and
else goes to the module named. -/
def State.rawRequest : State :=
  if !s.namesMe r.gaddr && s.hallCount ≤ r.gaddr / 2 ^ 47 then (s.refuse w a true).rawResult w x.idx [] true
  else if s.namesMe r.gaddr then
    match s.rawServe r.wing a n epoch with
    | (some d, v) => v.rawResult w x.idx d false
    | (none, v) => v.rawResult w x.idx [] true
  else (s.remote w r.wing 2047 (rawOwn w x.idx) 0 (r.gaddr / 2 ^ 47) a n (bits (s.we w Reg.wngTurnCtrl) 0 3) 8 epoch none).rawSettle

end

section
variable {s : State} {w : Nat} {x : RawBlk} {c r : LayEnt} {a n epoch : Nat}

theorem rawRequest_unnamed (away : s.namesMe r.gaddr = false) (unnamed : s.hallCount ≤ r.gaddr / 2 ^ 47) :
    s.rawRequest w x r a n epoch = (s.refuse w a true).rawResult w x.idx [] true :=
  if_pos (by rw [away, decide_eq_true unnamed]; rfl)

theorem rawRequest_remote (away : s.namesMe r.gaddr = false) (named : r.gaddr / 2 ^ 47 < s.hallCount) :
    s.rawRequest w x r a n epoch
      = (s.remote w r.wing 2047 (rawOwn w x.idx) 0 (r.gaddr / 2 ^ 47) a n (bits (s.we w Reg.wngTurnCtrl) 0 3) 8 epoch none).rawSettle :=
  (if_neg (by rw [decide_eq_false (not_le.2 named), Bool.and_false]; decide)).trans (if_neg (ne_true_of_eq_false away))

/-- A request of this module's own reference copy gives its result at once; what the copy refuses is a failed attempt. -/
theorem rawRequest_own (mine : s.namesMe r.gaddr = true) {d : Option (List PByte)} {v : State}
    (served : s.rawServe r.wing a n epoch = (d, v)) : s.rawRequest w x r a n epoch = v.rawResult w x.idx (d.getD []) d.isNone := by
  unfold State.rawRequest
  rw [if_neg (by rw [mine]; exact Bool.false_ne_true), if_pos mine, served]
  cases d <;> rfl

/-- The first waiting block is requested, of the module that its reference copy names (R291). -/
theorem opRawIssue_requests (waits : (s.job w).turn.raws.find? (fun x => !x.out) = some x) (entry : (s.pendEnts w)[x.entry]? = some c)
    (few : s.rawOut w < 64) (going : (s.wing w).quiet = false) (ref : refOf (s.pendEnts w) c = some r) :
    s.opRawIssue w
      = (s.rawAsked w x).rawRequest w x r (r.loc + refOff r c x.block) (c.blen x.block) (((s.job w).turn.lep + 1) % 2 ^ 32) := by
  have issues : (decide (s.rawOut w < 64) && !(s.wing w).quiet) = true := by rw [decide_eq_true few, going]; rfl
  unfold State.opRawIssue
  dsimp only
  rw [waits]
  dsimp only
  rw [entry, issues]
  dsimp only
  rw [ref]
  rfl

end

/-- Settles O54: the row requests the first waiting block, and the four outcomes are those of the request. -/
theorem rawRequestsIssue : Obligations.RawRequestsIssue := by
  intro s w x c r waits entry few going ref v0 u a n ep
  have requests : s.opRawIssue w.val = u.rawRequest w.val x r a n ep := opRawIssue_requests waits entry few going ref
  exact ⟨fun away unnamed => frameRow_next (requests.trans (rawRequest_unnamed away unnamed)),
    fun v mine refused => frameRow_next (requests.trans (rawRequest_own mine refused)),
    fun away named => frameRow_next (requests.trans (rawRequest_remote away named)),
    fun d v mine served => frameRow_next (requests.trans (rawRequest_own mine served))⟩

end Sys2Proof.Machine

/-!
The settled statement of module numbers and coordinates (spec/14_hall_fabric.md R311).
-/
namespace Sys2Proof.Machine

/-- A number divided by the sizes, least significant dimension first: what is left of it, and the coordinates. -/
def splitBy (dims : List Nat) (n : Nat) : Nat × List Nat := dims.foldr (fun d acc => (acc.1 / d, acc.1 % d :: acc.2)) (n, [])

/-- The number that coordinates make behind a number of whole halls. -/
def joinOn (k : Nat) (dims co : List Nat) : Nat := (dims.zip co).foldl (fun n x => n * x.1 + x.2) k

theorem coordsOf_eq (dims : List Nat) (n : Nat) : coordsOf dims n = (splitBy dims n).2 := rfl

theorem numberOf_eq (dims co : List Nat) : numberOf dims co = joinOn 0 dims co := rfl

/-- The coordinates put behind what is left give the number back. -/
theorem joinOn_splitBy (dims : List Nat) (n : Nat) : joinOn (splitBy dims n).1 dims (splitBy dims n).2 = n := by
  induction dims with
  | nil => rfl
  | cons d ds ih =>
    have step : joinOn (splitBy (d :: ds) n).1 (d :: ds) (splitBy (d :: ds) n).2
        = joinOn ((splitBy ds n).1 / d * d + (splitBy ds n).1 % d) ds (splitBy ds n).2 := rfl
    rw [step, Nat.div_add_mod', ih]

/-- Coordinates within their dimensions are those of the number that they make. -/
theorem splitBy_joinOn {dims co : List Nat} (within : List.Forall₂ (· < ·) co dims) (k : Nat) : splitBy dims (joinOn k dims co) = (k, co) := by
  induction within generalizing k with
  | nil => rfl
  | @cons c d cs ds below _ ih =>
    have step : splitBy (d :: ds) (joinOn k (d :: ds) (c :: cs))
        = ((splitBy ds (joinOn (k * d + c) ds cs)).1 / d, (splitBy ds (joinOn (k * d + c) ds cs)).1 % d
          :: (splitBy ds (joinOn (k * d + c) ds cs)).2) := rfl
    rw [step, ih, Nat.mul_comm k d, Nat.mul_add_div (Nat.zero_lt_of_lt below), Nat.div_eq_of_lt below, Nat.mul_add_mod, Nat.mod_eq_of_lt below,
      Nat.add_zero]

/-- Settles O60: a number below the module count leaves no whole hall, so the coordinates alone make it. -/
theorem hallNumbersInvert : Obligations.HallNumbersInvert := by
  refine ⟨fun a b c d n _ _ _ _ inHall => ?_, fun sa sb sc sd a b c d ha hb hc hd => ⟨?number, ?coords⟩⟩
  · have whole : (splitBy [a, b, c, d] n).1 = 0 := by
      show n / d / c / b / a = 0
      rw [Nat.div_div_eq_div_mul, Nat.div_div_eq_div_mul, Nat.div_div_eq_div_mul]
      exact Nat.div_eq_of_lt (by linarith)
    rw [numberOf_eq, coordsOf_eq, ← whole, joinOn_splitBy]
  case number => simp [numberOf]
  case coords =>
    have within : List.Forall₂ (· < ·) [a, b, c, d] [sa, sb, sc, sd] := .cons ha (.cons hb (.cons hc (.cons hd .nil)))
    have number : ((a * sb + b) * sc + c) * sd + d = joinOn 0 [sa, sb, sc, sd] [a, b, c, d] := by simp [joinOn]
    rw [number, coordsOf_eq, splitBy_joinOn within]

end Sys2Proof.Machine

/-!
The settled statement of remote requests that time out (spec/14_hall_fabric.md R326).
-/
namespace Sys2Proof.Machine

section
variable {s : State} {tag clk : Nat} (raw : State → RemReq → State)

/-- No open request bears the tag. -/
theorem opReqTimeout_unasked (unasked : s.fab.reqs.find? (fun x => x.tag = tag && !x.done) = none) : s.opReqTimeout tag clk raw = s := by
  simp only [State.opReqTimeout, at_fab, unasked]

/-- The open request with the tag ends where its window is over, and else waits. -/
theorem opReqTimeout_asked {r : RemReq} (asked : s.fab.reqs.find? (fun x => x.tag = tag && !x.done) = some r) :
    s.opReqTimeout tag clk raw = if s.reqLate r then (s.at_ clk).reqTimeout r raw else s := by
  simp only [State.opReqTimeout, at_fab, asked]
  rfl

end

/-- Settles O51: the row judges the open request of its tag by the window of R326. -/
theorem requestTimesOut : Obligations.RequestTimesOut := by
  intro s tag clk q
  have idle {u : State} (h : u = s) (inTread : s.time.phase < treadClk) :
      (.next (s.keepFrame u) : Host.Outcome State Fault Refusal) = .next s := (frameRow_next h).trans (by rw [keepFrame_self inTread])
  refine ⟨fun r asked passed => frameRow_next ?late, fun r asked waits => idle ?early, fun unasked => idle (opReqTimeout_unasked _ unasked),
    fun x r asked => ?poison⟩
  case late => exact (opReqTimeout_asked _ asked).trans (if_pos passed)
  case early => exact (opReqTimeout_asked _ asked).trans (if_neg (ne_true_of_eq_false waits))
  case poison => simp only [State.answerPoison, asked]

end Sys2Proof.Machine

/-!
SUPPORT. What the operations of a hall port leave of the ports: each writes its own port's entry, and the rest of the entry and the other ports stay
(spec/14_hall_fabric.md R301 to R303, R308 to R310).
-/
namespace Sys2Proof.Machine

/-- One port's entry is `x` after a change, and the other ports are as before. -/
def State.portSet (s : State) (p : Nat) (x : PortSt) (t : State) : Prop := t.port p = x ∧ ∀ q ≠ p, t.port q = s.port q

section
variable {s t u : State} {p q : Nat} {x : PortSt}

theorem State.portSet.same (h : s.portSet p x t) : t.port p = x := h.1

theorem State.portSet.of_ports (h : s.portSet p x t) (e : u.ports = t.ports) : s.portSet p x u := by
  unfold State.portSet State.port
  rw [e]
  exact h

theorem State.portSet.modPort (h : s.portSet p x t) (f : PortSt → PortSt) : s.portSet p (f x) (t.modPort p f) :=
  ⟨(modPort_same t p f).trans (congrArg f h.1), fun q other => (modPort_ne t p q f other).trans (h.2 q other)⟩

theorem modPort_portSet (s : State) (p : Nat) (f : PortSt → PortSt) : s.portSet p (f (s.port p)) (s.modPort p f) :=
  State.portSet.modPort ⟨rfl, fun _ _ => rfl⟩ f

/-- What a change of a port's entry leaves of an entry, it leaves of each port. -/
theorem modPort_proj {α : Type} (g : PortSt → α) (s : State) (p q : Nat) {f : PortSt → PortSt} (hf : ∀ x, g (f x) = g x := by exact fun _ => rfl) :
    g ((s.modPort p f).port q) = g (s.port q) := by
  by_cases h : q = p
  · rw [h, modPort_same, hf]
  · rw [modPort_ne _ _ _ _ h]

end

/-! ## A port's state (Table 14.3) -/

/-- A port's entry in another state: entries into TRAIN and RETRAIN are counted, and lock holds in UP only. -/
def PortSt.enter (x : PortSt) (st : Nat) : PortSt :=
  { x with
    st := st, trains := if (st = 1 ∨ st = 3) ∧ x.st ≠ st then sat 16 (x.trains + 1) else x.trains
    locked := if st = 2 then x.locked else false, goodRun := if st = 2 then x.goodRun else 0, badRun := if st = 2 then x.badRun else 0 }

section
variable {s : State} {p : Nat}

/-- Failing mirror rounds leaves the ports. -/
theorem mirFails_ports (l : List Nat) (s : State) : (l.foldl (fun s w => s.mirFail w) s).ports = s.ports := by
  induction l generalizing s with
  | nil => rfl
  | cons w l ih => exact (ih _).trans rfl

theorem portTo_portSet (s : State) (p st : Nat) : s.portSet p ((s.port p).enter st) (s.portTo p st) := by
  refine (modPort_portSet s p fun x => x.enter st).of_ports ?_
  show (if _ then _ else _ : State).ports = _
  split
  · exact mirFails_ports ..
  · rfl

/-- An UP port that enters RETRAIN keeps its link state, with its cells due again (R309). -/
theorem toRetrain_portSet (up : (s.port p).st = 2) : s.portSet p
    { (s.port p).enter 3 with kept := true, replay := (s.port p).replay.map fun c => (c.1, min c.2 7) } (s.toRetrain p) := by
  unfold State.toRetrain
  rw [if_pos up]
  exact ((portTo_portSet s p 3).modPort fun x => { x with kept := true, replay := x.replay.map fun c => (c.1, min c.2 7) }).of_ports rfl

/-- A HAL_PERRn field counts, and stops at 0xFFFF. -/
theorem cnt_perr (s : State) (p f n : Nat) : Tab.cnt ((s.perr p f n).port p).perr f = min (Tab.cnt (s.port p).perr f + n) 0xFFFF := by
  rw [State.perr, modPort_same, cnt_set_same]
  rfl

theorem perr_expect (s : State) (p f n q : Nat) : ((s.perr p f n).port q).expect = (s.port q).expect := modPort_proj PortSt.expect s p q

/-! ## Training (R301, R308, R309) -/

theorem opSignal_portSet (down : (s.port p).st = 0) (on : s.portOn p = true) (free : s.board.pinsTaken = false) :
    s.portSet p { (s.port p).enter 1 with kept := false, heard := false, keepHeard := false } (s.opSignal p) := by
  unfold State.opSignal
  rw [down, on, free]
  exact (portTo_portSet s p 1).modPort fun x => { x with kept := false, heard := false, keepHeard := false }

/-- A port that is disabled or broken, or whose pins a test instruction has, hears no signal. -/
theorem opSignal_idle (h : s.board.pinsTaken = true ∨ s.portOn p = false) : s.opSignal p = s := by
  refine if_neg ?_
  rcases h with taken | off
  · rw [taken, Bool.not_true, Bool.and_false]; exact Bool.false_ne_true
  · rw [off, Bool.and_false, Bool.false_and]; exact Bool.false_ne_true

/-- An entry of a table whose every value is changed alike. -/
theorem find_map_snd {α : Type} (t : Tab α) (g : α → α) (k : Nat) :
    Tab.find (t.map fun y => (y.1, g y.2)) k = (Tab.find t k).map g := by
  induction t with
  | nil => rfl
  | cons y t ih =>
    simp only [List.map_cons, Tab.find]
    split
    · rfl
    · exact ih

/-- A port's entry without the waiting frames that came by a port. -/
def PortSt.without (x : PortSt) (p : Nat) : PortSt := { x with txq := x.txq.filter fun z => !z.cameBy p }.keepAcc

/-- Discarding link state leaves a port's lock. -/
theorem portForget_locked (s : State) (p q : Nat) : ((s.portForget p).port q).locked = (s.port q).locked := by
  have dropped : ((Tab.find (s.ports.map fun (y : Nat × PortSt) => (y.1, y.2.without p)) q).getD {}).locked = (s.port q).locked := by
    rw [find_map_snd s.ports (·.without p), State.port]
    cases Tab.find s.ports q <;> rfl
  unfold State.portForget
  dsimp only
  split
  · exact (modPort_proj PortSt.locked _ p q).trans dropped
  · exact (modPort_proj PortSt.locked _ p q).trans ((modPort_proj PortSt.locked _ p q).trans dropped)

theorem portUpIf_locked (s : State) (p q : Nat) : ((s.portUpIf p).port q).locked = (s.port q).locked := by
  unfold State.portUpIf
  dsimp only
  split
  · cases (s.port p).kept && (s.port p).keepHeard with
    | true =>
      simp only [if_true]
      exact (modPort_proj PortSt.locked _ p q).trans (modPort_proj PortSt.locked s p q)
    | false =>
      simp only [Bool.false_eq_true, if_false]
      exact (modPort_proj PortSt.locked _ p q).trans (portForget_locked s p q)
  · rfl

/-- Lock in TRAIN is kept, whether the port then goes UP or waits for its neighbour. -/
theorem opLock_locks (train : (s.port p).st = 1) (free : s.board.pinsTaken = false) : ((s.opLock p).port p).locked = true := by
  unfold State.opLock
  rw [free]
  dsimp only
  rw [if_neg Bool.false_ne_true, if_pos train, portUpIf_locked, modPort_same]

/-- Lock ends RETRAIN in UP, with the replay buffer sent again (R309). -/
theorem opLock_portSet (retrain : (s.port p).st = 3) (free : s.board.pinsTaken = false) : s.portSet p
    { s.port p with
      st := 2, locked := true, goodRun := 64, badRun := 0, kept := false, replay := (s.port p).replay.map fun c => (c.1, c.2 + 1)
      cellsOut := (s.port p).again 0, perr := Tab.set (s.port p).perr 0 (sat 16 (Tab.cnt (s.port p).perr 0 + (s.port p).replay.length)) }
    (s.opLock p) := by
  unfold State.opLock
  rw [free]
  dsimp only
  rw [if_neg Bool.false_ne_true, if_neg (by rw [retrain]; decide), if_pos retrain]
  exact modPort_portSet s p _

/-- Lock says nothing to a port that is neither in TRAIN nor in RETRAIN. -/
theorem opLock_idle (h : (s.port p).st ≠ 1 ∧ (s.port p).st ≠ 3) : s.opLock p = s := by
  unfold State.opLock
  dsimp only
  rw [if_neg h.1, if_neg h.2]
  exact ite_self s

theorem opLockLoss_up (up : (s.port p).st = 2) : s.opLockLoss p = s.toRetrain p := if_pos up

theorem opLockLoss_train (train : (s.port p).st = 1) : s.opLockLoss p = s.modPort p fun y => { y with locked := false, goodRun := 0 } :=
  (if_neg (by rw [train]; decide)).trans (if_pos train)

theorem opLockLoss_idle (h : (s.port p).st ≠ 1 ∧ (s.port p).st ≠ 2) : s.opLockLoss p = s := (if_neg h.2).trans (if_neg h.1)

theorem opTrainTimeout_downs (train : (s.port p).st = 1) : s.opTrainTimeout p = s.portDown p := if_pos train

theorem opRetrainTimeout_portSet (retrain : (s.port p).st = 3) :
    s.portSet p { (s.port p).enter 1 with kept := true, heard := false } (s.opRetrainTimeout p) := by
  unfold State.opRetrainTimeout
  rw [if_pos retrain]
  exact (portTo_portSet s p 1).modPort fun x => { x with kept := true, heard := false }

end

/-! ## Neighbours (R310) -/

section
variable (s : State) (p : Nat)

theorem perr_st (f n q : Nat) : ((s.perr p f n).port q).st = (s.port q).st := modPort_proj PortSt.st s p q

theorem enqueue_st (dst wing pool q num cls : Nat) (fs : List Frame) (k : Nat) :
    ((s.enqueue dst wing pool q num cls fs).1.port k).st = (s.port k).st := by
  unfold State.enqueue
  split
  · rfl
  · split
    · rfl
    · split
      · exact perr_st ..
      · exact modPort_proj PortSt.st _ _ k

theorem release_st (y : QFrame) (q : Nat) : ((s.release y).port q).st = (s.port q).st := by
  unfold State.release
  rcases y.inn with _ | ⟨p, vci, pool⟩
  · rfl
  · exact modPort_proj PortSt.st s p q

theorem answerPoison_ports (tag : Nat) : (s.answerPoison tag).ports = s.ports := by
  unfold State.answerPoison
  split <;> rfl

theorem unreachable_st (f : Frame) (q : Nat) : ((s.unreachable p f).port q).st = (s.port q).st := by
  unfold State.unreachable
  dsimp only
  have poisoned : (((s.perr p Perr.unreach 1).answerPoison f.tag).port q).st = (s.port q).st := by
    rw [State.port, answerPoison_ports]
    exact perr_st ..
  split
  · exact perr_st ..
  · split
    · exact poisoned
    · exact (enqueue_st ..).trans (perr_st ..)

/-- The frames that can no longer be sent leave without a change of any port's state. -/
theorem portFlush_st (q : Nat) : ((s.portFlush p).port q).st = (s.port q).st := by
  have flushed (l : List QFrame) (t : State) : ((l.foldl (fun s x => (s.release x).unreachable p x.f) t).port q).st = (t.port q).st := by
    induction l generalizing t with
    | nil => rfl
    | cons y l ih => exact (ih _).trans ((unreachable_st ..).trans (release_st ..))
  exact (flushed ..).trans (modPort_proj PortSt.st s p q)

end

section
variable {s : State} {p num nport : Nat} {keep : Bool}

/-- A port's entry with what a NEIGH item says. -/
def PortSt.hear (x : PortSt) (num nport : Nat) (keep : Bool) : PortSt := { x with neigh := num, nport := nport, keepHeard := keep, heard := true }

section
variable (up : (s.port p).st = 2) (free : s.board.pinsTaken = false)
include up free

/-- An UP port keeps what it hears and judges it. -/
theorem opNeigh_judges : s.opNeigh p num nport keep =
    let t := s.modPort p fun x => x.hear num nport keep
    if !s.neighOk p num nport then (t.portTo p 4).portFlush p else t.portUpIf p :=
  (if_neg (by rw [up, free]; decide)).trans (if_neg (by rw [up]; decide))

theorem opNeigh_accepts (consistent : s.neighOk p num nport = true) :
    s.opNeigh p num nport keep = s.modPort p fun x => x.hear num nport keep := by
  have still : ((s.modPort p fun x => x.hear num nport keep).port p).st = 2 := by rw [modPort_same]; exact up
  have stays : (s.modPort p fun x => x.hear num nport keep).portUpIf p = s.modPort p fun x => x.hear num nport keep := by
    unfold State.portUpIf
    dsimp only
    rw [still]
    rfl
  exact (opNeigh_judges up free).trans ((if_neg (not_refused consistent)).trans stays)

theorem opNeigh_miswires (wrong : s.neighOk p num nport = false) : ((s.opNeigh p num nport keep).port p).st = 4 := by
  rw [opNeigh_judges up free]
  dsimp only
  rw [if_pos (by rw [wrong]; rfl), portFlush_st, (portTo_portSet _ p 4).same]
  rfl

end

end

/-! ## Cells and their items (R301 to R303, R306, R320) -/

section
variable {s : State} {p : Nat}

theorem resend_portSet (s : State) (p i : Nat) : s.portSet p
    { s.port p with
      replay := (s.port p).replay.take i ++ ((s.port p).replay.drop i).map fun c => (c.1, c.2 + 1), cellsOut := (s.port p).again i
      perr := Tab.set (s.port p).perr Perr.replays (sat 16 (Tab.cnt (s.port p).perr Perr.replays + ((s.port p).replay.length - i))) }
    (s.resend p i) :=
  (modPort_portSet s p _).modPort _

/-- An ACK frees the cells up to the one that it names. -/
theorem opAck_portSet {c i : Nat} (held : replayPos (s.port p).replay c = some i) : s.portSet p
    { s.port p with
      replay := (s.port p).replay.drop (i + 1)
      bodies := ((s.port p).replay.take (i + 1)).foldl (fun (t : Tab (List Byte × Nat)) (c : Nat × Nat) => Tab.erase t c.1) (s.port p).bodies }
    (s.opAck p c) := by
  unfold State.opAck
  rw [held]
  exact modPort_portSet s p _

theorem opNak_resends {c i : Nat} (up : (s.port p).st = 2) (held : replayPos (s.port p).replay c = some i) : s.opNak p c = s.resend p i := by
  unfold State.opNak
  rw [if_neg (not_not_intro up), held]

theorem opReplayTimeout_resends (up : (s.port p).st = 2) (waits : (s.port p).replay ≠ []) : s.opReplayTimeout p = s.resend p 0 := by
  refine if_pos ?_
  rw [up, List.isEmpty_eq_false_iff.2 waits]
  rfl

theorem opRetryLimit_retrains (spent : ∃ c ∈ (s.port p).replay, 8 ≤ c.2) : s.opRetryLimit p = s.toRetrain p :=
  if_pos (List.any_eq_true.2 (by simpa using spent))

/-- A pool gets back what was freed since the last count (R320). -/
theorem opCredit_portSet (up : (s.port p).st = 2) (vci pool freed : Nat) : s.portSet p
    { s.port p with
      heardFreed := Tab.set (s.port p).heardFreed (vci * 64 + pool) freed
      used := Tab.set (s.port p).used (vci * 64 + pool) (Tab.cnt (s.port p).used (vci * 64 + pool)
        - (freed + 65536 - Tab.cnt (s.port p).heardFreed (vci * 64 + pool)) % 65536) }
    (s.opCredit p vci pool freed) := by
  unfold State.opCredit
  rw [if_neg (not_not_intro up)]
  exact modPort_portSet s p _

theorem opCtrlCell_portSet (up : (s.port p).st = 2) (waits : (s.port p).items ≠ []) : s.portSet p
    { s.port p with ctrlOut := (s.port p).items.take 40, items := (s.port p).items.drop 40 } (s.opCtrlCell p) := by
  have sends : ¬(decide ((s.port p).st ≠ 2) || (s.port p).items.isEmpty) = true := by
    rw [up]
    simpa using waits
  unfold State.opCtrlCell
  dsimp only
  rw [if_neg sends]
  exact modPort_portSet s p _

/-- A port's entry with one more codeword in its runs (R301). -/
def PortSt.countWord (x : PortSt) (unc : Bool) : PortSt :=
  { x with goodRun := if unc then 0 else min 64 (x.goodRun + 1), badRun := if unc then min 8 (x.badRun + 1) else 0 }

theorem codeword_eq (s : State) (p : Nat) (unc : Bool) : s.codeword p unc =
    let t := s.modPort p fun x => x.countWord unc
    if (t.port p).badRun ≥ 8 then t.opLockLoss p else if !(t.port p).locked && (t.port p).goodRun ≥ 64 then t.opLock p else t := rfl

/-- A good codeword at an UP port is counted, and changes nothing else. -/
theorem codeword_good (up : (s.port p).st = 2) : s.codeword p false = s.modPort p fun x => x.countWord false := by
  have still : ((s.modPort p fun x => x.countWord false).port p).st = 2 := by rw [modPort_same]; exact up
  have few : ((s.modPort p fun x => x.countWord false).port p).badRun = 0 := by rw [modPort_same]; rfl
  rw [codeword_eq]
  dsimp only
  rw [few, if_neg (by decide), opLock_idle (by rw [still]; decide), ite_self]

/-- What a lost lock leaves of a port's cells: the expected sequence number and the counts. -/
def PortSt.tally (x : PortSt) : Nat × Tab Nat := (x.expect, x.perr)

theorem opLockLoss_tally (s : State) (p : Nat) : ((s.opLockLoss p).port p).tally = (s.port p).tally := by
  by_cases up : (s.port p).st = 2
  · rw [opLockLoss_up up, (toRetrain_portSet up).same]; rfl
  · by_cases train : (s.port p).st = 1
    · rw [opLockLoss_train train, modPort_same]; rfl
    · rw [opLockLoss_idle ⟨train, up⟩]

/-- An uncorrectable codeword is counted, and may cost the port its lock. -/
theorem codeword_bad_tally (s : State) (p : Nat) : ((s.codeword p true).port p).tally = (s.port p).tally := by
  have counted : ((s.modPort p fun x => x.countWord true).port p).tally = (s.port p).tally := modPort_proj PortSt.tally s p p
  have none : ((s.modPort p fun x => x.countWord true).port p).goodRun = 0 := by rw [modPort_same]; rfl
  rw [codeword_eq]
  dsimp only
  split
  · exact (opLockLoss_tally ..).trans counted
  · rw [none, decide_eq_false (by decide), Bool.and_false]
    exact counted

/-- An uncorrectable cell is counted, in whatever state the port takes cells. -/
theorem opCell_bad (on : (s.port p).st ≠ 0) (free : s.board.pinsTaken = false) (h : Nat) (body : List Byte) (clk eighth : Nat) :
    s.opCell p true h body clk eighth = ((s.at_ clk).codeword p true).perr p Perr.fecunc 1 := by
  refine (if_neg ?_).trans ?_
  · rw [free, Bool.or_false]
    simpa using on
  · dsimp only
    split <;> rfl

/-- A good cell at an UP port: one with a reserved type or field is counted, any other taken. -/
theorem opCell_good (up : (s.port p).st = 2) (free : s.board.pinsTaken = false) (h : Nat) (body : List Byte) (clk eighth : Nat) :
    s.opCell p false h body clk eighth =
      let t := (s.at_ clk).modPort p fun x => x.countWord false
      if bits h 18 2 = 3 ∨ bits h 0 6 ≠ 0 then t.perr p Perr.badcell 1 else t.takeCell p (bits h 18 2) (bits h 6 12) body clk eighth := by
  rw [← codeword_good (s := s.at_ clk) up]
  refine (if_neg (by rw [up, free]; decide)).trans ((if_neg (by rw [up]; decide)).trans ((if_neg Bool.false_ne_true).trans ?_))
  exact if_neg (by rw [up]; simp)

/-- The expected DATA cell moves the number on and needs no NAK. -/
theorem takeCell_expected (up : (s.port p).st = 2) {seq : Nat} (expected : seq = (s.port p).expect) (body : List Byte) (clk eighth : Nat) :
    ((s.takeCell p 1 seq body clk eighth).port p).expect = ((s.port p).expect + 1) % 4096
      ∧ ((s.takeCell p 1 seq body clk eighth).port p).nak = none := by
  unfold State.takeCell
  dsimp only
  rw [if_neg (by decide), if_neg (by rw [up]; decide), if_pos expected, modPort_same, expected]
  exact ⟨rfl, rfl⟩

/-- Another DATA cell is answered by a NAK, unless one for the expected number is out; the number stays (R302). -/
theorem takeCell_other (up : (s.port p).st = 2) {seq : Nat} (other : seq ≠ (s.port p).expect) (body : List Byte) (clk eighth : Nat) :
    ((s.takeCell p 1 seq body clk eighth).port p).expect = (s.port p).expect
      ∧ ((s.takeCell p 1 seq body clk eighth).port p).nak.isSome = true := by
  unfold State.takeCell
  dsimp only
  rw [if_neg (by decide), if_neg (by rw [up]; decide), if_neg other]
  cases out : (s.port p).nak with
  | none =>
    rw [if_pos rfl, modPort_same]
    exact ⟨rfl, rfl⟩
  | some last =>
    refine iteInduction (motive := fun t : State => (t.port p).expect = (s.port p).expect ∧ (t.port p).nak.isSome = true) (fun _ => ?_) fun _ => ?_
    · rw [modPort_same]
      exact ⟨rfl, rfl⟩
    · rw [out]
      exact ⟨rfl, rfl⟩

end

end Sys2Proof.Machine

/-!
The settled statement of the states, cells and items of a hall port (spec/14_hall_fabric.md R301 to R313, R320).
-/
namespace Sys2Proof.Machine

section
variable {s t u : State}

/-- A row of a port leaves what its operation leaves. -/
theorem portRow_next (h : t = u) : (.next (s.keepPort t) : Host.Outcome State Fault Refusal) = .next (s.keepPort u) := h ▸ rfl

theorem portRow_idle (inTread : s.time.phase < treadClk) (h : t = s) : (.next (s.keepPort t) : Host.Outcome State Fault Refusal) = .next s := by
  rw [h, State.keepPort, Nat.mod_eq_of_lt inTread]

/-- Leaving DOWN for TRAIN is counted. -/
theorem enter_trains {x : PortSt} (down : x.st = 0) : (x.enter 1).trains = min (x.trains + 1) 0xFFFF :=
  if_pos ⟨.inl rfl, by rw [down]; decide⟩

end

/-- Settles O49: each row writes its own port's entry as its operation tells. -/
theorem portsMove : Obligations.PortsMove := by
  intro s p
  refine ⟨fun down on free => ?signal, fun inTread h => portRow_idle inTread (opSignal_idle h),
    fun train free => ⟨_, rfl, opLock_locks train free⟩, fun retrain free => ?lock, fun up => ?lockLost,
    fun train => ?noLock, fun train => portRow_next (opTrainTimeout_downs train), fun retrain => ?retrainOver,
    fun header body clk eighth up free => ⟨fun data plain => ?data, fun reserved => ?reserved⟩, fun header body clk eighth on free => ?bad,
    fun c i held => ?ack, fun c i up held => ?nak, fun up waits => ?replay, fun up spent => ?limit, fun vc pool freed up => ?credit,
    fun num nport keep up free consistent => ?neighbour, fun num nport keep up free wrong => ⟨_, rfl, opNeigh_miswires up free wrong⟩,
    fun up waits => ?ctrl⟩
  case signal =>
    obtain ⟨entry, others⟩ := opSignal_portSet down on free
    exact ⟨_, rfl, congrArg PortSt.st entry, (congrArg PortSt.trains entry).trans (enter_trains down), others⟩
  case lock =>
    obtain ⟨entry, others⟩ := opLock_portSet retrain free
    exact ⟨_, rfl, congrArg PortSt.st entry, others⟩
  case lockLost =>
    have entry := (toRetrain_portSet up).same
    exact ⟨_, portRow_next (opLockLoss_up up), congrArg PortSt.st entry, congrArg PortSt.kept entry⟩
  case noLock =>
    have entry := (modPort_portSet s p fun y => { y with locked := false, goodRun := 0 }).same
    exact ⟨_, portRow_next (opLockLoss_train train), congrArg PortSt.locked entry, (congrArg PortSt.st entry).trans train⟩
  case retrainOver =>
    have entry := (opRetrainTimeout_portSet retrain).same
    exact ⟨_, rfl, congrArg PortSt.st entry, congrArg PortSt.kept entry⟩
  case data =>
    have counted := modPort_same (s.at_ clk) p fun x => x.countWord false
    have still : (((s.at_ clk).modPort p fun x => x.countWord false).port p).expect = (s.port p).expect :=
      modPort_proj PortSt.expect (s.at_ clk) p p
    have upStill : (((s.at_ clk).modPort p fun x => x.countWord false).port p).st = 2 := (congrArg PortSt.st counted).trans up
    have fit : ¬(bits header.toNat 18 2 = 3 ∨ bits header.toNat 0 6 ≠ 0) := by rw [data, plain]; decide
    refine ⟨_, portRow_next ((opCell_good up free ..).trans ((if_neg fit).trans (by rw [data]))), ?_⟩
    rw [← still]
    split
    · next expected => exact takeCell_expected upStill expected body clk eighth
    · next other => exact takeCell_other upStill other body clk eighth
  case reserved =>
    have counted := modPort_same (s.at_ clk) p fun x => x.countWord false
    refine ⟨_, portRow_next ((opCell_good up free ..).trans (if_pos reserved)), ?_, ?_⟩
    · exact (perr_expect ..).trans (congrArg PortSt.expect counted :)
    · exact (cnt_perr _ p _ 1).trans (by rw [counted]; rfl)
  case bad =>
    have tally := codeword_bad_tally (s.at_ clk) p
    refine ⟨_, portRow_next (opCell_bad on free ..), ?_, ?_⟩
    · exact (perr_expect ..).trans (congrArg Prod.fst tally)
    · exact (cnt_perr _ p _ 1).trans (congrArg (fun x : Nat × Tab Nat => min (Tab.cnt x.2 Perr.fecunc + 1) 0xFFFF) tally)
  case ack =>
    obtain ⟨entry, others⟩ := opAck_portSet held
    exact ⟨_, rfl, congrArg PortSt.replay entry, others⟩
  case nak => exact ⟨_, portRow_next (opNak_resends up held), congrArg PortSt.replay (resend_portSet s p i).same⟩
  case replay => exact ⟨_, portRow_next (opReplayTimeout_resends up waits), congrArg PortSt.replay (resend_portSet s p 0).same⟩
  case limit => exact ⟨_, portRow_next (opRetryLimit_retrains spent), congrArg PortSt.st (toRetrain_portSet up).same⟩
  case credit =>
    have entry := (opCredit_portSet up vc pool freed).same
    refine ⟨_, rfl, ?_, ?_⟩
    · exact (congrArg (fun x : PortSt => Tab.cnt x.heardFreed _) entry).trans (cnt_set_same ..)
    · exact (congrArg (fun x : PortSt => Tab.cnt x.used _) entry).trans (cnt_set_same ..)
  case neighbour =>
    have entry := modPort_same s p fun x => x.hear num nport keep
    exact ⟨_, portRow_next (opNeigh_accepts up free consistent), congrArg PortSt.neigh entry, congrArg PortSt.nport entry,
      (congrArg PortSt.st entry).trans up⟩
  case ctrl =>
    have entry := (opCtrlCell_portSet up waits).same
    exact ⟨_, rfl, congrArg PortSt.ctrlOut entry, congrArg PortSt.items entry⟩

end Sys2Proof.Machine

/-!
The settled statement of registers whose write acts at once (spec/14_hall_fabric.md R308; spec/15_wings.md R339; spec/11_training.md R246;
spec/18_accounting.md R416; spec/20_host_links.md R445).
-/
namespace Sys2Proof.Machine

/-! ## Rows of one register -/

/-- The confinement of a register's row leaves a state whose clk lies in the tread. -/
theorem keepRegRow_self {s : State} (h : s.time.phase < treadClk) : s.keepRegRow s = s := by
  simp only [State.keepRegRow, Nat.mod_eq_of_lt h]

theorem keepRegWrite_self (s : State) : s.keepRegWrite s = s := rfl

section
variable {s t u : State} {fn w : Nat}

/-- A row of one register leaves what its write leaves. -/
theorem regRow_next (h : t = u) : (.next (s.keepRegRow t) : Host.Outcome State Fault Refusal) = .next (s.keepRegRow u) := h ▸ rfl

theorem regWrite_next (h : t = u) : (.next (s.keepRegWrite t) : Host.Outcome State Fault Refusal) = .next (s.keepRegWrite u) := h ▸ rfl

theorem regRow_acts (answers : s.fnAnswers fn = true) (f : State → State) : s.regRow fn f = f s := if_pos answers

theorem regRow_silent (silent : s.fnAnswers fn = false) (f : State → State) : s.regRow fn f = s := if_neg (ne_true_of_eq_false silent)

/-- The PF and the wing's own VF reach a wing's register (R334). -/
theorem wingRow_acts (answers : s.fnAnswers fn = true) (mine : fn = 0 ∨ fn = w + 1) (f : State → State) : s.wingRow fn w f = f s := by
  refine if_pos ?_
  rw [answers, Bool.true_and, Bool.or_eq_true, decide_eq_true_eq, decide_eq_true_eq]
  exact mine

theorem wingRow_idle (h : s.fnAnswers fn = false ∨ fn ≠ 0 ∧ fn ≠ w + 1) (f : State → State) : s.wingRow fn w f = s := by
  unfold State.wingRow
  rcases h with silent | ⟨notPf, notVf⟩
  · rw [silent]; rfl
  · rw [decide_eq_false notPf, decide_eq_false notVf, Bool.or_self, Bool.and_false]; rfl

end

/-! ## Registers that clear, and ACC_CONS -/

section
variable {s : State}

/-- WNG_FLT keeps its count and address; SEEN is cleared where 1 is written. -/
theorem fltClear_job (w : Nat) (seen : Bool) :
    (s.fltClear w seen).job w = { s.job w with fltSeen := (s.job w).fltSeen && !seen } := by
  cases seen with
  | false => rw [Bool.not_false, Bool.and_true]; rfl
  | true => rw [Bool.not_true, Bool.and_false]; exact modJob_same s w fun j => { j with fltSeen := false }

theorem pciErrClear_pci (v : Nat) : (s.pciErrClear v).pci = { s.pci with errSeen := s.pci.errSeen && !bit v 31 } := by
  unfold State.pciErrClear
  cases bit v 31 with
  | false => rw [Bool.not_false, Bool.and_true]; rfl
  | true => rw [Bool.not_true, Bool.and_false]; rfl

theorem accWrite_cons (r : AccRec) : (s.accWrite r).acct.cons = s.acct.cons :=
  congrArg (fun x : State × (Nat → Wing) × (Nat → CxlSt) => x.1.acct.cons) (hostWrite_apart s 0 _ (clean r.bytes))

/-- Held records drain into the ring and leave ACC_CONS. -/
theorem accDrain_cons (n : Nat) (s : State) : (State.accDrain n s).acct.cons = s.acct.cons := by
  induction n generalizing s with
  | zero => rfl
  | succ n ih =>
    unfold State.accDrain
    split
    · rfl
    · split
      · exact (ih _).trans (accWrite_cons _)
      · rfl

end

/-! ## RETRAIN of HAL_PORTn -/

/-- The row of HAL_PORTn. -/
def halPortRow : RegRow := ⟨Reg.halPort, 9, 8, 8, 0x8000000000000000, 0x0, .prot⟩

/-- A write of the whole of HAL_PORTn at its offset is a write of that register. -/
theorem writeReg_halPort {s : State} (answers : s.fnAnswers 0 = true) {p : Nat} (port : p < 9) (v : Nat) :
    s.writeReg 0 (Reg.halPort + 8 * p) true v = s.pfWrite halPortRow p 0 8 v := by
  have hr : halPortRow ∈ pfRegRows := by decide
  have aligned : (Reg.halPort + 8 * p) % 8 = 0 := (prot_pfSpace halPortRow hr rfl p port).2
  have checked : s.opRegWrite 0 (Reg.halPort + 8 * p) true v = s.writeReg 0 (Reg.halPort + 8 * p) true v :=
    (if_neg (by rw [answers]; decide)).trans (if_neg (not_not_intro aligned))
  exact checked.symm.trans (opRegWrite_prot hr rfl port answers v)

/-- RETRAIN written as 1 takes an UP port to RETRAIN (R308). -/
theorem pfWrite_retrains {s : State} {p v : Nat} (up : (s.port p).st = 2) (retrain : bit v 62 = true) :
    ((s.pfWrite halPortRow p 0 8 v).port p).st = 3 := by
  have still : ((s.modPort p fun x => { x with enW := true }).port p).st = 2 := by rw [modPort_same]; exact up
  have acts : s.halPortWrite p 0 8 v = (s.modPort p fun x => { x with enW := true }).toRetrain p := if_pos (by simpa using retrain)
  show ((s.halPortWrite p 0 8 v).port p).st = 3
  rw [acts, (toRetrain_portSet still).same]
  rfl

/-! ## FORCE of WNG_TRN_CTRL -/

/-- The row of WNG_TRN_CTRL. -/
def trnCtrlRow : RegRow := ⟨Reg.wngTrnCtrl, 1, 0, 4, 0xFFFF7F0C, 0x0, .next⟩

/-- The offset of WNG_TRN_CTRL in the space of the PF and of the wing's VF (Table 20.3, R334). -/
def trnCtrlOff (fn w : Nat) : Nat := if fn = 0 then 0x6F8000 + 0x4000 * w + Reg.wngTrnCtrl else Reg.wngTrnCtrl

/-- The wings' registers of the second block lie in the PF's space behind one another. -/
theorem regLoc_wings (s : State) {off w o : Nat} (wing : w < 32) (within : o < 0x4000) (place : off = 0x700000 + 0x4000 * w + o) :
    s.regLoc 0 off = s.wingLoc 0 w (0x8000 + o) := by
  have block : (off - 0x400000) / 0x200000 = 1 := by omega
  have rest : off % 0x200000 = 0x100000 + 0x4000 * w + o := by omega
  have index : (off % 0x200000 - 0x100000) / 0x4000 = w := by
    rw [rest, Nat.add_assoc, Nat.add_sub_cancel_left, Nat.mul_add_div (by decide), Nat.div_eq_of_lt within, Nat.add_zero]
  have inner : off % 0x200000 % 0x4000 = o := by rw [rest]; omega
  unfold State.regLoc
  rw [if_pos rfl, if_neg (by omega), if_neg (by omega), if_pos (by omega)]
  dsimp only
  rw [if_neg (by omega), if_pos (by omega), block, index, inner]

theorem regLoc_trnCtrl (s : State) {fn w : Nat} (mine : fn = 0 ∨ fn = w + 1) (wing : w < 32) :
    s.regLoc fn (trnCtrlOff fn w) = .wing w Reg.wngTrnCtrl := by
  rcases mine with rfl | rfl
  · have place : trnCtrlOff 0 w = 0x700000 + 0x4000 * w + 0x240 := by
      simp only [trnCtrlOff, if_true, Reg.wngTrnCtrl]
      omega
    exact (regLoc_wings s wing (by decide) place).trans (if_pos (by decide))
  · have place : trnCtrlOff (w + 1) w = 0x8240 := if_neg (Nat.succ_ne_zero w)
    rw [place, State.regLoc, if_neg (Nat.succ_ne_zero w), if_neg (by decide), if_pos (by decide), Nat.add_sub_cancel]
    exact if_pos (by decide)

/-- What follows a write of WNG_TRN_CTRL is FORCE. -/
theorem wingWrote_trnCtrl (s : State) (w v : Nat) : s.wingWrote w Reg.wngTrnCtrl v = s.opForce w v := by
  unfold State.wingWrote
  rw [if_neg (by decide), if_neg (by decide), if_neg (by decide), if_neg (by decide), if_neg (by decide), if_pos rfl]

/-- The wing with what a write of WNG_TRN_CTRL sets of its plain bits. -/
def State.setTrnCtrl (s : State) (w v : Nat) : State := s.modJob w fun j => { j with
  wr := Tab.set j.wr Reg.wngTrnCtrl (mergeReg (s.wr w Reg.wngTrnCtrl) trnCtrlRow.mask 0 4 v) }

/-- A write of WNG_TRN_CTRL sets its plain bits, and holds FORCE. -/
theorem writeReg_trnCtrl (s : State) {fn w : Nat} (mine : fn = 0 ∨ fn = w + 1) (wing : w < 32) (v : Nat) :
    s.writeReg fn (trnCtrlOff fn w) false v = { (s.setTrnCtrl w (v % 2 ^ 32)).opForce w (v % 2 ^ 32) with pfw := s.pfw } := by
  have whole : s.writeReg fn (trnCtrlOff fn w) false v = s.write1 fn (trnCtrlOff fn w) 4 (v % 2 ^ 32) := rfl
  have row : RegRow.find wingRegRows Reg.wngTrnCtrl = some (trnCtrlRow, 0) := by decide
  have part : s.writePart fn (.wing w Reg.wngTrnCtrl) 4 (v % 2 ^ 32) = s.wingWrite fn w trnCtrlRow 0 0 4 (v % 2 ^ 32) := by
    simp only [State.writePart, row]
    rfl
  have sets : s.wingWrite fn w trnCtrlRow 0 0 4 (v % 2 ^ 32) = (s.setTrnCtrl w (v % 2 ^ 32)).opForce w (v % 2 ^ 32 * 2 ^ (8 * 0)) :=
    wingWrote_trnCtrl (s.setTrnCtrl w (v % 2 ^ 32)) w _
  rw [whole, State.write1, regLoc_trnCtrl s mine wing]
  dsimp only
  rw [part, sets, Nat.mul_zero, Nat.pow_zero, Nat.mul_one]

/-- FORCE written as 1 is held for the boundary, with the step's flags as they are (R246). -/
theorem writeReg_force (s : State) {fn w : Nat} (mine : fn = 0 ∨ fn = w + 1) (wing : w < 32) {v : Nat} (set : bit (v % 2 ^ 32) 1 = true) :
    ((s.writeReg fn (trnCtrlOff fn w) false v).job w).trn = { (s.job w).trn with force := true } := by
  have held : (s.setTrnCtrl w (v % 2 ^ 32)).opForce w (v % 2 ^ 32) = (s.setTrnCtrl w (v % 2 ^ 32)).modTrn w fun x => { x with force := true } :=
    if_pos set
  rw [writeReg_trnCtrl s mine wing, held]
  show (((s.setTrnCtrl w (v % 2 ^ 32)).modTrn w fun x => { x with force := true }).job w).trn = _
  rw [State.modTrn, modJob_same, State.setTrnCtrl, modJob_same]

/-- The boundary takes FORCE that is held: the step's flag is set (R246). -/
theorem takeForce_held {t : State} {w : Nat} (held : (t.job w).trn.force = true) :
    t.takeForce w = (t.modTrn w fun x => { x with force := false }).trnFlag w (t.we w Reg.wngStep) 5 := if_pos held

/-- Settles O37: each row writes its register, which acts as its table states, and reaches it from the PF or the wing's own VF alone. -/
theorem registersWithAnAction : Obligations.RegistersWithAnAction := by
  intro s
  refine ⟨fun fn w v answers mine => ?flt, fun v answers => ⟨_, regRow_next (regRow_acts answers _), rfl⟩,
    fun v answers => ⟨_, regRow_next (regRow_acts answers _), pciErrClear_pci _⟩, fun p v answers up retrain => ?retrain,
    fun fn w v answers mine set => ?force, fun fn w v u inTread apart => ?others, fun p v u inTread silent => ?silent, fun v answers => ?cons⟩
  case flt =>
    have cleared := fltClear_job (s := s) w.val (bit v.toNat 63)
    exact ⟨_, regRow_next (wingRow_acts answers mine _), (congrArg Job.fltSeen cleared :), (congrArg Job.fltCount cleared :),
      (congrArg Job.fltAddr cleared :)⟩
  case retrain =>
    exact ⟨_, regWrite_next ((regRow_acts answers _).trans (writeReg_halPort answers p.isLt v.toNat)), pfWrite_retrains up retrain, rfl⟩
  case force =>
    have small : v.toNat % 2 ^ 32 = v.toNat := Nat.mod_eq_of_lt v.isLt
    have held := writeReg_force s mine w.isLt (v := v.toNat) (by rw [small]; exact set)
    refine ⟨_, regWrite_next (wingRow_acts answers mine _), congrArg Training.force held, (congrArg Training.flags held :), ?_⟩
    exact congrArg (fun x : State => x.job w.val) (takeForce_held (congrArg Training.force held))
  case others =>
    refine ⟨regWrite_next (wingRow_idle apart _), (regRow_next (wingRow_idle apart _)).trans ?_⟩
    rw [keepRegRow_self inTread]
  case silent =>
    have idle (f : State → State) : (.next (s.keepRegRow (s.regRow 0 f)) : Host.Outcome State Fault Refusal) = .next s := by
      rw [regRow_silent silent, keepRegRow_self inTread]
    exact ⟨idle _, idle _, regWrite_next (regRow_silent silent _), regWrite_next (regRow_silent silent _)⟩
  case cons =>
    refine ⟨_, regWrite_next (regRow_acts answers _), ?_⟩
    exact (accDrain_cons _ _).trans (Nat.mod_eq_of_lt v.isLt)

end Sys2Proof.Machine

/-!
The settled statement of mirror rounds at the sender and at the twin (spec/14_hall_fabric.md R327 to R331).
-/
namespace Sys2Proof.Machine

/-! ## What a round's accesses and records leave of the round -/

section
variable {s t : State} {w : Nat}

theorem apart_mir (h : t.apart = s.apart) : (t.job w).mir = (s.job w).mir := congrArg Job.mir (apart_job h w)

@[simp] theorem modMir_mir (s : State) (w : Nat) (f : Mirror → Mirror) : ((s.modMir w f).job w).mir = f (s.job w).mir :=
  congrArg Job.mir (modJob_same ..)

/-- The job with a refusal counted and latched (R339). -/
def Job.refused (j : Job) (addr : Nat) : Job :=
  { j with fltCount := sat 16 (j.fltCount + 1), fltAddr := if j.fltSeen then j.fltAddr else addr % 2 ^ 47, fltSeen := true }

/-- The state with a refusal latched, and its interrupt sent. -/
def State.latchRefusal (s : State) (w addr : Nat) : State :=
  let s := (s.charge (some w) Acf.refused 1).modJob w fun j => j.refused addr
  if bit (s.we w Reg.wngIrq) 27 then s.fire (w + 1) (bits (s.we w Reg.wngIrq) 28 4) else s

/-- A latched refusal is recorded, or counted where one of the tread is. -/
theorem refuse_records (s : State) (w addr : Nat) (noModule : Bool) :
    s.refuse w addr noModule = (s.latchRefusal w addr).modWing w (fun x => { x with fltLost := x.fltLost + 1 })
      ∨ ∃ body lost, s.refuse w addr noModule
        = ((s.latchRefusal w addr).modWing w fun x => { x with fltSent := true, fltLost := 0 }).postEvt [0, w + 1] body 0 lost := by
  by_cases sent : ((s.latchRefusal w addr).wing w).fltSent = true
  · exact .inl (if_pos sent)
  · exact .inr ⟨_, _, if_neg sent⟩

theorem latchRefusal_mir (s : State) (w addr : Nat) : ((s.latchRefusal w addr).job w).mir = (s.job w).mir := by
  have latched : (((s.charge (some w) Acf.refused 1).modJob w fun j => j.refused addr).job w).mir = (s.job w).mir := by
    rw [modJob_same]
    exact apart_mir (charge_apart ..)
  exact iteInduction (motive := fun t : State => (t.job w).mir = (s.job w).mir) (fun _ => latched) fun _ => latched

/-- A refusal leaves the round. -/
theorem refuse_mir (s : State) (w addr : Nat) (noModule : Bool) : ((s.refuse w addr noModule).job w).mir = (s.job w).mir := by
  have noted (f : Wing → Wing) (hf : ∀ x, (f x).job = x.job) : (((s.latchRefusal w addr).modWing w f).job w).mir = (s.job w).mir := by
    rw [State.job, modWing_same, hf]
    exact latchRefusal_mir ..
  rcases refuse_records s w addr noModule with counted | ⟨body, lost, recorded⟩
  · rw [counted]
    exact noted _ fun _ => rfl
  · rw [recorded]
    exact (apart_mir (postEvt_apart ..)).trans (noted _ fun _ => rfl)

/-- A record that is sent on T, or cannot go, leaves the wings and memory. -/
theorem sendT_keeps (s : State) (w twing dst q addr nblk : Nat) (body : List PByte) :
    (s.sendT w twing dst q addr nblk body).1.wings = s.wings ∧ (s.sendT w twing dst q addr nblk body).1.mem = s.mem := by
  unfold State.sendT
  dsimp only
  split
  · exact ⟨rfl, rfl⟩
  · split <;> exact ⟨rfl, rfl⟩

theorem sendT_job (s : State) (w twing dst q addr nblk : Nat) (body : List PByte) (v : Nat) :
    (s.sendT w twing dst q addr nblk body).1.job v = s.job v := by
  rw [State.job, State.wing, (sendT_keeps ..).1]
  rfl

/-- A wing has no room for a frame where it has no pool on T (R348). -/
theorem frameRoom_eq_zero (p : Nat) : min 4096 (64 * p - 32) - min 4096 (64 * p - 32) % 8 = 0 ↔ p = 0 := by omega

/-- T takes a record while the module is in its hall, T is open and the wing has a pool on it. -/
theorem sendT_taken (s : State) (w twing dst q addr nblk : Nat) (body : List PByte) :
    (s.sendT w twing dst q addr nblk body).2 = (s.inHall && s.portOpen 8 && decide (s.wingPool 8 4 w ≠ 0)) := by
  unfold State.sendT
  dsimp only
  simp only [frameRoom_eq_zero]
  cases s.inHall with
  | false => rfl
  | true =>
    cases s.portOpen 8 with
    | false => rfl
    | true => by_cases pool : s.wingPool 8 4 w = 0 <;> simp [pool]

theorem mirSend_job (s : State) (w twing addr nblk coding entry block check : Nat) (body : List PByte) (v : Nat) :
    (s.mirSend w twing addr nblk coding entry block check body).1.job v = s.job v := sendT_job ..

end

/-! ## One block of a round (R329) -/

/-- A round without its count of SAME blocks not sent yet. -/
def Mirror.stage (m : Mirror) : Mirror := { m with same := 0 }

/-- A block as the row reads it: one outside the wing's windows is poison, and refused. -/
def State.mirRead (s : State) (w a : Nat) : List PByte × State :=
  if s.mappedIn w (s.bankNow w) [1, 2] a 4096 then s.read (s.reqOf w) a 4096 else (List.replicate 4096 (0, true), s.refuse w a false)

/-- A coded block goes out, or joins the SAME blocks before it. -/
def State.mirPut (s : State) (w i b : Nat) (d : MirDesc) (x : Nat × List PByte) (check : Nat) : State :=
  if x.1 = 2 then (if (s.job w).mir.same = 65535 then s.mirFlush w i b else s).modMir w fun y => { y with same := y.same + 1 }
  else ((s.mirFlush w i b).mirSend w d.twing (d.tdst + 4096 * b) d.nblk x.1 i b check x.2).1

/-- The reference takes the block as it was read. -/
def State.mirKeep (s : State) (w a : Nat) (new : List PByte) : State :=
  if s.mappedIn w (s.bankNow w) [1, 2] a 4096 && !s.barred w a 4096 then s.write (s.reqOf w) a new else s.refuse w a false

/-- A block of a round, from the state in which its descriptor is read. -/
def State.mirStep (s : State) (w i b : Nat) (dirty last : Bool) (d : MirDesc) : State :=
  let (new, u) := s.mirRead w (d.src + 4096 * b)
  let (old, u) := u.mirRead w (d.refa + 4096 * b)
  let u := (u.mirPut w i b d (codeDelta (!dirty) new old) (shakeCheck (new.map (·.1)))).mirKeep w (d.refa + 4096 * b) new
  if last then u.mirFlush w i (b + 1) else u

section
variable (s : State) (w : Nat)

theorem mirFlush_stage (i b : Nat) : ((s.mirFlush w i b).job w).mir.stage = (s.job w).mir.stage := by
  unfold State.mirFlush
  dsimp only
  split
  · rfl
  · rw [modMir_mir, mirSend_job]
    rfl

theorem mirRead_stage (a : Nat) : ((s.mirRead w a).2.job w).mir.stage = (s.job w).mir.stage := by
  unfold State.mirRead
  split
  · exact congrArg Mirror.stage (apart_mir (read_apart ..))
  · exact congrArg Mirror.stage (refuse_mir ..)

theorem mirPut_stage (i b : Nat) (d : MirDesc) (x : Nat × List PByte) (check : Nat) :
    ((s.mirPut w i b d x check).job w).mir.stage = (s.job w).mir.stage := by
  unfold State.mirPut
  split
  · rw [modMir_mir]
    split
    · exact mirFlush_stage ..
    · rfl
  · rw [mirSend_job]
    exact mirFlush_stage ..

theorem mirKeep_stage (a : Nat) (new : List PByte) : ((s.mirKeep w a new).job w).mir.stage = (s.job w).mir.stage := by
  unfold State.mirKeep
  split
  · exact congrArg Mirror.stage (apart_mir (write_apart ..))
  · exact congrArg Mirror.stage (refuse_mir ..)

theorem mirStep_stage (i b : Nat) (dirty last : Bool) (d : MirDesc) : ((s.mirStep w i b dirty last d).job w).mir.stage = (s.job w).mir.stage := by
  have kept (check : Nat) (x : Nat × List PByte) (a : Nat) (new : List PByte) (a1 a2 : Nat) :
      ((((((s.mirRead w a1).2.mirRead w a2).2.mirPut w i b d x check).mirKeep w a new)).job w).mir.stage = (s.job w).mir.stage := by
    rw [mirKeep_stage, mirPut_stage, mirRead_stage, mirRead_stage]
  unfold State.mirStep
  dsimp only
  split
  · rw [mirFlush_stage, kept]
  · rw [kept]

end

section
variable {s : State} {w i : Nat}

/-- The row of a running round takes the next block of the first descriptor that holds blocks. -/
theorem opMirBlock_runs (run : (s.job w).mir.run = true) (awake : (s.wing w).quiet = false) (next : s.mirFrom w (s.job w).mir.desc = some i) :
    s.opMirBlock w =
      let b := (s.job w).mir.block
      let u := s.fetchIn w (addrOf (s.wr w Reg.wngMir) 5 + 32 * i) 32
      let d := u.mirDesc w i
      let last : Bool := d.nblk ≤ b + 1
      (u.mirStep w i b (s.job w).mir.dirty last d).modMir w fun y => { y with
        desc := if last then i + 1 else i, block := if last then 0 else b + 1, count := (y.count + 1) % 2 ^ 32 } := by
  have goes : ¬(!(s.job w).mir.run || (s.wing w).quiet) = true := by rw [run, awake]; decide
  unfold State.opMirBlock
  refine (if_neg goes).trans ?_
  simp only [next]
  rfl

/-- The row counts the block, and goes on to the next one of the descriptor or to the next descriptor. -/
theorem opMirBlock_counts (run : (s.job w).mir.run = true) (awake : (s.wing w).quiet = false) (next : s.mirFrom w (s.job w).mir.desc = some i) :
    let m := ((s.opMirBlock w).job w).mir
    let d := (s.fetchIn w (addrOf (s.wr w Reg.wngMir) 5 + 32 * i) 32).mirDesc w i
    m.count = ((s.job w).mir.count + 1) % 2 ^ 32 ∧ m.round = (s.job w).mir.round ∧
      if d.nblk ≤ (s.job w).mir.block + 1 then m.desc = i + 1 ∧ m.block = 0 else m.desc = i ∧ m.block = (s.job w).mir.block + 1 := by
  rw [opMirBlock_runs run awake next]
  dsimp only
  generalize stepped : State.mirStep _ w i _ _ _ _ = v
  have stage : (v.job w).mir.stage = (s.job w).mir.stage := by
    rw [← stepped, mirStep_stage, apart_mir (fetchIn_apart ..)]
  have count : (v.job w).mir.count = (s.job w).mir.count := (congrArg Mirror.count stage :)
  have round : (v.job w).mir.round = (s.job w).mir.round := (congrArg Mirror.round stage :)
  rw [modMir_mir, count, round]
  refine ⟨rfl, rfl, ?_⟩
  split
  · next ends =>
    rw [decide_eq_true ends]
    exact ⟨rfl, rfl⟩
  · next goes =>
    rw [decide_eq_false goes]
    exact ⟨rfl, rfl⟩

/-- A round that ends, DONE or DIRTY. -/
def Mirror.ended (m : Mirror) (sent : Bool) : Mirror := { m with run := false, done := sent, dirty := !sent }

/-- COMMIT goes behind the last block; the round ends, and stands as DONE where T takes the record (R331). -/
theorem opMirCommitSend_ends (run : (s.job w).mir.run = true) (awake : (s.wing w).quiet = false) (last : s.mirFrom w (s.job w).mir.desc = none) :
    ((s.opMirCommitSend w).job w).mir = (s.job w).mir.ended (s.inHall && s.portOpen 8 && decide (s.wingPool 8 4 w ≠ 0))
      ∧ (s.opMirCommitSend w).mem = s.mem := by
  unfold State.opMirCommitSend
  dsimp only
  rw [run, awake, last, if_neg (by decide), State.mirSend, sendT_taken, modMir_mir, sendT_job]
  exact ⟨rfl, (sendT_keeps ..).2⟩

end

/-! ## Records of a round at T (Table 14.9) -/

/-- A record that has come in on T, charged and out of its buffer. -/
def State.tookRec (s : State) (r : RecIn) : State := (s.chargeRecord r).recordGone r

section
variable {s : State} {r : RecIn}

theorem tookRec_job (s : State) (r : RecIn) (w : Nat) : (s.tookRec r).job w = s.job w := apart_job (charge_apart ..) w

theorem tookRec_wr (s : State) (r : RecIn) (w off : Nat) : (s.tookRec r).wr w off = s.wr w off := by
  rw [State.wr, tookRec_job]
  rfl

theorem tookRec_mem (s : State) (r : RecIn) : (s.tookRec r).mem = s.mem := charge_mem ..

/-- A record on T while it is UP is taken. -/
theorem tRow_takes (twin : r.port = 8) (up : (s.port 8).st = 2) (clk : Nat) (f : State → State) : s.tRow r clk f = f ((s.at_ clk).tookRec r) :=
  if_neg (by rw [twin, up]; decide)

/-- A record of the round that is landing, which has not failed, goes to its own rule. -/
theorem mirRow_lands (receives : bit (s.wr r.dwing Reg.wngMirRx) 30 = true) (round : (s.job r.dwing).mir.rr = some (fieldN r.bytes 0 4))
    (sound : (s.job r.dwing).mir.failed = false) (f : State → State) : s.mirRow r f = f s := by
  have now : (fieldN r.bytes 0 4 + 2 ^ 32 - fieldN r.bytes 0 4) % 2 ^ 32 = 0 := by rw [Nat.add_sub_cancel_left, Nat.mod_self]
  unfold State.mirRow
  dsimp only
  rw [if_neg (not_refused receives), round]
  dsimp only
  rw [if_pos now, if_neg (ne_true_of_eq_false sound)]

/-- A failed round stands as it was but for the flag; the reply on T leaves the wings. -/
theorem mirRefuse_mir (s : State) (r : RecIn) : ((s.mirRefuse r).job r.dwing).mir = { (s.job r.dwing).mir with failed := true } := by
  unfold State.mirRefuse
  dsimp only
  rw [sendT_job, modMir_mir]

/-- The twin's record of a committed round: the halves change places, and nothing is landing. -/
def Mirror.committed (m : Mirror) (r : RecIn) : Mirror :=
  { m with
    half := 1 - m.half, cround := fieldN r.bytes 0 4, wepoch := fieldN r.bytes 28 4, lepoch := fieldN r.bytes 24 4
    rr := none, landed := 0, failed := false }

section
variable (twin : r.port = 8) (up : (s.port 8).st = 2)
include twin up

section
variable (receives : bit (s.wr r.dwing Reg.wngMirRx) 30 = true) (round : (s.job r.dwing).mir.rr = some (fieldN r.bytes 0 4))
  (sound : (s.job r.dwing).mir.failed = false)
include receives round sound

/-- A record of the landing round on T is taken and goes to its own rule. -/
theorem tRow_lands (clk : Nat) (f : State → State) :
    (s.tRow r clk fun u => u.mirRow r f) = f ((s.at_ clk).tookRec r) := by
  rw [tRow_takes twin up]
  exact mirRow_lands (by rw [tookRec_wr]; exact receives) (by rw [tookRec_job]; exact round) (by rw [tookRec_job]; exact sound) f

section
variable (commit : bits (fieldN r.bytes 16 4) 22 2 = 3) (plain : bits (fieldN r.bytes 16 4) 0 17 = 0) (clk : Nat)
include commit plain

/-- COMMIT commits the round if it names the blocks that have landed, and else fails it (R330). -/
theorem opMirCommit_judges : s.opMirCommit r clk = if fieldN r.bytes 20 4 = (s.job r.dwing).mir.landed
    then ((s.at_ clk).tookRec r).modMir r.dwing (·.committed r) else ((s.at_ clk).tookRec r).mirRefuse r := by
  have named : ¬(decide (bits (fieldN r.bytes 16 4) 22 2 ≠ 3) || decide (bits (fieldN r.bytes 16 4) 0 17 ≠ 0)) = true := by
    rw [commit, plain]; decide
  refine (if_neg named).trans ((tRow_lands twin up receives round sound clk _).trans ?_)
  dsimp only
  rw [tookRec_job]
  rfl

theorem opMirCommit_commits (landed : fieldN r.bytes 20 4 = (s.job r.dwing).mir.landed) :
    ((s.opMirCommit r clk).job r.dwing).mir = (s.job r.dwing).mir.committed r ∧ (s.opMirCommit r clk).mem = s.mem := by
  rw [opMirCommit_judges twin up receives round sound commit plain clk, if_pos landed, modMir_mir, tookRec_job]
  exact ⟨rfl, tookRec_mem ..⟩

theorem opMirCommit_fails (missing : fieldN r.bytes 20 4 ≠ (s.job r.dwing).mir.landed) :
    ((s.opMirCommit r clk).job r.dwing).mir = { (s.job r.dwing).mir with failed := true } := by
  rw [opMirCommit_judges twin up receives round sound commit plain clk, if_neg missing, mirRefuse_mir, tookRec_job]
  rfl

end

/-- A raw block whose places are the wing's lands in the half that is not committed, if its check value is right, and else fails the round. -/
theorem opMirRecord_raw (raw : bits (fieldN r.bytes 16 4) 22 2 = 1) (whole : r.pzn = false) {clk : Nat} {q : State} (taken : (s.at_ clk).tookRec r = q)
    {old new : Nat} (oldPlace : old = r.addr + (s.job r.dwing).mir.half * r.nblk * 4096)
    (newPlace : new = r.addr + (1 - (s.job r.dwing).mir.half) * r.nblk * 4096)
    (oldMapped : q.mappedIn r.dwing (q.bankNow r.dwing) [1, 2] old 4096 = true)
    (newMapped : q.mappedIn r.dwing (q.bankNow r.dwing) [1, 2] new 4096 = true) (free : q.barred r.dwing new 4096 = false) :
    s.opMirRecord r clk = if shakeCheck (sliceB (r.bytes.drop 32) 0 4096) = fieldN r.bytes 24 8 then
        (q.write (q.reqOf r.dwing) new (clean (sliceB (r.bytes.drop 32) 0 4096))).modMir r.dwing fun m => { m with landed := (m.landed + 1) % 2 ^ 32 }
      else q.mirRefuse r := by
  have half : (q.job r.dwing).mir.half = (s.job r.dwing).mir.half := by rw [← taken, tookRec_job]; rfl
  have other : ¬bits (fieldN r.bytes 16 4) 22 2 = 3 := by rw [raw]; decide
  refine (if_neg other).trans ((tRow_lands twin up receives round sound clk _).trans ?_)
  rw [taken]
  have one : (if 1 = 2 then fieldN r.bytes 24 8 % 65536 else 1) = 1 := if_neg (by decide)
  have fits (a : Nat) (mapped : q.mappedIn r.dwing (q.bankNow r.dwing) [1, 2] a 4096 = true) :
      ¬(!q.mappedIn r.dwing (q.bankNow r.dwing) [1, 2] a 4096 || (decide (a = new) && q.barred r.dwing a 4096)) = true := by
    rw [mapped]
    by_cases same : a = new
    · rw [same, free, Bool.and_false]; decide
    · rw [decide_eq_false same]; exact Bool.false_ne_true
  have clear : [old, new].find? (fun a => !q.mappedIn r.dwing (q.bankNow r.dwing) [1, 2] a 4096
      || (decide (a = new) && q.barred r.dwing a 4096)) = none :=
    List.find?_eq_none.2 (List.forall_mem_cons.2 ⟨fits old oldMapped, List.forall_mem_singleton.2 (fits new newMapped)⟩)
  simp only [half, one, upFrom, List.flatMap_cons, List.flatMap_nil, ← oldPlace, ← newPlace, Nat.mul_zero, Nat.add_zero, List.any_cons,
    List.any_nil, Bool.or_false, List.cons_append, List.nil_append, clear, whole, raw, Bool.false_eq_true, if_false, if_true]

end

/-- A failure reply of the round fails it at the sender (R331). -/
theorem opMirReply_fails (reply : bits (fieldN r.bytes 16 4) 22 2 = 3) (failure : bits (fieldN r.bytes 16 4) 0 17 = 1)
    (mirrors : bit (s.wr r.dwing Reg.wngMir) 63 = true) (round : fieldN r.bytes 0 4 = (s.job r.dwing).mir.round) :
    ((s.opMirReply r).job r.dwing).mir = (s.job r.dwing).mir.ended false ∧ (s.opMirReply r).mem = s.mem := by
  have takes : ¬(decide (r.port ≠ 8) || decide ((s.port 8).st ≠ 2) || decide (bits (fieldN r.bytes 16 4) 22 2 ≠ 3)
      || decide (bits (fieldN r.bytes 16 4) 0 17 ≠ 1)) = true := by
    rw [twin, up, reply, failure]; decide
  have round : fieldN r.bytes 0 4 = ((s.tookRec r).job r.dwing).mir.round := by rw [tookRec_job]; exact round
  have mirrors : bit ((s.tookRec r).wr r.dwing Reg.wngMir) 63 = true := by rw [tookRec_wr]; exact mirrors
  have fails : s.opMirReply r = (s.tookRec r).modMir r.dwing (·.ended false) :=
    (if_neg takes).trans ((if_neg (not_refused mirrors)).trans (if_pos round))
  rw [fails, modMir_mir, tookRec_job]
  exact ⟨rfl, tookRec_mem s r⟩

end
end

/-- Settles O55: a block's row by what its accesses leave of the round, COMMIT's by whether T takes it, and the twin's rows by Table 14.9. -/
theorem mirrorRounds : Obligations.MirrorRounds := by
  intro s clk
  refine ⟨fun w i run awake next => ?block, fun w run awake last => ?commitSend, fun r twin up => ?twin,
    fun r twin up reply failure mirrors round => ?reply⟩
  case block =>
    obtain ⟨count, round, block⟩ := opMirBlock_counts run awake next
    exact ⟨_, rfl, count, round, block⟩
  case commitSend =>
    obtain ⟨mir, mem⟩ := opMirCommitSend_ends run awake last
    exact ⟨_, rfl, congrArg Mirror.run mir, congrArg Mirror.done mir, congrArg Mirror.dirty mir, (congrArg Mirror.round mir :), mem⟩
  case twin =>
    intro q h m round sound receives
    have receives : bit (s.wr r.dwing Reg.wngMirRx) 30 = true := by
      rw [← receives]
      exact congrArg (bit · 30) (tookRec_wr (s.at_ clk) r r.dwing Reg.wngMirRx).symm
    refine ⟨fun commit plain landed => ?commits, fun commit plain missing => ?fails, fun raw whole oldMapped newMapped free =>
      frameRow_next (opMirRecord_raw twin up receives round sound raw whole (clk := clk) (q := q) rfl rfl rfl oldMapped newMapped free)⟩
    case commits =>
      obtain ⟨mir, mem⟩ := opMirCommit_commits twin up receives round sound commit plain clk landed
      exact ⟨_, rfl, congrArg Mirror.half mir, congrArg Mirror.cround mir, congrArg Mirror.wepoch mir, congrArg Mirror.lepoch mir,
        congrArg Mirror.rr mir, congrArg Mirror.landed mir, mem⟩
    case fails =>
      have mir := opMirCommit_fails twin up receives round sound commit plain clk missing
      exact ⟨_, rfl, congrArg Mirror.failed mir, (congrArg Mirror.half mir :), (congrArg Mirror.cround mir :)⟩
  case reply =>
    obtain ⟨mir, mem⟩ := opMirReply_fails twin up reply failure mirrors round
    exact ⟨_, rfl, congrArg Mirror.run mir, congrArg Mirror.done mir, congrArg Mirror.dirty mir, mem⟩

end Sys2Proof.Machine

/-!
The settled statements of a step and of the frames (spec/00_scope.md, INDEX.md): a step runs the front command, every command completes,
and each family leaves what its confinement leaves.
-/
namespace Sys2Proof.Machine

/-! ## A step -/

/-- Settles O1: with a command at the front, the step is that command's meaning on the rest of the queue. -/
theorem stepRunsFront : Obligations.StepRunsFront := by
  intro c rest s waits
  simp only [step, waits]

/-- Settles O2: with no command waiting, the step answers the state. -/
theorem emptyQueueIdles : Obligations.EmptyQueueIdles := by
  intro s empty
  simp only [step, empty]

/-- Settles O3: every meaning is a state passed through a confinement, and each confinement takes the queue from the state before. -/
theorem execKeepsQueue : Obligations.ExecKeepsQueue := by
  intro c s
  cases c with
  | scrubHbm => exact ⟨_, rfl, (keepRepair_keeps ..).1⟩
  | _ => exact ⟨_, rfl, rfl⟩

/-! ## Frames -/

/-- The meaning of a command is an effect passed through the confinement `keep`. -/
def Confined (keep : State → State → State) (i : Instr) : Prop := ∀ s, ∃ r, exec i s = .next (keep s r)

/-- A command leaves what its confinement leaves. -/
theorem Confined.framed {keep : State → State → State} {i : Instr} (h : Confined keep i) {l : List Part} {clock : Bool}
    (keeps : ∀ s r : State, s.keeps (keep s r) l) (clk : clock = true → ∀ s r : State, s.sameClock (keep s r)) : Framed i l clock := by
  intro s
  obtain ⟨r, runs⟩ := h s
  exact ⟨_, runs, keeps s r, fun hc => clk hc s r⟩

/-- Settles O8: each family of service and trust rows has one confinement. -/
theorem frameOfServiceAndTrustCommands : Obligations.FrameOfServiceAndTrustCommands := by
  have ofService {i : Instr} (h : Confined State.keepService i) := h.framed keepService_keeps fun _ : true = true => keepService_clock
  have ofTrust {i : Instr} (h : Confined State.keepTrust i) := h.framed keepTrust_keeps fun _ : true = true => keepTrust_clock
  have ofNewel {i : Instr} (h : Confined State.keepNewel i) := h.framed keepNewel_keeps fun _ : true = true => keepNewel_clock
  have ofLoad {i : Instr} (h : Confined State.keepModelLoad i) := h.framed keepModelLoad_keeps fun _ : true = true => keepModelLoad_clock
  refine ⟨?service, ⟨?trust, ?copies, ?staged, ?fusing, ?report⟩, ⟨?stops, ?restart⟩, ?shard, ?timeout⟩
  case service =>
    intro l fn clk i hi
    fin_cases hi <;> exact ofService fun _ => ⟨_, rfl⟩
  case trust =>
    intro fn clk i hi
    fin_cases hi <;> exact ofTrust fun _ => ⟨_, rfl⟩
  case copies => exact fun _ _ => ofTrust fun _ => ⟨_, rfl⟩
  case staged => exact ofTrust fun _ => ⟨_, rfl⟩
  case fusing => exact fun _ => ofTrust fun _ => ⟨_, rfl⟩
  case report => exact fun _ => ofTrust fun _ => ⟨_, rfl⟩
  case stops =>
    intro i hi
    fin_cases hi <;> exact ofNewel fun _ => ⟨_, rfl⟩
  case restart => exact fun _ => ofNewel fun _ => ⟨_, rfl⟩
  case shard => exact fun _ _ _ => ofLoad fun _ => ⟨_, rfl⟩
  case timeout => exact fun _ _ _ => ofLoad fun _ => ⟨_, rfl⟩

/-- Settles O9: functions that stay in the module, functions that may send, and stream steps have a confinement each. -/
theorem frameOfFunctions : Obligations.FrameOfFunctions := by
  have ofStream {i : Instr} (h : Confined State.keepStream i) := h.framed keepStream_keeps fun _ : true = true => keepStream_clock
  refine ⟨?stays, ?sends, ?steps, ?ends⟩
  case stays =>
    intro l core slot i hi
    fin_cases hi <;> exact Confined.framed (fun _ => ⟨_, rfl⟩) keepFunc_keeps Bool.noConfusion
  case sends =>
    intro l core slot i hi
    fin_cases hi <;> exact Confined.framed (fun _ => ⟨_, rfl⟩) keepFuncSend_keeps Bool.noConfusion
  case steps =>
    intro core slot block clk i hi
    fin_cases hi <;> exact ofStream fun _ => ⟨_, rfl⟩
  case ends => exact fun _ _ _ => ofStream fun _ => ⟨_, rfl⟩

/-- Settles O10: port events, frames and records, and a marker have a confinement each. -/
theorem frameOfFabric : Obligations.FrameOfFabric := by
  have ofPort {i : Instr} (h : Confined State.keepPort i) := h.framed keepPort_keeps fun _ : true = true => keepPort_clock
  have ofFrame {i : Instr} (h : Confined State.keepFrame i) := h.framed keepFrame_keeps fun _ : true = true => keepFrame_clock
  refine ⟨⟨?events, ?cell, ?acks, ?credit, ?neigh⟩, ⟨?sent, ?forwarded, ?requests, ?late, ?records, ?held, ?issues, ?reply⟩, ?marker⟩
  case events =>
    intro port i hi
    fin_cases hi <;> exact ofPort fun _ => ⟨_, rfl⟩
  case cell => exact fun _ _ _ _ _ _ => ofPort fun _ => ⟨_, rfl⟩
  case acks =>
    intro port cseq i hi
    fin_cases hi <;> exact ofPort fun _ => ⟨_, rfl⟩
  case credit => exact fun _ _ _ _ => ofPort fun _ => ⟨_, rfl⟩
  case neigh => exact fun _ _ _ _ => ofPort fun _ => ⟨_, rfl⟩
  case sent => exact fun _ => ofFrame fun _ => ⟨_, rfl⟩
  case forwarded => exact fun _ _ _ _ => ofFrame fun _ => ⟨_, rfl⟩
  case requests =>
    intro port frame clk i hi
    fin_cases hi <;> exact ofFrame fun _ => ⟨_, rfl⟩
  case late => exact fun _ _ => ofFrame fun _ => ⟨_, rfl⟩
  case records =>
    intro rec clk i hi
    fin_cases hi <;> exact ofFrame fun _ => ⟨_, rfl⟩
  case held => exact fun _ _ => ofFrame fun _ => ⟨_, rfl⟩
  case issues =>
    intro w i hi
    fin_cases hi <;> exact ofFrame fun _ => ⟨_, rfl⟩
  case reply => exact fun _ => ofFrame fun _ => ⟨_, rfl⟩
  case marker => exact fun _ _ _ _ => Confined.framed (fun _ => ⟨_, rfl⟩) keepMarker_keeps Bool.noConfusion

/-- Settles O11: mailbox registers, registers with an action, register writes, channel registers and descriptors have a confinement each. -/
theorem frameOfRegisters : Obligations.FrameOfRegisters := by
  have ofMailbox {i : Instr} (h : Confined State.keepMailbox i) := h.framed keepMailbox_keeps fun _ : true = true => keepMailbox_clock
  have ofAction {i : Instr} (h : Confined State.keepRegRow i) := h.framed (clock := false) keepRegRow_keeps Bool.noConfusion
  have ofWrite {i : Instr} (h : Confined State.keepRegWrite i) := h.framed (clock := false) keepRegWrite_keeps Bool.noConfusion
  refine ⟨?mailbox, ⟨?fault, ?clears, ?now, ?badSize⟩, ⟨?retrain, ?force, ?cons, ?write⟩, ?channel, ?descriptor⟩
  case mailbox =>
    intro l fn value i hi
    fin_cases hi <;> exact ofMailbox fun _ => ⟨_, rfl⟩
  case fault => exact fun _ _ _ => ofAction fun _ => ⟨_, rfl⟩
  case clears =>
    intro value i hi
    fin_cases hi <;> exact ofAction fun _ => ⟨_, rfl⟩
  case now => exact fun _ _ _ => ofAction fun _ => ⟨_, rfl⟩
  case badSize => exact fun _ _ _ _ => ofAction fun _ => ⟨_, rfl⟩
  case retrain => exact fun _ _ => ofWrite fun _ => ⟨_, rfl⟩
  case force => exact fun _ _ _ => ofWrite fun _ => ⟨_, rfl⟩
  case cons => exact fun _ => ofWrite fun _ => ⟨_, rfl⟩
  case write => exact fun _ _ _ _ => ofWrite fun _ => ⟨_, rfl⟩
  case channel =>
    intro l fn w idx value i hi
    fin_cases hi <;> exact Confined.framed (fun _ => ⟨_, rfl⟩) keepDmaReg_keeps Bool.noConfusion
  case descriptor =>
    intro l ch clk i hi
    fin_cases hi <;> exact Confined.framed (fun _ => ⟨_, rfl⟩) keepDma_keeps fun _ => keepDma_clock

/-- Settles O12: repair and patrol have one confinement, monitors, flash, log and telemetry another. -/
theorem frameOfUpkeep : Obligations.FrameOfUpkeep := by
  have ofRepair {i : Instr} (h : Confined State.keepRepair i) := h.framed (clock := false) keepRepair_keeps Bool.noConfusion
  have ofMonitor {i : Instr} (h : Confined State.keepMonitor i) := h.framed keepMonitor_keeps fun _ : true = true => keepMonitor_clock
  refine ⟨⟨?replaced, ?migrated, ?row, ?line, ?hbm, ?sram, ?late, ?channel, ?slice, ?spare⟩,
    ?adapt, ?sensors, ?monitors, ?flash, ?queues, ?deferred, ?item⟩
  case replaced => exact fun _ => ofRepair fun _ => ⟨_, rfl⟩
  case migrated => exact fun _ _ => ofRepair fun _ => ⟨_, rfl⟩
  case row => exact fun _ _ _ => ofRepair fun _ => ⟨_, rfl⟩
  case line =>
    intro slice set way i hi
    fin_cases hi <;> exact ofRepair fun _ => ⟨_, rfl⟩
  case hbm => exact fun _ => ofRepair fun _ => ⟨_, rfl⟩
  case sram => exact fun _ _ => ofRepair fun _ => ⟨_, rfl⟩
  case late => exact fun _ => ofRepair fun _ => ⟨_, rfl⟩
  case channel => exact fun _ _ => ofRepair fun _ => ⟨_, rfl⟩
  case slice => exact fun _ _ => ofRepair fun _ => ⟨_, rfl⟩
  case spare => exact fun _ _ => ofRepair fun _ => ⟨_, rfl⟩
  case adapt => exact fun _ _ _ _ => ofMonitor fun _ => ⟨_, rfl⟩
  case sensors => exact fun _ => ofMonitor fun _ => ⟨_, rfl⟩
  case monitors => exact fun _ _ _ => ofMonitor fun _ => ⟨_, rfl⟩
  case flash => exact fun _ => ofMonitor fun _ => ⟨_, rfl⟩
  case queues =>
    intro n i hi
    fin_cases hi <;> exact ofMonitor fun _ => ⟨_, rfl⟩
  case deferred => exact fun _ => ofMonitor fun _ => ⟨_, rfl⟩
  case item => exact fun _ _ _ _ _ _ => ofMonitor fun _ => ⟨_, rfl⟩

/-- Settles O13: CXL events, sideband commands, the exit from Test-Logic-Reset, TAP instructions and the debug port have a confinement each. -/
theorem frameOfLinks : Obligations.FrameOfLinks := by
  have ofCxl {i : Instr} (h : Confined State.keepCxl i) := h.framed (clock := false) keepCxl_keeps Bool.noConfusion
  have ofSideband {i : Instr} (h : Confined State.keepSideband i) := h.framed (clock := false) keepSideband_keeps Bool.noConfusion
  have ofTap {i : Instr} (h : Confined State.keepTapPins i) := h.framed (clock := false) keepTapPins_keeps Bool.noConfusion
  refine ⟨⟨?up, ?down, ?timeout, ?completion⟩, ⟨?ident, ?reads, ?power, ?clear, ?cap⟩, ?exit, ⟨?bypass, ?selects, ?sample, ?drives⟩, ?debug⟩
  case up => exact fun _ _ => ofCxl fun _ => ⟨_, rfl⟩
  case down => exact fun _ => ofCxl fun _ => ⟨_, rfl⟩
  case timeout => exact fun _ _ _ => ofCxl fun _ => ⟨_, rfl⟩
  case completion => exact fun _ _ _ => ofCxl fun _ => ⟨_, rfl⟩
  case ident => exact fun _ => ofSideband fun _ => ⟨_, rfl⟩
  case reads =>
    intro i hi
    fin_cases hi <;> exact ofSideband fun _ => ⟨_, rfl⟩
  case power => exact fun _ _ => ofSideband fun _ => ⟨_, rfl⟩
  case clear => exact fun _ => ofSideband fun _ => ⟨_, rfl⟩
  case cap => exact fun _ => ofSideband fun _ => ⟨_, rfl⟩
  case exit => exact fun _ => Confined.framed (fun _ => ⟨_, rfl⟩) keepTapExit_keeps fun _ => keepTapExit_clock
  case bypass => exact fun _ => ofTap fun _ => ⟨_, rfl⟩
  case selects =>
    intro i hi
    fin_cases hi <;> exact ofTap fun _ => ⟨_, rfl⟩
  case sample => exact fun _ => ofTap fun _ => ⟨_, rfl⟩
  case drives =>
    intro drive i hi
    fin_cases hi <;> exact ofTap fun _ => ⟨_, rfl⟩
  case debug => exact fun _ => Confined.framed (fun _ => ⟨_, rfl⟩) keepDebug_keeps Bool.noConfusion

/-- Settles O14: accesses of the host, the sweep of the landing tread and the rows of a boundary have a confinement each. -/
theorem frameOfHostAndTread : Obligations.FrameOfHostAndTread := by
  have ofHost {i : Instr} (h : Confined State.keepHost i) := h.framed keepHost_keeps fun _ : true = true => keepHost_clock
  have ofBoundary {i : Instr} (h : Confined State.keepBoundary i) := h.framed (clock := false) keepBoundary_keeps Bool.noConfusion
  refine ⟨⟨?config, ?flr, ?vfs, ?states⟩, ?sweep, ?transitions, ?abandon, ?wings, ?deadline, ?unit⟩
  case config => exact fun _ _ _ => ofHost fun _ => ⟨_, rfl⟩
  case flr => exact fun _ _ => ofHost fun _ => ⟨_, rfl⟩
  case vfs => exact fun _ _ _ => ofHost fun _ => ⟨_, rfl⟩
  case states =>
    intro i hi
    fin_cases hi <;> exact ofHost fun _ => ⟨_, rfl⟩
  case sweep => exact fun _ => Confined.framed (fun _ => ⟨_, rfl⟩) keepTread_keeps fun _ => keepTread_clock
  case transitions =>
    intro env i hi
    fin_cases hi <;> exact ofBoundary fun _ => ⟨_, rfl⟩
  case abandon => exact fun _ _ => ofBoundary fun _ => ⟨_, rfl⟩
  case wings =>
    intro w env i hi
    fin_cases hi <;> exact ofBoundary fun _ => ⟨_, rfl⟩
  case deadline => exact fun _ _ _ => ofBoundary fun _ => ⟨_, rfl⟩
  case unit => exact fun _ _ _ => ofBoundary fun _ => ⟨_, rfl⟩

end Sys2Proof.Machine

/-!
The settled statements of resets and start-up (spec/21_startup_reset.md R456 to R464; spec/22_module.md R472, R479).
-/
namespace Sys2Proof.Machine

section
variable {s t u : State}

/-- The confinement of resets and start-up leaves the outcome of a rule that leaves the queue. -/
theorem resetRow_next (h : t = u) (queue : u.pending = s.pending) : (.next (s.keepReset t) : Host.Outcome State Fault Refusal) = .next u := by
  subst h
  unfold State.keepReset
  rw [← queue]

/-! ## Cold resets (Table 22.3) -/

theorem opPowerOn_starts (free : s.boot.tripped = false) (sbAddr : Nat) (i3c : Bool) : s.opPowerOn sbAddr i3c
    = { s.coldReset with boot := { s.coldReset.boot with rails := true, switchOpen := false }, board := { sbAddr := sbAddr, i3c := i3c } } :=
  if_neg (ne_true_of_eq_false free)

theorem opUnder_low {mv : Nat} (low : mv < 40000) (us : Nat) : s.opUnder mv us
    = { s.coldReset with boot := { s.coldReset.boot with rails := false, tripped := false, switchOpen := false } } := if_pos low

theorem opUnder_long {mv us : Nat} (high : 40000 ≤ mv) (low : mv < 46000) (long : 100 < us) : s.opUnder mv us = s.railsOff :=
  (if_neg (not_lt.2 high)).trans (if_pos ⟨low, long⟩)

theorem opUnder_within {mv us : Nat} (h : 46000 ≤ mv ∨ 40000 ≤ mv ∧ us ≤ 100) : s.opUnder mv us = s :=
  (if_neg (by omega)).trans (if_neg (by omega))

theorem opOver_opens {mv us : Nat} (high : 60000 < mv) (long : 100 < us) : s.opOver mv us
    = { s.coldReset with boot := { s.coldReset.boot with rails := false, switchOpen := true } } := if_pos ⟨high, long⟩

theorem opOver_within {mv us : Nat} (h : mv ≤ 60000 ∨ us ≤ 100) : s.opOver mv us = s := if_neg (by omega)

theorem opTrip_latches {temp8 : Int} {analogue : Bool} (on : s.boot.rails = true) (hot : 920 ≤ temp8 ∨ analogue = true) :
    s.opTrip temp8 analogue = { s.coldReset with boot := { s.coldReset.boot with rails := false, tripped := true } } :=
  if_pos (by simpa [on] using hot)

theorem opTrip_within {temp8 : Int} {analogue : Bool} (h : s.boot.rails = false ∨ temp8 < 920 ∧ analogue = false) :
    s.opTrip temp8 analogue = s := by
  refine if_neg ?_
  rcases h with off | ⟨cool, quiet⟩
  · simp [off]
  · simp [quiet, cool]

end

/-- Settles O15: each row makes its cold reset past its limit, and answers the state within it. -/
theorem coldResets : Obligations.ColdResets := by
  intro s
  refine ⟨?after, ?powers, ?latched, ?low, ?sags, ?within, ?above, ?below, ?trips, ?cool⟩
  case after =>
    unfold State.coldAfter
    and_intros <;> rfl
  case powers => exact fun sbAddr i3c free => resetRow_next (opPowerOn_starts free ..) rfl
  case latched => exact fun sbAddr i3c latch => resetRow_next (if_pos latch) rfl
  case low => exact fun mv us low => resetRow_next (opUnder_low low us) rfl
  case sags => exact fun mv us high low long => resetRow_next (opUnder_long high low long) rfl
  case within => exact fun mv us h => resetRow_next (opUnder_within h) rfl
  case above => exact fun mv us high long => resetRow_next (opOver_opens high long) rfl
  case below => exact fun mv us h => resetRow_next (opOver_within h) rfl
  case trips => exact fun temp8 analogue on hot => resetRow_next (opTrip_latches on hot) rfl
  case cool => exact fun temp8 analogue h => resetRow_next (opTrip_within h) rfl

/-! ## Warm resets (R457) -/

section
variable {s : State} {perst : Bool}

/-- A reset input is held (R457). -/
def Boot.hold (b : Boot) (perst : Bool) : Boot := if perst then { b with perst := true } else { b with modRst := true }

/-- The free value that decides whether a short assertion resets is used up. -/
def State.drawn (s : State) : State := { s with fresh := s.fresh + 1 }

/-- The warm device reset that an input makes, which stays held. -/
def State.heldReset (s : State) (perst : Bool) : State := { s.drawn.warmReset with boot := s.drawn.warmReset.boot.hold perst }

theorem opResetInput_held (reset : s.boot.st = 0) (long : Bool) : s.opResetInput perst long = { s with boot := s.boot.hold perst } :=
  if_pos reset

theorem opResetInput_long (run : s.boot.st ≠ 0) : s.opResetInput perst true = s.heldReset perst := by
  unfold State.opResetInput
  rw [if_neg run]
  rfl

/-- A short assertion resets or does nothing (log entry 29). -/
theorem opResetInput_short (run : s.boot.st ≠ 0) :
    s.opResetInput perst false = s.drawn ∨ s.opResetInput perst false = s.opResetInput perst true := by
  rw [opResetInput_long run]
  unfold State.opResetInput
  rw [if_neg run]
  exact (ite_eq_or_eq _ _ _).symm

/-- The start-up state that a warm reset leaves (Table 21.2): RESET, by a warm reset outside RESET, with the input held. -/
theorem heldReset_boot (run : s.boot.st ≠ 0) : (s.heldReset perst).boot.st = 0 ∧ (s.heldReset perst).boot.cause = 1
    ∧ (if perst then (s.heldReset perst).boot.perst else (s.heldReset perst).boot.modRst) = true
    ∧ (s.heldReset perst).boot.hbmInit = s.boot.hbmInit := by
  have warm : (s.drawn.warmReset.boot).cause = 1 := if_neg run
  cases perst
  · exact ⟨rfl, warm, rfl, rfl⟩
  · exact ⟨rfl, warm, rfl, rfl⟩

end

/-- Settles O16: a long assertion makes the warm reset and holds the input; a short one draws which of the two happens. -/
theorem warmReset : Obligations.WarmReset := by
  intro s perst
  refine ⟨?long, ?within, ?short⟩
  case long =>
    intro run
    obtain ⟨st, cause, held, hbm⟩ := heldReset_boot (perst := perst) run
    refine ⟨_, resetRow_next (opResetInput_long run) rfl, st, cause, held, hbm, ?_⟩
    and_intros <;> rfl
  case within => exact fun long reset => resetRow_next (opResetInput_held reset long) rfl
  case short =>
    intro run
    refine ⟨_, rfl, ?_⟩
    rcases opResetInput_short (perst := perst) run with ignored | resets
    · exact .inl (Host.Outcome.next.inj (resetRow_next ignored rfl))
    · exact .inr (congrArg (fun t => Host.Outcome.next (s.keepReset t)) resets.symm)

/-! ## What the steps of start-up leave alone -/

section
variable {s t : State}

/-- What ACC_STATIC is formed of: the power samples, and the value so far (R464). -/
def State.measured (s : State) : PowerSt × Nat := (s.power, s.acct.static)

theorem idlePower_of_measured (h : t.measured = s.measured) : t.idlePower = s.idlePower := by
  obtain ⟨power, static⟩ := Prod.mk.inj h
  unfold State.idlePower
  rw [power, static]

theorem measured_of_apart (h : t.apart = s.apart) : t.measured = s.measured :=
  congrArg (fun x : State × (Nat → Wing) × (Nat → CxlSt) => (x.1.power, x.1.acct.static)) h

theorem measured_ite {c : Prop} [Decidable c] {u : State} (h1 : t.measured = s.measured) (h2 : u.measured = s.measured) :
    (if c then t else u).measured = s.measured := iteInduction (motive := fun x : State => x.measured = s.measured) (fun _ => h1) fun _ => h2

theorem measured_foldl {β : Type} (l : List β) (f : State → β → State) (hf : ∀ s x, (f s x).measured = s.measured) (s : State) :
    (l.foldl f s).measured = s.measured := by
  induction l generalizing s with
  | nil => rfl
  | cons x l ih => rw [List.foldl_cons, ih, hf]

variable (s)

theorem setBist_measured (m : Nat) : (s.setBist m).measured = s.measured := measured_ite ((measured_of_apart (alert_apart ..)).trans rfl) rfl

theorem excludeSensors_measured (bad : Nat) : (s.excludeSensors bad).measured = s.measured := measured_ite (setBist_measured ..) rfl

theorem excludeMonitors_measured (bad : Nat) : (s.excludeMonitors bad).measured = s.measured := measured_ite (setBist_measured ..) rfl

theorem judgePll_measured (dev16 : Nat) : (s.judgePll dev16).measured = s.measured := measured_ite (setBist_measured ..) rfl

theorem setBoot_measured (key st : Nat) : (s.setBoot key st).measured = s.measured :=
  measured_of_apart ((setHw_apart ..).trans (modUnit_apart ..))

theorem logStart_pending : s.logStart.pending = s.pending := by
  unfold State.logStart
  split <;> rfl

theorem addRepair_measured (kind loc spare : Nat) : (s.addRepair kind loc spare).measured = s.measured := measured_ite rfl rfl

theorem applyRepair_mem (cold : Bool) (r : Repair) : (s.applyRepair cold r).mem = s.mem := by
  unfold State.applyRepair
  split
  · rfl
  · rfl
  · rfl
  · split <;> rfl

theorem sendBoot_apart : s.sendBoot.apart = State.apart { s with boot := { s.boot with events := [] } } := by
  unfold State.sendBoot
  refine apart_foldl _ _ (fun s e => ?_) _
  exact apart_foldl _ _ (fun _ _ => writeEvt_apart ..) _

/-- The events of start-up go to the PF's ring, which leaves the module in its state, with its measured power. -/
theorem sendBoot_keeps : s.sendBoot.boot.st = s.boot.st ∧ s.sendBoot.newel.running = s.newel.running ∧ s.sendBoot.acct.static = s.acct.static := by
  have sent := congrArg Prod.fst (sendBoot_apart s)
  exact ⟨(congrArg (·.boot.st) sent :), (congrArg (·.newel.running) sent :), (congrArg (·.acct.static) sent :)⟩

end

/-! ## The states of start-up (Table 21.1) -/

section
variable {s : State}

/-- START_UP_BEGIN runs where nothing holds the module (R457). -/
theorem opStartUp_begins (reset : s.boot.st = 0) (latch : s.boot.tripped = false) (closed : s.boot.switchOpen = false) : s.opStartUp
    = { s.logStart with boot := { s.boot with st := 1, rails := true, perst := false, modRst := false, startTread := s.tread, startMs := 0 } } :=
  if_neg (by simp [reset, latch, closed])

/-- The state in which the boot ROM tries the copies: those named do not read as written, and power is measured (R57, R461). -/
def State.romTries (s : State) (bad : Nat) : State :=
  { s with trust := { s.trust with fw := s.trust.fw.map fun x => if bit bad x.1 then (x.1, { x.2 with readable := false }) else x }
           power := { s.power with measuring := true } }

/-- The state with another start-up state. -/
def State.starting (s : State) (b : Boot) : State := { s with boot := b }

theorem opBootRom_keyless (rom : s.boot.st = 1) (key : s.boot.romKeyOk = false) (bad : Nat) :
    s.opBootRom bad = (s.romTries bad).starting { s.boot with st := 2, failed := 15 } := by
  unfold State.opBootRom
  rw [if_neg (not_not_intro rom)]
  exact if_pos (by simp [key])

/-- The boot ROM runs the first copy that passes, else the module stays in BOOT_FAIL (R461). -/
theorem opBootRom_tries (rom : s.boot.st = 1) (key : s.boot.romKeyOk = true) (bad : Nat) : s.opBootRom bad
    = match (fwOrder s.boot.active).find? (s.romTries bad).fwPasses with
      | none => (s.romTries bad).starting { s.boot with st := 2, failed := 15 }
      | some k => (s.romTries bad).starting
          { s.boot with st := 3, slot := k / 2, copy := k % 2, failed := failedBefore (fwOrder s.boot.active) k } := by
  unfold State.opBootRom
  rw [if_neg (not_not_intro rom)]
  exact if_neg (by simp [key])

/-- Which copies pass depends on the copies, the ROM's key and the lowest security version that it accepts. -/
theorem starting_fwPasses {b : Boot} (key : b.romKeyOk = s.boot.romKeyOk) (svn : b.minSvn = s.boot.minSvn) :
    (s.starting b).fwPasses = s.fwPasses := by
  funext k
  unfold State.fwPasses
  rw [show (s.starting b).boot = b from rfl, key, svn]
  rfl

/-- The self-test ends in READY with the newel running; ACC_STATIC is the mean measured before it (R464). -/
theorem opSelftest_ready (memory : s.boot.st = 4) (cores slices : List Nat) (sensors monitors dev : Nat) :
    let t := s.opSelftest cores slices sensors monitors dev
    t.boot.st = 5 ∧ t.newel.running = true ∧ t.acct.static = s.idlePower := by
  have sent {c : Prop} [Decidable c] {u : State} (h : u.boot.st = 5 ∧ u.newel.running = true ∧ u.acct.static = s.idlePower) :
      let t := if c then u.sendBoot else u
      t.boot.st = 5 ∧ t.newel.running = true ∧ t.acct.static = s.idlePower := by
    obtain ⟨st, running, static⟩ := sendBoot_keeps u
    dsimp only
    split
    · rwa [st, running, static]
    · exact h
  unfold State.opSelftest
  rw [if_neg (not_not_intro memory)]
  refine sent ⟨rfl, rfl, idlePower_of_measured ?_⟩
  have scanned (l : List Nat) (key : Nat → Nat) (st : Nat) (t : State) :
      (l.foldl (fun s p => s.setBoot (key p) st) t).measured = t.measured := measured_foldl _ _ (fun _ _ => setBoot_measured ..) t
  refine (measured_ite (measured_foldl _ _ (fun _ _ => measured_ite rfl (setBoot_measured ..)) _) rfl).trans ?_
  refine (scanned ..).trans ((measured_foldl _ _ (fun t p => ?_) _).trans ((scanned ..).trans ?_))
  · split
    · rfl
    · split
      · rfl
      · exact (addRepair_measured ..).trans (setBoot_measured ..)
  · exact (judgePll_measured ..).trans ((excludeMonitors_measured ..).trans (excludeSensors_measured ..))

/-- MEMORY_INIT trains the channels, maps the cores and applies the repair list, which moves no byte, before it zeroes (R463). -/
theorem opMemoryInit_zeroes (trained : s.boot.st = 3) (fail : List Nat) : ∃ u : State, u.mem = s.mem ∧
    (s.opMemoryInit fail).mem = (if (decide (s.boot.cause = 0) || !s.boot.hbmInit) = true then (u.zero 0 sramEnd).zero hbmBase (384 * hbmGiB)
      else u.zero 0 sramEnd).mem ∧ (s.opMemoryInit fail).boot = { s.boot with st := 4, hbmInit := true } := by
  unfold State.opMemoryInit
  rw [if_neg (not_not_intro trained)]
  refine ⟨_, ?_, rfl, rfl⟩
  refine (mem_foldl _ _ (fun _ _ => applyRepair_mem ..) _).trans ((mem_foldl _ _ (fun t ch => ?_) _ :))
  split
  · rfl
  · exact setHw_mem ..

end

/-- Settles O17: each row makes the transition of its state. -/
theorem startUp : Obligations.StartUp := by
  intro s
  refine ⟨?begins, ?tries, ?keyless, ?memory, ?ready⟩
  case begins =>
    intro reset latch closed
    exact ⟨_, resetRow_next (opStartUp_begins reset latch closed) (logStart_pending s), rfl, rfl, rfl, rfl, rfl⟩
  case tries =>
    intro rom key bad
    have tried := opBootRom_tries rom key bad.toNat
    split at tried
    · rename_i fails
      refine ⟨_, resetRow_next tried rfl, rfl, ?_⟩
      rw [starting_fwPasses, fails]
      · exact ⟨rfl, rfl⟩
      · rfl
      · rfl
    · rename_i k passes
      refine ⟨_, resetRow_next tried rfl, rfl, ?_⟩
      rw [starting_fwPasses, passes]
      · exact ⟨rfl, rfl, rfl⟩
      · rfl
      · rfl
  case keyless => exact fun rom key bad => ⟨_, resetRow_next (opBootRom_keyless rom key _) rfl, rfl, rfl⟩
  case memory =>
    intro trained fail
    obtain ⟨u, _, _, boot⟩ := opMemoryInit_zeroes trained (fail.map (·.val))
    exact ⟨_, rfl, (congrArg Boot.st boot :), (congrArg Boot.hbmInit boot :)⟩
  case ready => exact fun memory _ _ _ _ _ => ⟨_, rfl, opSelftest_ready memory ..⟩

/-! ## Zeroed memory (R463) -/

/-- A zeroed range holds no bad check bits, where it begins and ends with a word. -/
theorem zero_errs (s : State) {a n x : Nat} (lo : a % 4 = 0) (hi : n % 4 = 0) (within : a ≤ x) (below : x < a + n) :
    ∀ e ∈ (s.zero a n).mem.errs, e.1 ≠ x / 4 := by
  intro e listed
  have outside := (List.mem_filter.1 listed).2
  simp only [decide_eq_true_eq] at outside
  omega

/-- Zeroing brings in no check bits. -/
theorem zero_errs_sub {s : State} {a n : Nat} {e : Nat × Nat} (h : e ∈ (s.zero a n).mem.errs) : e ∈ s.mem.errs := (List.mem_filter.1 h).1

/-- Settles O18: the zeroing of core SRAM and, after a cold reset, of HBM comes last, and nothing before it moves a byte. -/
theorem memoryInitZeroes : Obligations.MemoryInitZeroes := by
  intro s fail trained
  obtain ⟨u, same, zeroed, _⟩ := opMemoryInit_zeroes trained (fail.map (·.val))
  have apart : sramEnd ≤ hbmBase := by decide
  refine ⟨_, rfl, ?sram, ?hbm, ?warm⟩
  case sram =>
    intro a within
    show getCell (s.opMemoryInit _).mem.cells a = 0 ∧ ∀ e ∈ (s.opMemoryInit _).mem.errs, e.1 ≠ a / 4
    have clean := zero_errs u (x := a) (by decide : 0 % 4 = 0) (by decide : sramEnd % 4 = 0) (Nat.zero_le a) (by omega)
    have empty := zero_in u 0 sramEnd a (Nat.zero_le a) (by omega)
    rw [zeroed]
    split
    · exact ⟨(zero_out _ _ _ _ (by omega)).trans empty, fun e he => clean e (zero_errs_sub he)⟩
    · exact ⟨empty, clean⟩
  case hbm =>
    intro cold o within
    show getCell (s.opMemoryInit _).mem.cells _ = 0 ∧ ∀ e ∈ (s.opMemoryInit _).mem.errs, e.1 ≠ _
    rw [zeroed, if_pos (by rcases cold with h | h <;> simp [h])]
    exact ⟨zero_in _ _ _ _ (by omega) (by omega), zero_errs _ (by decide) (by decide) (by omega) (by omega)⟩
  case warm =>
    intro again init a above
    show getCell (s.opMemoryInit _).mem.cells a = _
    rw [zeroed, if_neg (by simp [again, init]), zero_out _ _ _ _ (by omega), same]

end Sys2Proof.Machine

/-!
SUPPORT. What the newel and the events of start-up leave of a function's mailbox (spec/16_newel.md R363 to R371).
-/
namespace Sys2Proof.Machine

/-- A function's registers without what the newel moves: the command ring's head, the completion ring's tail and phase, and fired vectors. -/
def FnSt.posted (f : FnSt) : FnSt := { f with head := 0, cplTail := 0, cplUsed := 0, cphase := false, fired := 0 }

/-- A function's registers without what an event moves: the event ring's producer count and fired vectors. -/
def FnSt.rings (f : FnSt) : FnSt := { f with evtProd := 0, fired := 0 }

section
variable (s : State)

/-- What a change of one function leaves of a function's registers, it leaves of each function. -/
theorem modFn_proj {α : Type} (g : FnSt → α) (k fn : Nat) {f : FnSt → FnSt} (hf : ∀ x, g (f x) = g x := by exact fun _ => rfl) :
    g ((s.modFn k f).fnSt fn) = g (s.fnSt fn) := by
  by_cases h : fn = k
  · rw [h, modFn_same, hf]
  · rw [modFn_ne _ _ _ _ h]

@[simp] theorem charge_fnSt (w : Option Nat) (f n fn : Nat) : (s.charge w f n).fnSt fn = s.fnSt fn := by
  unfold State.charge
  split
  · rfl
  · cases w <;> rfl

@[simp] theorem hostIn_fnSt (k n fn : Nat) : (s.hostIn k n).fnSt fn = s.fnSt fn := by
  unfold State.hostIn
  split
  · rfl
  · exact charge_fnSt ..

@[simp] theorem hostWrite_fnSt (k a : Nat) (bs : List PByte) (fn : Nat) : (s.hostWrite k a bs).fnSt fn = s.fnSt fn := by
  unfold State.hostWrite
  split
  · split
    · rfl
    · exact charge_fnSt ..
  · rfl

theorem writeEvt_rings (k : Nat) (body : List Byte) (cls fn : Nat) : ((s.writeEvt k body cls).fnSt fn).rings = (s.fnSt fn).rings := by
  have counted (t : State) : ((t.modFn k fun f => { f with evtProd := (f.evtProd + 1) % 2 ^ 32 }).fnSt fn).rings = (t.fnSt fn).rings :=
    modFn_proj t FnSt.rings k fn
  unfold State.writeEvt
  dsimp only
  split
  · split
    · exact (modFn_proj _ FnSt.rings k fn).trans ((counted _).trans (congrArg FnSt.rings (hostWrite_fnSt ..)))
    · exact (counted _).trans (congrArg FnSt.rings (hostWrite_fnSt ..))
  · rfl

/-- A fold whose every step leaves a function's rings leaves them. -/
theorem rings_foldl {β : Type} (fn : Nat) (l : List β) (f : State → β → State) (hf : ∀ s x, ((f s x).fnSt fn).rings = (s.fnSt fn).rings)
    (s : State) : ((l.foldl f s).fnSt fn).rings = (s.fnSt fn).rings := by
  induction l generalizing s with
  | nil => rfl
  | cons x l ih => rw [List.foldl_cons, ih, hf]

theorem sendBoot_rings (fn : Nat) : (s.sendBoot.fnSt fn).rings = (s.fnSt fn).rings := by
  unfold State.sendBoot
  refine (rings_foldl fn _ _ (fun t e => ?_) _).trans rfl
  exact rings_foldl fn _ _ (fun _ _ => writeEvt_rings ..) t

theorem writeCpl_posted (x : Cpl) (fn : Nat) : ((s.writeCpl x).fnSt fn).posted = (s.fnSt fn).posted := by
  have moved (t : State) (n : Nat) : ((t.modFn x.cmd.fn fun f => { f with
      cplTail := (f.cplTail + 1) % n, cplUsed := f.cplUsed + 1, cphase := if f.cplTail + 1 = n then !f.cphase else f.cphase }).fnSt fn).posted
      = (t.fnSt fn).posted := modFn_proj t FnSt.posted x.cmd.fn fn
  unfold State.writeCpl
  dsimp only
  split
  · exact (modFn_proj _ FnSt.posted _ fn).trans ((moved ..).trans (congrArg FnSt.posted (hostWrite_fnSt ..)))
  · exact (moved ..).trans (congrArg FnSt.posted (hostWrite_fnSt ..))

theorem complete_posted (c : Cmd) (status detail : Nat) (r : List Nat) (fn : Nat) :
    ((s.complete c status detail r).fnSt fn).posted = (s.fnSt fn).posted := by
  rcases complete_cases s c status detail r with now | ⟨due, waits⟩
  · rw [now, writeCpl_posted]
  · rw [waits]; rfl

theorem takeHead_posted (k fn : Nat) : ((s.takeHead k).fnSt fn).posted = (s.fnSt fn).posted := by
  have moved (t : State) : ((t.modFn k fun f => { f with head := (f.head + 1) % ringSize f.cmd }).fnSt fn).posted = (t.fnSt fn).posted :=
    modFn_proj t FnSt.posted k fn
  exact (moved (s.hostIn k 128)).trans (congrArg FnSt.posted (hostIn_fnSt ..))

end

theorem takeRest_posted (n : Nat) (s : State) (fn : Nat) : ((State.takeRest n s).fnSt fn).posted = (s.fnSt fn).posted := by
  induction n generalizing s with
  | zero => rfl
  | succ n ih =>
    unfold State.takeRest
    split
    · rfl
    · split
      · rfl
      · dsimp only
        split
        · rw [ih, complete_posted, takeHead_posted]
        · rfl

end Sys2Proof.Machine

/-!
The settled statements of the mailbox registers and of accesses of a register space (spec/16_newel.md R363 to R371; spec/20_host_links.md
R334, R445).
-/
namespace Sys2Proof.Machine

/-! ## Mailbox registers -/

section
variable {s t u : State} {fn : Nat}

/-- The confinement of a mailbox register leaves a state whose clk lies in the tread. -/
theorem keepMailbox_self (h : s.time.phase < treadClk) : s.keepMailbox s = s := by
  simp only [State.keepMailbox, Nat.mod_eq_of_lt h]

/-- A row of a mailbox register leaves what its write leaves. -/
theorem mailboxRow_next (h : t = u) : (.next (s.keepMailbox t) : Host.Outcome State Fault Refusal) = .next (s.keepMailbox u) := h ▸ rfl

/-- The registers that MBX_CTRL leaves: with EN rising, heads and tails at 0 and the phase at 1 (R364). -/
def FnSt.setCtrl (f : FnSt) (was : Bool) (v : Nat) : FnSt :=
  if bit v 0 && !was then { f with ctrl := v, head := 0, tail := 0, cplHead := 0, cplTail := 0, cplUsed := 0, cphase := true }
  else { f with ctrl := v }

/-- MBX_CTRL leaves the registers so, and what start-up's events then move. -/
theorem mbxCtrlWrite_rings (s : State) (fn v : Nat) : ((s.mbxCtrlWrite fn v).fnSt fn).rings
    = ((s.fnSt fn).setCtrl (bit (s.fnSt fn).ctrl 0) (v &&& 0x1FF9)).rings := by
  have written : (s.modFn fn fun f => f.setCtrl (bit (s.fnSt fn).ctrl 0) (v &&& 0x1FF9)).fnSt fn
      = (s.fnSt fn).setCtrl (bit (s.fnSt fn).ctrl 0) (v &&& 0x1FF9) := modFn_same ..
  refine Eq.trans ?_ (congrArg FnSt.rings written)
  unfold State.mbxCtrlWrite
  dsimp only
  split
  · exact sendBoot_rings ..
  · rfl

theorem setCtrl_ctrl (f : FnSt) (was : Bool) (v : Nat) : (f.setCtrl was v).ctrl = v := by
  unfold FnSt.setCtrl
  split
  · rfl
  · rfl

end

/-- Settles O30: each row writes its register; what the newel then does moves neither the tail nor the completion head, and the events of
start-up move the event ring alone. -/
theorem mailboxRegisters : Obligations.MailboxRegisters := by
  intro s fn v
  refine ⟨fun answers => ⟨_, mailboxRow_next (regRow_acts answers _), ?tail⟩, fun answers => ⟨_, mailboxRow_next (regRow_acts answers _), ?cplHead⟩,
    fun answers => ⟨_, mailboxRow_next (regRow_acts answers _), ?ctrl, fun en was => ?heads⟩, fun silent inTread => ?silent⟩
  case tail =>
    have kept := takeRest_posted 4096 (s.cmdDb fn.val v.toNat) fn.val
    exact (congrArg FnSt.tail kept :).trans (congrArg FnSt.tail (modFn_same s fn.val _) :)
  case cplHead =>
    have kept := takeRest_posted 4096 (s.cplHeadWrite fn.val v.toNat) fn.val
    exact (congrArg FnSt.cplHead kept :).trans (congrArg FnSt.cplHead (modFn_same s fn.val _) :)
  case ctrl =>
    have kept := mbxCtrlWrite_rings s fn.val v.toNat
    exact (congrArg FnSt.ctrl kept :).trans (setCtrl_ctrl ..)
  case heads =>
    have kept := mbxCtrlWrite_rings s fn.val v.toNat
    have set : bit (v.toNat &&& 0x1FF9) 0 = true := by rw [bit_eq_testBit, Nat.testBit_and, ← bit_eq_testBit, en]; rfl
    rw [FnSt.setCtrl, set, was, if_pos (by decide)] at kept
    exact ⟨(congrArg FnSt.head kept :), (congrArg FnSt.tail kept :), (congrArg FnSt.cplTail kept :), (congrArg FnSt.cplHead kept :),
      (congrArg FnSt.cphase kept :)⟩
  case silent =>
    have idle (f : State → State) : (.next (s.keepMailbox (s.regRow fn.val f)) : Host.Outcome State Fault Refusal) = .next s := by
      rw [regRow_silent silent, keepMailbox_self inTread]
    exact ⟨idle _, idle _, idle _⟩

/-! ## Writes through a VF -/

section
variable {s : State} {fn : Nat}

/-- A wing's registers and its DMA channels are none of the PF's. -/
theorem wingLoc_ne_pf (s : State) (fn w off o : Nat) : s.wingLoc fn w off ≠ .pf o := by
  unfold State.wingLoc
  split
  · nofun
  · split
    · nofun
    · nofun

/-- No offset of a VF's space leads to a register of the PF (R334). -/
theorem regLoc_ne_pf (vf : fn ≠ 0) (off o : Nat) : s.regLoc fn off ≠ .pf o := by
  unfold State.regLoc
  rw [if_neg vf]
  split
  · nofun
  split
  · exact wingLoc_ne_pf s fn (fn - 1) off o
  split
  · nofun
  split
  · nofun
  · nofun

theorem write1_vf (vf : fn ≠ 0) (off n v : Nat) : (s.write1 fn off n v).pfw = s.pfw := by
  unfold State.write1
  split
  · next o pf => exact absurd pf (regLoc_ne_pf vf off o)
  · rfl

theorem writeReg_vf (vf : fn ≠ 0) (off : Nat) (wide : Bool) (v : Nat) : (s.writeReg fn off wide v).pfw = s.pfw := by
  unfold State.writeReg
  split
  · exact write1_vf vf ..
  · split
    · exact write1_vf vf ..
    · exact (write1_vf vf ..).trans (write1_vf vf ..)

theorem opRegWrite_vf (vf : fn ≠ 0) (off : Nat) (wide : Bool) (v : Nat) : (s.opRegWrite fn off wide v).pfw = s.pfw := by
  unfold State.opRegWrite
  split
  · rfl
  · generalize off % (if wide = true then 8 else 4) = rest
    split
    · rfl
    · exact writeReg_vf vf ..

end

/-- Settles O34: no offset of a VF's space leads to a register of the PF, and what is in effect changes at boundaries alone. -/
theorem vfsLeaveThePf : Obligations.VfsLeaveThePf :=
  fun _ _ off wide v vf => ⟨_, rfl, opRegWrite_vf (fun zero => vf (Fin.ext zero)) off wide v.toNat, rfl⟩

/-! ## Accesses of another size -/

/-- An access of another size, or one not aligned to its size, is refused (R445). -/
theorem opBadSize_refuses {s : State} {fn off size : Nat} (answers : s.fnAnswers fn = true) (some : 0 < size)
    (bad : ¬((size = 4 ∨ size = 8) ∧ off % size = 0)) (isWrite : Bool) : s.opBadSize fn off size isWrite = s.badAccess isWrite := by
  unfold State.opBadSize
  rw [if_neg (by simp [answers, Nat.ne_of_gt some]), if_neg (by simpa using bad)]

/-- Settles O35: such an access is counted in PCI_ERR, and a read of it gives all ones. -/
theorem badSizeAccesses : Obligations.BadSizeAccesses := by
  intro s fn off size answers inTread some bad
  have row (isWrite : Bool) : exec (.badSizeAccess fn off size isWrite) s = .next (s.keepRegRow (s.badAccess isWrite)) :=
    regRow_next (opBadSize_refuses answers some bad isWrite)
  refine ⟨(row true).trans ?_, (row false).trans ?_⟩
  · simp only [State.keepRegRow, State.badAccess, if_true, Nat.mod_eq_of_lt inTread]
    rfl
  · simp only [State.keepRegRow, State.badAccess, Bool.false_eq_true, if_false, Nat.mod_eq_of_lt inTread]
    rfl

end Sys2Proof.Machine

/-!
The settled statement of the debug port (spec/20_host_links.md R453, R454; spec/17_trust.md R403).
-/
namespace Sys2Proof.Machine

/-- An entry of the log leaves DEBUG_SEEN. -/
theorem logEntry_dbgSeen (s : State) (kind : Nat) (wing : Option Nat) (items : Nat) (body : List Byte) :
    (s.logEntry kind wing items body).trust.dbgSeen = s.trust.dbgSeen := by
  unfold State.logEntry
  dsimp only
  split
  · split
    · rfl
    · split
      · rfl
      · rfl
  · rfl

/-- The debug port is in use: DEBUG_SEEN is set (R405). -/
theorem debugUse_seen (s : State) : s.debugUse.trust.dbgSeen = true := by
  unfold State.debugUse State.debugFirst
  split
  · assumption
  · exact logEntry_dbgSeen ..

/-- The access of the debug port leaves what its operation leaves. -/
theorem debugRow_next {s t u : State} (h : t = u) :
    (.next (s.keepDebug t) : Host.Outcome State Fault Refusal) = .next (s.keepDebug u) := h ▸ rfl

/-- Settles O38: by the operation, the space and, in memory, the regions of the address. -/
theorem debugAccess : Obligations.DebugAccess := by
  intro s dr a data v u out q loc mapped
  have assigned (m : mapped) : (u.region a ≠ .unmapped && u.region (a + 7) ≠ .unmapped : Bool) = true := by simpa using m
  have unassigned (m : ¬mapped) : (u.region a ≠ .unmapped && u.region (a + 7) ≠ .unmapped : Bool) = false := by
    rw [Bool.eq_false_iff]
    exact fun here => m (by simpa using here)
  refine ⟨debugUse_seen s, fun dead => debugRow_next (if_pos (by rw [dead]; rfl)), fun live => ?_⟩
  have acts : s.opDebug dr.toNat = _ := if_neg (by rw [live]; decide)
  refine ⟨fun op => debugRow_next (acts.trans ?nothing), fun op reg => debugRow_next (acts.trans ?readReg),
    fun op mem m init => debugRow_next (acts.trans ?readMem), fun op mem m init => debugRow_next (acts.trans ?readFree),
    fun op mem m => debugRow_next (acts.trans ?readNone), fun op => debugRow_next (acts.trans ?writeReg),
    fun op mem m => debugRow_next (acts.trans ?writeMem), fun op mem m => debugRow_next (acts.trans ?writeNone)⟩
  case nothing => simp only [op, out]; rfl
  case readReg => simp only [op, reg, out]; rfl
  case readMem => simp only [op, mem, out]; exact (if_pos (assigned m)).trans (if_neg (not_refused (b := u.boot.hbmInit) init))
  case readFree => simp only [op, mem, out]; exact (if_pos (assigned m)).trans (if_pos (refused (b := u.boot.hbmInit) (ne_true_of_eq_false init)))
  case readNone => simp only [op, mem, out]; exact if_neg (ne_true_of_eq_false (unassigned m))
  case writeReg =>
    rcases op with ⟨op, reg⟩ | op
    · simp only [op, reg, out]; rfl
    · simp only [op, out]; rfl
  case writeMem => simp only [op, mem, out]; exact if_pos (assigned m)
  case writeNone => simp only [op, mem, out]; exact if_neg (ne_true_of_eq_false (unassigned m))

end Sys2Proof.Machine

/-!
The settled statements of commands that become outstanding (spec/16_newel.md R365 to R368, Table 16.5).
-/
namespace Sys2Proof.Machine

/-! ## Rows that hold their command -/

section
variable {s u : State}

/-- A command held by a load or flight row is outstanding, and nothing else has changed. -/
theorem hold_holding_load (same : u.standing = s.standing) (c : Cmd) : u.holding (s.keepLoad (u.hold c)) c := by
  obtain ⟨svc, trust⟩ := Prod.mk.inj same
  exact ⟨rfl, rfl, rfl, rfl, rfl, rfl, rfl, rfl, svc.symm, trust.symm⟩

/-- A command held by a service row is outstanding, and nothing else has changed. -/
theorem hold_holding_service (same : u.standing = s.standing) (c : Cmd) : u.holding (s.keepService (u.hold c)) c :=
  ⟨rfl, rfl, rfl, rfl, rfl, rfl, rfl, rfl, rfl, (Prod.mk.inj same).2.symm⟩

/-- A command held by a trust row is outstanding, and nothing else has changed. -/
theorem hold_holding_trust (s u : State) (c : Cmd) : u.holding (s.keepTrust (u.hold c)) c :=
  ⟨rfl, rfl, rfl, rfl, rfl, rfl, rfl, rfl, rfl, rfl⟩

theorem seqFetch_apart (s : State) (w slot : Nat) : (s.seqFetch w slot).apart = s.apart :=
  apart_ite ((fetchIn_apart ..).trans (fetchIn_apart ..)) rfl

theorem pfxFetch_apart (s : State) (w h : Nat) : (s.pfxFetch w h).apart = s.apart := apart_ite (fetchIn_apart ..) rfl

end

section
variable {s q u : State} {fn : Fn} {clk : Clk} {k : CmdSpec} {c : Cmd} {body : State → Cmd → State} (taken : s.taken fn clk k = some (q, c))
  (fetched : u.apart = q.apart) (holds : body q c = u.hold c)
include taken fetched holds

/-- The row of a load or flight command that its own rules hold leaves it outstanding. -/
theorem loadRow_holds : ∃ t, (.next (s.keepLoad (s.mailRow fn.val clk.val k body)) : Host.Outcome State Fault Refusal) = .next t
    ∧ u.holding t c :=
  ⟨_, commandRow_next taken holds s.keepLoad, hold_holding_load ((apart_standing fetched).trans (taken_standing taken)) c⟩

/-- The row of a mailbox command that its own rules hold leaves it outstanding. -/
theorem commandRow_holds : ∃ t, (.next (s.keepCommand (s.mailRow fn.val clk.val k body)) : Host.Outcome State Fault Refusal) = .next t
    ∧ u.holding t c :=
  ⟨_, commandRow_next taken holds s.keepCommand, hold_holding ((apart_standing fetched).trans (taken_standing taken)) c⟩

/-- The row of a service command that its own rules hold leaves it outstanding. -/
theorem serviceRow_holds : ∃ t, (.next (s.keepService (s.mailRow fn.val clk.val k body)) : Host.Outcome State Fault Refusal) = .next t
    ∧ u.holding t c :=
  ⟨_, commandRow_next taken holds s.keepService, hold_holding_service ((apart_standing fetched).trans (taken_standing taken)) c⟩

omit fetched in
/-- The row of a trust command that its own rules hold leaves it outstanding. -/
theorem trustRow_holds : ∃ t, (.next (s.keepTrust (s.mailRow fn.val clk.val k body)) : Host.Outcome State Fault Refusal) = .next t
    ∧ u.holding t c := ⟨_, commandRow_next taken holds s.keepTrust, hold_holding_trust s u c⟩

end

/-! ## Flight commands (R187) -/

section
variable {s : State} {c : Cmd}

/-- A slot or a command that is there is not missing. -/
theorem not_isNone {α : Type} {x : Option α} (h : x.isSome = true) : ¬x.isNone = true := by
  rw [← Option.not_isSome]
  exact not_refused h

theorem not_isSome {α : Type} {x : Option α} (h : x = none) : ¬x.isSome = true := by subst h; nofun

theorem cmdFlightSwitch_holds (pend : (s.job c.wing).fl.pend.isSome = true) (idle : s.flightCmd c.wing = none)
    (ahead : c.arg 0 = 0 → treadReached (treadAdd c.at_ 2) (c.arg 1) = true) : s.cmdFlightSwitch c = s.hold c := by
  unfold State.cmdFlightSwitch
  rw [if_neg (not_isNone pend), if_neg (not_isSome idle), if_neg]
  intro past
  obtain ⟨named, early⟩ := Bool.and_eq_true_iff.1 past
  exact not_refused (ahead (of_decide_eq_true named)) early

theorem cmdFlightStop_holds (active : (s.job c.wing).fl.active.isSome = true) (idle : s.flightCmd c.wing = none) :
    s.cmdFlightStop c = s.hold c := (if_neg (not_isNone active)).trans (if_neg (not_isSome idle))

theorem cmdFlightUnload_holds (idle : s.flightCmd c.wing = none) : s.cmdFlightUnload c = s.hold c := if_neg (not_isSome idle)

/-! ## Commands of a sequence, an adapter and a PREFIX entry (R211, R222, R227) -/

theorem cmdSeqCancel_holds (row : bits (c.arg 0) 0 14 < s.seqCount c.wing) : s.cmdSeqCancel c = s.hold c := if_neg (not_le.2 row)

theorem cmdSeqPark_holds {want : Nat} (row : bits (c.arg 0) 0 14 < (s.seqFetch c.wing (bits (c.arg 0) 0 14)).seqCount c.wing)
    (st : rwState ((s.seqFetch c.wing (bits (c.arg 0) 0 14)).rowBytes c.wing (bits (c.arg 0) 0 14)) = want) :
    s.cmdSeqPark c want = (s.seqFetch c.wing (bits (c.arg 0) 0 14)).hold c :=
  (if_neg (not_le.2 row)).trans (if_neg (not_not_intro st))

theorem cmdAdapterDrop_holds {q : State} (fetched : s.adpFetch c.wing (c.arg 0) = q) (entry : c.arg 0 < q.adpCount c.wing)
    (st : adpState (q.adpEnt c.wing (c.arg 0)) = 1) (pins : adpPins (q.adpEnt c.wing (c.arg 0)) = 0)
    (old : adpOldPins (q.adpEnt c.wing (c.arg 0)) = 0) : s.cmdAdapterDrop c = q.hold c := by
  subst fetched
  exact (if_neg (not_or.2 ⟨not_le.2 entry, not_not_intro st⟩)).trans (if_neg (not_or.2 ⟨not_not_intro pins, not_not_intro old⟩))

theorem cmdPrefixDrop_holds {q : State} (fetched : s.pfxFetch c.wing (c.arg 0) = q) (entry : c.arg 0 < q.pfxCount c.wing)
    (used : q.pfxState c.wing (c.arg 0) ≠ 0) (ready : q.pfxState c.wing (c.arg 0) ≠ 1) : s.cmdPrefixDrop c = q.hold c := by
  subst fetched
  exact (if_neg (not_or.2 ⟨not_le.2 entry, used⟩)).trans (if_neg ready)

/-! ## Commands of a turn, of contexts and of a wing (R297, R349, R374) -/

theorem cmdTurnAbort_holds (pend : (s.job c.wing).turn.pend.isSome = true) : s.cmdTurnAbort c = s.hold c := if_neg (not_isNone pend)

theorem cmdCtxSwitch_holds (named : c.arg 1 ≠ 0) : s.cmdCtxSwitch c = s.hold c := if_neg named

theorem cmdCtxSet_holds (allows : s.ctxAllows c.wing (bits (c.arg 0) 0 3) (bits (c.arg 0) 8 3) = true) : s.cmdCtxSet c = s.hold c :=
  if_pos allows

theorem cmdSemAcquire_holds (other : Tab.find (s.wing c.wing).sems (bits (c.arg 0) 8 5) ≠ some (bits (c.arg 0) 0 3)) :
    s.cmdSemAcquire c = s.hold c := if_neg other

theorem cmdSemRelease_holds (own : Tab.find (s.wing c.wing).sems (bits (c.arg 0) 8 5) = some (bits (c.arg 0) 0 3)) :
    s.cmdSemRelease c = s.hold c := if_pos own

theorem cmdWingQuiesce_holds (time : c.arg 0 ≠ 0) : s.cmdWingQuiesce c = s.hold c := if_neg time

end

/-- Settles O25: each command past its own checks is held in the state past its fetches. -/
theorem commandsBecomeOutstanding : Obligations.CommandsBecomeOutstanding := by
  intro s q fn clk c
  simp only [List.forall_mem_cons]
  refine ⟨?switch, ?stop, ?unload, ?cancel, ?park, ?resume, ?adapter, ?pfx, ?abort, ?ctxSwitch, ?ctxSet, ?acquire, ?release, ?quiesce,
    ?wingReset, ?deviceReset, List.forall_mem_nil _⟩
  case switch =>
    rintro taken ⟨pend, idle, ahead⟩
    exact loadRow_holds taken rfl (cmdFlightSwitch_holds pend idle ahead)
  case stop =>
    rintro taken ⟨active, idle⟩
    exact loadRow_holds taken rfl (cmdFlightStop_holds active idle)
  case unload => exact fun taken idle => loadRow_holds taken rfl (cmdFlightUnload_holds idle)
  case cancel => exact fun taken row => commandRow_holds taken rfl (cmdSeqCancel_holds row)
  case park =>
    rintro taken ⟨row, st⟩
    exact commandRow_holds taken (seqFetch_apart ..) (cmdSeqPark_holds row st)
  case resume =>
    rintro taken ⟨row, st⟩
    exact commandRow_holds taken (seqFetch_apart ..) (cmdSeqPark_holds row st)
  case adapter =>
    rintro taken ⟨entry, st, pins, old⟩
    exact commandRow_holds taken (adpFetch_apart ..) (cmdAdapterDrop_holds rfl entry st pins old)
  case pfx =>
    rintro taken ⟨entry, used, ready⟩
    exact commandRow_holds taken (pfxFetch_apart ..) (cmdPrefixDrop_holds rfl entry used ready)
  case abort => exact fun taken pend => commandRow_holds taken rfl (cmdTurnAbort_holds pend)
  case ctxSwitch => exact fun taken named => commandRow_holds taken rfl (cmdCtxSwitch_holds named)
  case ctxSet => exact fun taken allows => commandRow_holds taken rfl (cmdCtxSet_holds allows)
  case acquire => exact fun taken other => commandRow_holds taken rfl (cmdSemAcquire_holds other)
  case release => exact fun taken own => commandRow_holds taken rfl (cmdSemRelease_holds own)
  case quiesce => exact fun taken time => commandRow_holds taken rfl (cmdWingQuiesce_holds time)
  case wingReset => exact fun taken _ => commandRow_holds taken rfl rfl
  case deviceReset => exact fun taken _ => commandRow_holds taken rfl rfl

end Sys2Proof.Machine

/-!
The settled statement of service, trust and self-test commands that become outstanding (spec/19_service.md R406, R425, R436;
spec/18_accounting.md R417).
-/
namespace Sys2Proof.Machine

section
variable {s q : State} {fn : Fn} {clk : Clk} {c : Cmd}

theorem acceptRetire_holds (passes : s.retireCheck c = none) : s.acceptRetire c = s.hold c := by
  unfold State.acceptRetire
  rw [passes]

theorem acceptRepairFuse_holds (names : bits (c.arg 0) 0 16 = 0xFFFF ∨ ∃ r, s.svc.repairs[bits (c.arg 0) 0 16]? = some r ∧ r.kind ≠ 3) :
    s.acceptRepairFuse c = s.hold c := by
  refine if_pos ?_
  rcases names with all | ⟨r, at_, kind⟩
  · rw [decide_eq_true all, Bool.true_or]
  · rw [at_]
    exact Bool.or_eq_true_iff.2 (.inr (decide_eq_true kind))

theorem acceptSnapshot_holds (aligned : c.arg 0 % 64 = 0) (room : 256 ≤ c.arg 1) : s.acceptSnapshot c = s.hold c :=
  if_neg (not_or.2 ⟨not_not_intro aligned, not_lt.2 room⟩)

theorem acceptFwStage_holds (some : c.arg 1 ≠ 0) (fits : c.arg 1 ≤ 16777216) : s.acceptFwStage c = s.hold c :=
  if_neg (not_or.2 ⟨some, not_lt.2 fits⟩)

theorem acceptAttest_holds (allowed : c.fn = 0 ∨ bit (c.arg 6) 0 = false ∧ bit (c.arg 6) 1 = false) (aligned : c.arg 4 % 64 = 0)
    (room : 50368 + (if bit (c.arg 6) 2 = true then 29920 else 0) ≤ c.arg 5) : s.acceptAttest c = s.hold c := by
  refine (if_neg ?_).trans (if_neg (not_or.2 ⟨not_not_intro aligned, not_lt.2 room⟩))
  rintro ⟨vf, flags⟩
  rcases allowed with pf | ⟨f0, f1⟩
  · exact vf pf
  · rw [f0, f1] at flags
    exact absurd flags (by decide)

/-! ## Items of the self-test (R425) -/

/-- The row of an item takes the entry that names it. -/
theorem itemRow_taken (taken : s.taken fn clk spcSelfTest = some (q, c)) {item : Nat} (names : bits (c.arg 0) 0 4 = item) :
    s.itemRow fn.val clk.val item = s.mailRow fn.val clk.val spcSelfTest fun s c => s.acceptItem c := by
  refine if_pos ?_
  unfold State.taken at taken
  dsimp only at taken
  split at taken
  · cases taken
  · next e head =>
    split at taken
    · cases taken
      rw [head]
      exact decide_eq_true names
    · cases taken

theorem acceptItem_holds (some : c.arg 1 ≠ 0) (fits : c.arg 1 ≤ 10000) (unit : s.itemUnitOk (bits (c.arg 0) 0 4) (bits (c.arg 0) 4 10) = true)
    (free : ∀ d ∈ s.outOp 0x706, itemClass (bits (d.arg 0) 0 4) = itemClass (bits (c.arg 0) 0 4) → bits (d.arg 0) 4 10 ≠ bits (c.arg 0) 4 10) :
    s.acceptItem c = s.hold c := by
  have fine : ¬(c.arg 1 = 0 ∨ c.arg 1 > 10000 ∨ (!s.itemUnitOk (bits (c.arg 0) 0 4) (bits (c.arg 0) 4 10)) = true) :=
    not_or.2 ⟨some, not_or.2 ⟨not_lt.2 fits, not_refused unit⟩⟩
  refine (if_neg fine).trans (if_neg ?_)
  simpa only [List.any_eq_true, Bool.and_eq_true, decide_eq_true_eq, not_exists, not_and] using free

/-- The row of an item whose command passes its checks holds it. -/
theorem itemRow_holds {item : Nat} (taken : s.taken fn clk spcSelfTest = some (q, c)) (names : bits (c.arg 0) 0 4 = item)
    (some : c.arg 1 ≠ 0) (fits : c.arg 1 ≤ 10000) (unit : q.itemUnitOk item (bits (c.arg 0) 4 10) = true)
    (free : ∀ d ∈ q.outOp 0x706, itemClass (bits (d.arg 0) 0 4) = itemClass item → bits (d.arg 0) 4 10 ≠ bits (c.arg 0) 4 10) :
    ∃ t, (.next (s.keepCommand (s.itemRow fn.val clk.val item)) : Host.Outcome State Fault Refusal) = .next t ∧ q.holding t c := by
  rw [itemRow_taken taken names]
  subst names
  exact commandRow_holds taken rfl (acceptItem_holds some fits unit free)

end

/-- Settles O26: each command past its own checks is held; the row of a self-test item takes the entry that names the item. -/
theorem serviceCommandsBecomeOutstanding : Obligations.ServiceCommandsBecomeOutstanding := by
  intro s q fn clk c
  constructor
  · simp only [List.forall_mem_cons]
    refine ⟨?retire, ?fuse, ?snapshot, ?stage, ?attest, List.forall_mem_nil _⟩
    case retire => exact fun taken passes => serviceRow_holds taken rfl (acceptRetire_holds passes)
    case fuse => exact fun taken names => serviceRow_holds taken rfl (acceptRepairFuse_holds names)
    case snapshot =>
      rintro taken ⟨aligned, room⟩
      exact serviceRow_holds taken rfl (acceptSnapshot_holds aligned room)
    case stage =>
      rintro taken ⟨some, fits⟩
      exact trustRow_holds taken (acceptFwStage_holds some fits)
    case attest =>
      rintro taken ⟨allowed, aligned, room⟩
      exact trustRow_holds taken (acceptAttest_holds allowed aligned room)
  · simp only [List.forall_mem_cons]
    exact ⟨itemRow_holds, itemRow_holds, itemRow_holds, itemRow_holds, itemRow_holds, itemRow_holds, itemRow_holds, itemRow_holds,
      List.forall_mem_nil _⟩

end Sys2Proof.Machine

/-!
The settled statement of commands that complete at acceptance (spec/16_newel.md R364, R369, R372, R373, R380; spec/17_trust.md R392, R393;
spec/19_service.md R435).
-/
namespace Sys2Proof.Machine

/-! ## The completion in its ring (R364, Table 16.2) -/

section
variable (s : State)

theorem charge_host (w : Option Nat) (f n : Nat) : (s.charge w f n).host = s.host := by
  unfold State.charge
  split
  · rfl
  · cases w <;> rfl

/-- A write that reaches host memory leaves its bytes there. -/
theorem hostWrite_host {fn a : Nat} {bs : List PByte} (ok : s.hostOk fn a bs.length = true) :
    (s.hostWrite fn a bs).host = s.host.write a bs := by
  unfold State.hostWrite
  rw [if_pos ok]
  dsimp only
  split
  · rfl
  · exact charge_host ..

end

theorem length_leBytes (n v : Nat) : (leBytes n v).length = n := by
  induction n generalizing v with
  | zero => rfl
  | succ n ih => rw [leBytes, List.length_cons, ih]

theorem length_cplBytes (phase : Bool) (x : Cpl) : (cplBytes phase x).length = 128 := by
  simp only [cplBytes, List.length_append, length_leBytes, List.length_flatMap]
  rfl

theorem length_clean (bs : List Byte) : (clean bs).length = bs.length := List.length_map _

theorem getD_clean (bs : List Byte) (i : Nat) : ((clean bs).getD i (0, false)).1 = bs.getD i 0 := by
  simp only [clean, List.getD_eq_getElem?_getD, List.getElem?_map]
  cases bs[i]? with
  | none => rfl
  | some b => rfl

section
variable (s : State) (x : Cpl)

/-- The slot of the completion ring at its tail. -/
def State.cplSlot (fn : Nat) : Nat := (s.fnSt fn).cpl / 4096 * 4096 + 128 * (s.fnSt fn).cplTail

/-- A completion is written at the tail's slot; what follows fires a vector at most. -/
theorem writeCpl_host : (s.writeCpl x).host
    = (s.hostWrite x.cmd.fn (s.cplSlot x.cmd.fn) (clean (cplBytes (s.fnSt x.cmd.fn).cphase x))).host := by
  unfold State.writeCpl
  dsimp only
  split
  · rfl
  · rfl

/-- The tail moves past the slot. -/
theorem writeCpl_cplTail :
    ((s.writeCpl x).fnSt x.cmd.fn).cplTail = ((s.fnSt x.cmd.fn).cplTail + 1) % ringSize (s.fnSt x.cmd.fn).cpl := by
  have moved (t : State) (n : Nat) : ((t.modFn x.cmd.fn fun f => { f with
      cplTail := (f.cplTail + 1) % n, cplUsed := f.cplUsed + 1, cphase := if f.cplTail + 1 = n then !f.cphase else f.cphase }).fnSt
        x.cmd.fn).cplTail = ((t.fnSt x.cmd.fn).cplTail + 1) % n := congrArg FnSt.cplTail (modFn_same ..)
  have tail (t : State) (n : Nat) (same : t.fnSt x.cmd.fn = s.fnSt x.cmd.fn) :
      ((t.fnSt x.cmd.fn).cplTail + 1) % n = ((s.fnSt x.cmd.fn).cplTail + 1) % n := by rw [same]
  unfold State.writeCpl
  dsimp only
  split
  · exact (modFn_proj _ FnSt.cplTail _ _).trans ((moved ..).trans (tail _ _ (hostWrite_fnSt ..)))
  · exact (moved ..).trans (tail _ _ (hostWrite_fnSt ..))

/-- Where its slot can be written, a completion stands in its ring, and the tail is past it. -/
theorem complete_completed {c : Cmd} (wf : s.host.wf = true) (running : s.newel.running = true) (writable : s.cplWritable c.fn = true)
    (st : Nat) (r : List Nat) : s.completed (s.complete c st 0 r) c st r := by
  have now : s.complete c st 0 r = s.writeCpl ⟨c, st, 0, s.tread, r⟩ := if_pos running
  have bytes : (clean (cplBytes (s.fnSt c.fn).cphase ⟨c, st, 0, s.tread, r⟩)).length = 128 := by rw [length_clean, length_cplBytes]
  rw [now]
  refine ⟨fun i inSlot => ?_, writeCpl_cplTail s ⟨c, st, 0, s.tread, r⟩⟩
  rw [writeCpl_host, hostWrite_host s (by rw [bytes]; exact writable)]
  exact (write_in _ _ _ _ wf (by rw [bytes]; exact inSlot)).trans (getD_clean ..)

variable (c : Cmd) (status detail : Nat) (r : List Nat)

/-- A completion leaves a wing's job. -/
theorem complete_job (w : Nat) : (s.complete c status detail r).job w = s.job w := by
  rcases complete_cases s c status detail r with now | ⟨due, waits⟩
  · rw [now, apart_job (writeCpl_apart ..)]
  · rw [waits]; rfl

end

/-! ## The commands -/

section
variable {s : State} {c : Cmd}

theorem cmdCfgLoad_completes {lo n : Nat} {r : State} (count : bits (c.arg 1) 0 13 = n)
    (first : (if s.loaded c.wing = true then (s.job c.wing).cfgCount else 0) = lo)
    (fetched : s.fetchIn c.wing (c.arg 0 + 64 * lo) (64 * (n - lo)) = r) (aligned : c.arg 0 % 64 = 0) (some : 1 ≤ n) (fits : n ≤ 4096)
    (grows : s.loaded c.wing = true → c.arg 0 = (s.job c.wing).cfgBase ∧ (s.job c.wing).cfgCount ≤ n)
    (inside : s.tableIn c.wing (c.arg 0) (64 * n) = true) (good : r.wordsBad c.wing (c.arg 0) lo (n - lo) = none) :
    s.cmdCfgLoad c = (r.modJob c.wing fun j => { j with cfgBase := c.arg 0, cfgCount := n }).complete c St.ok 0 [n] := by
  subst count first fetched
  unfold State.cmdCfgLoad
  dsimp only
  rw [if_neg ?shape, if_neg ?grows, if_neg (not_refused inside), good]
  case shape =>
    simp only [aligned, ne_eq, not_true_eq_false, decide_false, Bool.false_or, Bool.or_eq_true, decide_eq_true_eq]
    omega
  case grows =>
    intro shrinks
    obtain ⟨loaded, bad⟩ := Bool.and_eq_true_iff.1 shrinks
    obtain ⟨base, count⟩ := grows loaded
    simp [base, not_lt.2 count] at bad

theorem cmdFlightLoad_completes {f : Flight} (aligned : c.arg 0 % 64 = 0) (idle : s.flightCmd c.wing = none)
    (valid : s.validate c.wing (c.arg 0) none = .inr f) : s.cmdFlightLoad c
    = ((s.flightFetch c.wing (c.arg 0)).setFl c.wing ({ (s.job c.wing).fl with pend := some f }).settle).complete c St.ok 0 [f.id] := by
  unfold State.cmdFlightLoad
  dsimp only
  rw [if_neg (not_not_intro aligned), if_neg (not_isSome idle), valid]

/-- The slots of flights keep what they hold when a wing without an active flight settles. -/
theorem settle_slots (f : Flights) : f.settle.pend = f.pend ∧ f.settle.active = f.active := by
  unfold Flights.settle
  split
  · exact ⟨rfl, rfl⟩
  · exact ⟨rfl, rfl⟩

theorem keepLoad_job (s r : State) (w : Nat) : (s.keepLoad r).job w = r.job w := rfl

/-- A completion leaves the flights that its command has set. -/
theorem complete_setFl (s : State) (w : Nat) (f : Flights) (c : Cmd) (r : List Nat) :
    (((s.setFl w f).complete c St.ok 0 r).job w).fl = f := by
  rw [complete_job]
  exact congrArg Job.fl (modJob_same ..)

theorem acceptUnitQuery_completes (pf : c.fn = 0) (unit : bits (c.arg 0) 4 10 < unitCount (bits (c.arg 0) 0 4)) :
    let u := s.unit (unitKey (bits (c.arg 0) 0 4) (bits (c.arg 0) 4 10))
    s.acceptUnitQuery c = s.complete c St.ok 0 [u.hw + u.want * 256 + b2n (u.hw ≠ u.want) * 2 ^ 16 + u.epoch * 2 ^ 32, u.since.getD 0,
      if 3 ≤ bits (c.arg 0) 0 4 then 0 else sat 32 u.ce + sat 32 u.ue * 2 ^ 32] := by
  unfold State.acceptUnitQuery
  dsimp only
  rw [if_neg (by simp [pf]), if_neg (not_le.2 unit)]

theorem acceptRepairList_completes : s.acceptRepairList c = (s.hostWrite c.fn (c.arg 0) (clean ((s.svc.repairs.take
    (min s.svc.repairs.length (c.arg 1 / 16))).flatMap (·.bytes)))).complete c St.ok 0 [s.svc.repairs.length] := by
  unfold State.acceptRepairList
  dsimp only
  rw [apart_svc (hostWrite_apart ..)]

/-- The image store without an image. -/
def State.withoutImage (s : State) (id : Nat) : State :=
  { s with trust := { s.trust with images := s.trust.images.filter fun x => x.id ≠ id } }

theorem acceptImageErase_completes (there : (s.findImage (c.arg 0)).isSome = true) (free : ∀ d ∈ s.outOp 0x800, d.arg 0 ≠ c.arg 0) :
    s.acceptImageErase c = ((s.withoutImage (c.arg 0)).logEntry 6 none 0 (leBytes 8 (c.arg 0) ++ leBytes 1 1)).complete c St.ok 0 [] := by
  refine (if_neg (not_isNone there)).trans (if_neg ?_)
  simpa only [List.any_eq_true, decide_eq_true_eq, not_exists, not_and] using free

/-- An entry of the log leaves the images. -/
theorem logEntry_images (s : State) (kind : Nat) (wing : Option Nat) (items : Nat) (body : List Byte) :
    (s.logEntry kind wing items body).trust.images = s.trust.images := by
  unfold State.logEntry
  dsimp only
  split
  · split
    · rfl
    · split
      · rfl
      · rfl
  · rfl

/-- After IMAGE_ERASE the store holds the image no longer (R392). -/
theorem erased_images (s : State) (c : Cmd) (id : Nat) (kind : Nat) (body : List Byte) {x : Image}
    (left : x ∈ (((s.withoutImage id).logEntry kind none 0 body).complete c St.ok 0 []).trust.images) : x.id ≠ id := by
  rw [complete_trust, logEntry_images] at left
  exact of_decide_eq_true (List.mem_filter.1 left).2

end

/-- Settles O28: each command past its own checks completes in the state with its effect; a completion whose slot can be written stands there. -/
theorem commandsCompleteAtOnce : Obligations.CommandsCompleteAtOnce := by
  intro s q fn clk c
  refine ⟨fun taken => commandRow_next taken rfl s.keepLoad, fun taken => commandRow_next taken rfl s.keepLoad, ?cfg, ?flight,
    fun taken pf unit => commandRow_next taken (acceptUnitQuery_completes pf unit) s.keepService,
    fun taken => commandRow_next taken acceptRepairList_completes s.keepService, ?erase,
    fun taken aligned => commandRow_next taken (if_neg (not_not_intro aligned)) s.keepTrust,
    fun r l wf running writable => complete_completed r wf running writable St.ok l⟩
  case cfg =>
    intro taken n lo r aligned some fits grows inside good
    have completes := cmdCfgLoad_completes rfl rfl rfl aligned some fits grows inside good
    have row := commandRow_next taken completes s.keepLoad
    have landed : ((r.modJob c.wing fun j => { j with cfgBase := c.arg 0, cfgCount := n }).complete c St.ok 0 [n]).job c.wing
        = { r.job c.wing with cfgBase := c.arg 0, cfgCount := n } := (complete_job ..).trans (modJob_same ..)
    exact ⟨row, _, row, (congrArg Job.cfgBase landed :), (congrArg Job.cfgCount landed :)⟩
  case flight =>
    intro f taken aligned idle valid
    have row := commandRow_next taken (cmdFlightLoad_completes aligned idle valid) s.keepLoad
    have landed := complete_setFl (q.flightFetch c.wing (c.arg 0)) c.wing ({ (q.job c.wing).fl with pend := some f }).settle c [f.id]
    obtain ⟨pend, active⟩ := settle_slots { (q.job c.wing).fl with pend := some f }
    refine ⟨row, _, row, ?_, ?_⟩
    · rw [keepLoad_job, landed, pend]
    · rw [keepLoad_job, landed, active]
  case erase =>
    intro taken there free r
    have row := commandRow_next taken (acceptImageErase_completes there free) s.keepTrust
    exact ⟨row, _, row, fun x left => erased_images q c (c.arg 0) 6 _ left⟩

end Sys2Proof.Machine

/-!
The settled statement of the newel's restarts (spec/16_newel.md R362, R381, R383; spec/21_startup_reset.md R461, R467).
-/
namespace Sys2Proof.Machine

/-! ## What a restart's work leaves of the newel -/

/-- That the newel runs, its restarts, and the image that it activates. -/
def State.running (s : State) : Bool × Nat × Option Nat := (s.newel.running, s.newel.restarts, s.newel.activating)

theorem apart_running {s t : State} (h : t.apart = s.apart) : t.running = s.running :=
  (congrArg (fun x : State × (Nat → Wing) × (Nat → CxlSt) => x.1.running) h :)

/-- A fold whose every step leaves the newel running as it was does so too. -/
theorem running_foldl {β : Type} (l : List β) (f : State → β → State) (hf : ∀ s x, (f s x).running = s.running) (s : State) :
    (l.foldl f s).running = s.running := by
  induction l generalizing s with
  | nil => rfl
  | cons x l ih => rw [List.foldl_cons, ih, hf]

theorem running_ite {c : Prop} [Decidable c] {s t u : State} (h1 : t.running = s.running) (h2 : u.running = s.running) :
    (if c then t else u).running = s.running := iteInduction (motive := fun x : State => x.running = s.running) (fun _ => h1) fun _ => h2

section
variable (s : State)

theorem complete_running (c : Cmd) (status detail : Nat) (r : List Nat) : (s.complete c status detail r).running = s.running := by
  rcases complete_cases s c status detail r with now | ⟨due, waits⟩
  · rw [now, apart_running (writeCpl_apart ..)]
  · rw [waits]; rfl

theorem finish_running (c : Cmd) (status : Nat) (r : List Nat) : (s.finish c status r).running = s.running := complete_running ..

theorem postEvt_running (fns : List Nat) (body : List Byte) (cls : Nat) (mem : Option (LostBy × Nat)) :
    (s.postEvt fns body cls mem).running = s.running := apart_running (postEvt_apart ..)

theorem drainEvts_running : s.drainEvts.running = s.running := by
  unfold State.drainEvts
  refine (running_foldl _ _ (fun t e => ?_) _).trans rfl
  exact running_foldl _ _ (fun _ _ => apart_running (writeEvt_apart ..)) t

theorem drainCpls_running : s.drainCpls.running = s.running := by
  unfold State.drainCpls
  exact (running_foldl _ _ (fun _ _ => apart_running (writeCpl_apart ..)) _).trans rfl

/-- The loss of the table of commands leaves the newel running (R381). -/
theorem tableLost_running : s.tableLost.running = s.running := by
  unfold State.tableLost
  refine (running_foldl _ _ (fun t c => complete_running t c St.aborted 0 []) _).trans ?_
  exact running_foldl _ State.loadAborted (fun _ _ => rfl) s

end

/-! ## Restarts -/

section
variable {s : State}

/-- The confinement of a restart leaves a state whose clk lies in the tread. -/
theorem keepNewel_self (h : s.time.phase < treadClk) : s.keepNewel s = s := by
  simp only [State.keepNewel, Nat.mod_eq_of_lt h]

/-- The row of a restart leaves what its rule leaves. -/
theorem newelRow_next {t u : State} (h : t = u) : (.next (s.keepNewel t) : Host.Outcome State Fault Refusal) = .next (s.keepNewel u) := h ▸ rfl

/-- A running newel stops with the cause of its restart. -/
theorem newelRestart_stops (running : s.newel.running = true) (cause : Nat) :
    s.newelRestart cause = State.alert { s with newel := { s.newel with running := false, cause := cause } } 3 := if_neg (not_refused running)

theorem alert_newel (s : State) (b : Nat) : (s.alert b).newel = s.newel := by
  unfold State.alert
  split
  · rfl
  · rfl

/-- A running newel stops with its cause and its commands as they are, and the reset alert stands (R362, Table 20.6). -/
theorem newelRestart_next (running : s.newel.running = true) (cause : Nat) : ∃ t,
    (.next (s.keepNewel (s.newelRestart cause)) : Host.Outcome State Fault Refusal) = .next t ∧ t.newel.running = false ∧ t.newel.cause = cause
      ∧ t.newel.out = s.newel.out ∧ bit t.board.alerts 3 = true := by
  let u : State := { s with newel := { s.newel with running := false, cause := cause } }
  have kept : (u.alert 3).newel = u.newel := alert_newel u 3
  exact ⟨_, newelRow_next (newelRestart_stops running cause), (congrArg Newel.running kept :), (congrArg Newel.cause kept :),
    (congrArg Newel.out kept :), bit_alert u 3⟩

/-- What the boot ROM leaves of start-up's state where it runs a copy (R461). -/
def State.restartBoot (s : State) (k : Nat) : Boot :=
  let switched := s.newel.activating.isSome && !s.newel.reverted && k / 2 = s.restartSlot
  { s.boot with
    st := 5, slot := k / 2, copy := k % 2, failed := failedBefore (fwOrder s.restartSlot) k
    active := if switched then k / 2 else s.boot.active }

section
variable (stopped : s.newel.running = false) (held : s.boot.st = 5 ∨ s.boot.st = 6)
include stopped held

theorem restart_acts : ¬(s.newel.running || !(s.boot.st = 5 || s.boot.st = 6)) = true := by
  rcases held with st | st
  · simp [stopped, st]
  · simp [stopped, st]

/-- Where a copy passes, the newel runs again and the restart is counted. -/
theorem opRestartDone_runs {k : Nat} (chosen : (fwOrder s.restartSlot).find? (fun k => s.fwPasses k) = some k) (tableBad : Bool) :
    ∃ u : State, s.opRestartDone tableBad = u.starting (s.restartBoot k) ∧ u.running = (true, s.newel.restarts + 1, none) := by
  unfold State.opRestartDone
  rw [if_neg (restart_acts stopped held)]
  dsimp only
  rw [chosen]
  refine ⟨_, rfl, ?_⟩
  refine (running_ite (running_foldl _ _ (fun t c => finish_running t c St.ok []) _) rfl).trans ?_
  have fate (x : Option Cmd) (u : State) (slot st : Nat) :
      (match x with | some c => (u.logFw slot).finish c st [] | none => u : State).running = u.running := by
    cases x with
    | some c => exact finish_running ..
    | none => rfl
  refine (fate ..).trans ((running_ite (postEvt_running ..) rfl).trans ((postEvt_running ..).trans ((drainEvts_running _).trans ?_)))
  exact (running_ite (tableLost_running _) (drainCpls_running _)).trans rfl

/-- Where no copy passes, the module stays in BOOT_FAIL (R461). -/
theorem opRestartDone_fails (none : (fwOrder s.restartSlot).find? (fun k => s.fwPasses k) = none) (tableBad : Bool) :
    s.opRestartDone tableBad = { s with boot := { s.boot with st := 2, failed := 15 } } := by
  unfold State.opRestartDone
  rw [if_neg (restart_acts stopped held)]
  dsimp only
  rw [none]

end
end

/-- Settles O42: a restart stops a running newel with its cause; the boot ROM's choice decides how it ends. -/
theorem newelRows : Obligations.NewelRows := by
  intro s
  refine ⟨fun running => ⟨newelRestart_next running 0, newelRestart_next running 1, fun bad inTread => ?ends⟩, fun activating => ?timeout,
    fun tableBad k stopped held chosen => ?runs, fun tableBad stopped held none => newelRow_next (opRestartDone_fails stopped held none tableBad)⟩
  case ends =>
    have waits : s.opRestartDone bad = s := if_pos (by rw [running]; rfl)
    exact (newelRow_next waits).trans (congrArg Host.Outcome.next (keepNewel_self inTread))
  case timeout => exact ⟨_, newelRow_next (if_pos activating), rfl, rfl⟩
  case runs =>
    obtain ⟨u, done, runs⟩ := opRestartDone_runs stopped held chosen tableBad
    obtain ⟨running, rest⟩ := Prod.mk.inj runs
    obtain ⟨restarts, activating⟩ := Prod.mk.inj rest
    refine ⟨_, newelRow_next done, rfl, rfl, rfl, running, restarts, activating, fun idle => ?_⟩
    have active : (s.restartBoot k).active = s.boot.active := if_neg (by rw [idle]; nofun)
    exact active

end Sys2Proof.Machine

/-!
The settled statement of the shards of a model load (spec/17_trust.md R396, R398; spec/15_wings.md R339).
-/
namespace Sys2Proof.Machine

section
variable {s : State} {w shard copy : Nat} {c : Cmd} {im : Image} {sh : Shard}

/-- The end of a copy: what follows where the wing's protection takes the write, and the load's failure where it does not (R339). -/
def State.copyEnd (x : State × Bool) (w : Nat) (c : Cmd) (im : Image) (shard : Nat) (f : State → State) : State :=
  if x.2 = true then f x.1 else x.1.loadFail w c im shard

/-- A copy whose hash fits counts its shard; the last one ends the load (R396, R397). -/
def State.shardGood (s : State) (w : Nat) (c : Cmd) (im : Image) (shard : Nat) : State :=
  let u := s.modLoad w fun l => { l with written := shard :: l.written, done := l.done + 1 }
  if (u.wing w).load.written.length = im.shards.length then u.loadGood w c im else u

/-- A copy whose hash does not fit is marked bad. -/
def State.shardWrong (s : State) (w : Nat) (c : Cmd) (im : Image) (shard copy : Nat) : State :=
  ((s.modLoad w fun l => { l with wrong := shard :: l.wrong }).copyBad im.id shard copy).copyFailed w c im shard copy

section
variable (running : s.newel.running = true) (loading : s.loading w = some (c, im)) (reading : (s.wing w).load.reading shard = some copy)
  (there : im.shards[shard]? = some sh)
include running loading reading there

theorem opCopyTimeout_ends (got : List Byte) : s.opCopyTimeout w shard got
    = State.copyEnd ((s.readOver w shard copy).shardWrite w sh (got.take (sh.len - 1))) w c im shard
        fun x => x.copyFailed w c im shard copy := by
  unfold State.opCopyTimeout
  rw [if_neg (not_refused running), loading, reading]
  dsimp only
  rw [there]
  rfl

/-- A read writes what it brings of a copy; a copy that is whole is judged by its hash. -/
theorem opShardRead_ends {read : ShardRead} {b : List Byte} {whole : Bool}
    (got : shardGot read sh (im.lost.contains (4 * shard + 2 * copy + 1)) = (b, whole)) : s.opShardRead w shard read
    = State.copyEnd ((s.readOver w shard copy).shardWrite w sh b) w c im shard
        fun x => if !whole then (x.copyBad im.id shard copy).copyFailed w c im shard copy
          else if shake256 64 b = sh.hash then x.shardGood w c im shard else x.shardWrong w c im shard copy := by
  unfold State.opShardRead
  rw [if_neg (not_refused running), loading, reading]
  dsimp only
  rw [there]
  dsimp only
  rw [got]
  dsimp only
  generalize (s.readOver w shard copy).shardWrite w sh b = x
  obtain ⟨x, ok⟩ := x
  cases ok with
  | false => rfl
  | true => rfl

end

/-- Bytes are charged, and written where the range is not read-only to the wing (R153, R339). -/
theorem shardWrite_some (x : State) {b : List Byte} (some : b ≠ []) : x.shardWrite w sh b
    = (x.charge (.some w) Acf.flash b.length).loadWrite w (((x.charge (.some w) Acf.flash b.length).wing w).load.base + sh.destOff) (clean b) :=
  if_neg (by simpa using some)

end

/-- Settles O44: each ending of a copy writes what the copy brought; the wing's protection, then the hash, decide what follows. -/
theorem modelLoadRows : Obligations.ModelLoadRows := by
  intro s w shard c im copy sh running loading reading there q end_
  have ends {t u : State} (h : t = u) : (.next (s.keepModelLoad t) : Host.Outcome State Fault Refusal) = .next (s.keepModelLoad u) := h ▸ rfl
  refine ⟨fun got => ends (opCopyTimeout_ends running loading reading there got), fun kept fits => ends ?good, fun got => ends ?part,
    fun b kept differs => ends ?wrong, fun x b some => ?writes⟩
  case good =>
    have got : shardGot .asStored sh (im.lost.contains (4 * shard + 2 * copy + 1)) = (sh.data, true) := by rw [kept]; rfl
    rw [opShardRead_ends running loading reading there got]
    simp only [if_pos fits]
    rfl
  case part => exact opShardRead_ends running loading reading there rfl
  case wrong =>
    have got : shardGot (.other b) sh (im.lost.contains (4 * shard + 2 * copy + 1)) = (sliceB b 0 sh.len, true) := by rw [kept]; rfl
    rw [opShardRead_ends running loading reading there got]
    simp only [if_neg differs]
    rfl
  case writes =>
    rw [shardWrite_some x some, State.loadWrite, length_clean]

end Sys2Proof.Machine

/-!
The settled statement of monitors, flash upkeep, the log and telemetry (spec/19_service.md R421 to R429; spec/17_trust.md R385, R404;
spec/18_accounting.md R416, R420).
-/
namespace Sys2Proof.Machine

section
variable {s t u : State}

/-- The confinement of a monitor's step leaves a state whose clk lies in the tread. -/
theorem keepMonitor_self (h : s.time.phase < treadClk) : s.keepMonitor s = s := by
  simp only [State.keepMonitor, Nat.mod_eq_of_lt h]

/-- The row of a monitor's step leaves what its rule leaves. -/
theorem monitorRow_next (h : t = u) : (.next (s.keepMonitor t) : Host.Outcome State Fault Refusal) = .next (s.keepMonitor u) := h ▸ rfl

/-! ## Calibration and monitoring (R423 to R426) -/

/-- A change of SVC_BIST sets its bits, and may raise alert bit 0. -/
theorem setBist_svc (s : State) (m : Nat) : (s.setBist m).svc = { s.svc with bist := s.svc.bist ||| m } := by
  unfold State.setBist
  dsimp only
  split
  · exact apart_svc (alert_apart ..)
  · rfl

theorem bit_or_two_pow (x n : Nat) : bit (x ||| 2 ^ n) n = true := by
  rw [bit_eq_testBit, Nat.testBit_or, Nat.testBit_two_pow_self, Bool.or_true]

theorem bit_or_left {x n : Nat} (h : bit x n = true) (y : Nat) : bit (x ||| y) n = true := by
  rw [bit_eq_testBit] at *
  rw [Nat.testBit_or, h, Bool.true_or]

/-- The unit's registers of self-test and calibration, but for PLL, VMON and TSENSE results. -/
def Svc.checks (v : Svc) : Svc := { v with bist := 0 }

theorem setBist_checks (s : State) (m : Nat) : (s.setBist m).svc.checks = s.svc.checks := (congrArg Svc.checks (setBist_svc s m) :)

theorem excludeSensors_checks (s : State) (bad : Nat) :
    (s.excludeSensors bad).svc.checks = { s.svc.checks with tsExcl := s.svc.tsExcl ||| bad } := by
  unfold State.excludeSensors
  dsimp only
  split
  · exact setBist_checks ..
  · rfl

theorem excludeMonitors_checks (s : State) (bad : Nat) :
    (s.excludeMonitors bad).svc.checks = { s.svc.checks with vmExcl := s.svc.vmExcl ||| bad } := by
  unfold State.excludeMonitors
  dsimp only
  split
  · exact setBist_checks ..
  · rfl

theorem judgePll_checks (s : State) (dev : Nat) : (s.judgePll dev).svc.checks = s.svc.checks := by
  unfold State.judgePll
  split
  · exact setBist_checks ..
  · rfl

section
variable {n : Nat}

/-- A bit of SVC_BIST that stands stays. -/
theorem setBist_bit (stands : bit s.svc.bist n = true) (m : Nat) : bit (s.setBist m).svc.bist n = true := by
  rw [setBist_svc]
  exact bit_or_left stands m

theorem judgePll_bit (stands : bit s.svc.bist n = true) (dev : Nat) : bit (s.judgePll dev).svc.bist n = true := by
  unfold State.judgePll
  split
  · exact setBist_bit stands 1
  · exact stands

theorem excludeMonitors_bit (stands : bit s.svc.bist n = true) (bad : Nat) : bit (s.excludeMonitors bad).svc.bist n = true := by
  unfold State.excludeMonitors
  dsimp only
  split
  · rw [setBist_svc]
    exact bit_or_left stands 2
  · exact stands

end

/-- A PLL beyond 100 ppm is marked (R426). -/
theorem judgePll_marks {dev : Nat} (far : 1600 < dev) (s : State) : bit (s.judgePll dev).svc.bist 0 = true := by
  unfold State.judgePll
  rw [if_pos far, setBist_svc]
  exact bit_or_two_pow s.svc.bist 0

/-! ## SERDES_CAL (R423) -/

theorem upFrom_eq_range' (lo n : Nat) : upFrom lo n = List.range' lo n := by
  induction n generalizing lo with
  | zero => rfl
  | succ n ih => rw [upFrom, ih, List.range'_succ]

/-- A lane's taps after a slice: each has moved by one step at most. -/
def adaptTaps (old step : List Int) : List Int :=
  (upFrom 0 (max old.length step.length)).map fun i => old.getD i 0 + max (-1) (min 1 (step.getD i 0))

theorem adaptTaps_near (old step : List Int) (i : Nat) : ((adaptTaps old step).getD i 0 - old.getD i 0).natAbs ≤ 1 := by
  rw [adaptTaps, upFrom_eq_range', List.getD_eq_getElem?_getD, List.getElem?_map]
  by_cases within : i < max old.length step.length
  · rw [List.getElem?_range' within, Option.map_some, Option.getD_some, Nat.zero_add, Nat.one_mul]
    omega
  · have past : old.length ≤ i := (le_max_left ..).trans (not_lt.1 within)
    rw [List.getElem?_eq_none (by rw [List.length_range']; exact not_lt.1 within), List.getD_eq_default _ _ past,
      Option.map_none, Option.getD_none]
    decide

/-- The taps of a lane in service, and those that RETRAIN restores. -/
theorem opSerdesCal_taps {p : Nat} (on : s.laneOn p = true) (step : List Int) (atLimit done : Bool) :
    let old := (Tab.find s.svc.taps p).getD []
    let v := (s.opSerdesCal p step atLimit done).svc
    v.taps = Tab.set s.svc.taps p (adaptTaps old step)
      ∧ v.tapsDone = (if done then Tab.set s.svc.tapsDone p (adaptTaps old step) else s.svc.tapsDone)
      ∧ v.bist = if atLimit && p < 9 then s.svc.bist ||| 2 ^ (3 + p) else s.svc.bist := by
  have marked (u : State) (b : Bool) : (if b = true then u.setBist (2 ^ (3 + p)) else u).svc
      = { u.svc with bist := if b = true then u.svc.bist ||| 2 ^ (3 + p) else u.svc.bist } := by
    cases b with
    | false => rfl
    | true => exact setBist_svc ..
  have ended (u : State) :
      let v := (if done = true then u.calEnd p else u).svc
      v.taps = u.svc.taps ∧ v.tapsDone = u.svc.tapsDone ∧ v.bist = u.svc.bist := by
    cases done with
    | false => exact ⟨rfl, rfl, rfl⟩
    | true => exact ⟨rfl, rfl, rfl⟩
  unfold State.opSerdesCal
  rw [if_neg (not_refused on)]
  obtain ⟨taps, tapsDone, bist⟩ := ended _
  exact ⟨taps.trans (congrArg Svc.taps (marked ..) :), tapsDone.trans (congrArg Svc.tapsDone (marked ..) :),
    bist.trans (congrArg Svc.bist (marked ..) :)⟩

/-! ## Blocks of flash (R428, R429) -/

/-- A block joins those retired, and the capacity comes from a reserve or the image store (R429). -/
def Svc.spend (v : Svc) (block : Nat) : Svc :=
  let v := { v with flRetired := block :: v.flRetired }
  if block < sysBlocks then { v with flSys := v.flSys - 1 }
  else if v.flSpare > 0 then { v with flSpare := v.flSpare - 1 } else { v with flTaken := v.flTaken + 1 }

theorem spend_retires (v : Svc) (block : Nat) : block ∈ (v.spend block).flRetired := by
  have listed : (v.spend block).flRetired = block :: v.flRetired := by
    unfold Svc.spend
    dsimp only
    split
    · rfl
    · split
      · rfl
      · rfl
  rw [listed]
  exact List.mem_cons_self

/-- A block that retires is one of those retired, whatever becomes of its data (R429). -/
theorem flashRetire_retires {block : Nat} (there : block < 262144) (lost : Option (Nat × Nat × Nat)) :
    block ∈ (s.flashRetire block lost).svc.flRetired := by
  unfold State.flashRetire
  split
  · next out =>
    have held : s.svc.flRetired.contains block = true := by simpa [not_le.2 there] using out
    exact List.contains_iff_mem.1 held
  · have listed := spend_retires s.svc block
    dsimp only
    cases lost with
    | none =>
      split
      · exact listed
      · exact iteInduction (motive := fun u : State => block ∈ u.svc.flRetired) (fun _ => listed) fun _ => listed
    | some x =>
      split
      · exact listed
      · exact iteInduction (motive := fun u : State => block ∈ u.svc.flRetired) (fun _ => listed) fun _ => listed

/-- An erasure counts, and the 3,000th retires the block (R428, R429). -/
theorem flashErased_counts {block : Nat} (few : Tab.cnt s.svc.flErase block < 2999) :
    s.flashErased block = { s with svc := { s.svc with flErase := Tab.bump s.svc.flErase block 1 } } := by
  refine if_neg ?_
  show ¬Tab.cnt (Tab.bump s.svc.flErase block 1) block ≥ 3000
  rw [Tab.bump, cnt_set_same]
  omega

theorem flashErased_retires {block : Nat} (many : 2999 ≤ Tab.cnt s.svc.flErase block) (there : block < 262144) :
    block ∈ (s.flashErased block).svc.flRetired := by
  have worn : Tab.cnt (Tab.bump s.svc.flErase block 1) block ≥ 3000 := by
    rw [Tab.bump, cnt_set_same]
    omega
  unfold State.flashErased
  dsimp only
  rw [if_pos worn]
  exact flashRetire_retires there none

theorem opFlash_erases {block : Nat} (free : block < sysBlocks ∨ s.flashUsed block = false) :
    s.opFlash (.eraseDone block) = s.flashErased block := by
  refine if_neg ?_
  rcases free with sys | unused
  · simp [not_le.2 sys]
  · simp [unused]

/-- A block that is rewritten is counted. -/
def State.refreshed (s : State) : State := { s with svc := { s.svc with flRefreshed := min 262143 (s.svc.flRefreshed + 1) } }

/-- A rewrite of a system block, of one without data, or with no free block moves nothing. -/
theorem flashRewrite_stays {block : Nat}
    (still : block < sysBlocks ∨ s.refreshed.flashUsed block = false ∨ s.refreshed.flashNext (flashChan block) = none) :
    s.flashRewrite block = s.refreshed := by
  unfold State.flashRewrite
  rcases still with sys | unused | full
  · exact if_pos (by simp [sys])
  · exact if_pos (by simp [show State.flashUsed { s with svc := _ } block = false from unused])
  · unfold State.refreshed at full
    dsimp only at full ⊢
    rw [full]
    exact ite_self _

/-- A rewrite moves the data to the next free block, and erases the one that held it (R428). -/
theorem flashRewrite_moves {block b : Nat} (data : sysBlocks ≤ block) (used : s.refreshed.flashUsed block = true)
    (next : s.refreshed.flashNext (flashChan block) = some b) :
    s.flashRewrite block = (s.refreshed.flashMove block b).flashErased block := by
  unfold State.flashRewrite
  unfold State.refreshed at used next
  dsimp only at used next ⊢
  rw [next, used, decide_eq_false (not_lt.2 data)]
  rfl

/-- A good copy of a slot's firmware replaces the other (R385). -/
theorem opFlash_copies {slot copy : Nat} {f : FwCopy} (there : Tab.find s.trust.fw (2 * (slot % 2) + (1 - copy % 2)) = some f)
    (passes : s.fwPasses (2 * (slot % 2) + (1 - copy % 2)) = true) : s.opFlash (.fwCopy slot copy)
    = { s with trust := { s.trust with fw := Tab.set s.trust.fw (2 * (slot % 2) + copy % 2) f } } := by
  unfold State.opFlash
  dsimp only
  rw [there]
  exact if_pos passes

/-- The blocks of a channel beyond the system region that hold data and serve. -/
def State.flashHeld (s : State) (ch : Nat) : List Nat :=
  flashBlocks ch fun b => b ≥ sysBlocks && s.flashUsed b && !s.svc.flRetired.contains b

/-- The least worn data of a channel moves where the counts differ by more than 200 (R428). -/
theorem flashLevel_moves {ch cold top hot : Nat}
    (least : pickBlock (fun x m => Tab.cnt s.svc.flErase x < Tab.cnt s.svc.flErase m) (s.flashHeld ch) = some cold)
    (most : pickBlock (fun x m => Tab.cnt s.svc.flErase m < Tab.cnt s.svc.flErase x) (s.flashHeld ch) = some top)
    (worn : pickBlock (fun x m => Tab.cnt s.svc.flErase m < Tab.cnt s.svc.flErase x) (s.flashFree ch) = some hot)
    (apart : Tab.cnt s.svc.flErase cold + 200 < Tab.cnt s.svc.flErase top) :
    s.flashLevel ch = (s.flashMove cold hot).flashErased cold := by
  unfold State.flashHeld at least most
  unfold State.flashLevel
  dsimp only
  rw [least, most, worn]
  exact if_pos apart

/-! ## The end of a pass, the log and deferred slices (R404, R421, R422) -/

theorem modBg_same (s : State) (n : Nat) (f : BgTask → BgTask) : (s.modBg n f).bg n = f (s.bg n) := by
  show (Tab.find (Tab.set s.svc.bg n (f (s.bg n))) n).getD {} = f (s.bg n)
  rw [find_set_same, Option.getD_some]

theorem bgEnd_last (s : State) (n : Nat) : ((s.bgEnd n).bg n).last = s.tread % 2 ^ 47 := congrArg BgTask.last (modBg_same s n _)

/-- The oldest queued entries are stored while the newel runs and the log has room (R404). -/
theorem opLogout_stores {n : Nat} (running : s.newel.running = true) (room : s.trust.log.length + n ≤ 4194304)
    (queued : n ≤ s.trust.logq.length) : (s.opLogout n).trust.log = s.trust.log ++ s.trust.logq.take n
      ∧ (s.opLogout n).trust.logq = s.trust.logq.drop n ∧ (s.opLogout n).trust.chain = s.trust.chain := by
  unfold State.opLogout
  rw [if_neg (not_refused running), Nat.min_eq_left queued]
  refine ⟨congrArg (s.trust.log ++ ·) (List.take_of_length_le ?_), rfl, rfl⟩
  rw [List.length_take]
  omega

/-- A deferred slice is counted, whether it is told or not (R422). -/
theorem opSliceDefer_counts (s : State) (n : Nat) :
    ((s.opSliceDefer n).bg n).deferred = min ((s.bg n).deferred + 1) 0xFFFF := by
  have told (u : State) (b : Bool) (fns : List Nat) (body : List Byte) (cls : Nat) (mem : Option (LostBy × Nat)) :
      (if b = true then u.postEvt fns body cls mem else u).bg n = u.bg n :=
    congrArg (fun v : Svc => (Tab.find v.bg n).getD {}) (apart_svc (apart_ite (postEvt_apart ..) rfl))
  exact congrArg BgTask.deferred ((told ..).trans (modBg_same s n _))

end

/-- Settles O47: each step's rule, taken by what it finds. -/
theorem monitorsAct : Obligations.MonitorsAct := by
  intro s
  refine ⟨fun p step atLimit done on => ?serdes, fun p step atLimit done off inTread => ?offLane, fun bad => ?temp, fun pll ref mon => ?monitor,
    fun block => ⟨fun still => monitorRow_next (flashRewrite_stays still), fun b data used next => monitorRow_next (flashRewrite_moves data used next)⟩,
    fun block lost there => ⟨_, rfl, flashRetire_retires there lost⟩, fun block free => ⟨fun few => ?erased, fun many there => ?worn⟩,
    fun block data used => monitorRow_next ?holds, fun slot copy f there passes => monitorRow_next (opFlash_copies there passes),
    fun ch cold top hot least most worn apart => monitorRow_next (flashLevel_moves least most worn apart), ⟨_, rfl, bgEnd_last _ 10⟩,
    fun n running room queued => ⟨_, rfl, opLogout_stores running room queued⟩, fun n => rfl, fun task => ⟨_, rfl, opSliceDefer_counts s task.val⟩⟩
  case serdes =>
    obtain ⟨taps, tapsDone, bist⟩ := opSerdesCal_taps on step atLimit done
    refine ⟨_, rfl, fun limit hall => ?marks, fun i => ?near, fun ends => ?settings⟩
    case marks =>
      rw [if_pos (by rw [limit, decide_eq_true hall]; rfl)] at bist
      exact (congrArg (bit · (3 + p.val)) bist).trans (bit_or_two_pow ..)
    case near =>
      have moved := congrArg (fun v => ((Tab.find v p.val).getD []).getD i 0) taps
      rw [find_set_same, Option.getD_some] at moved
      have near := adaptTaps_near ((Tab.find s.svc.taps p.val).getD []) step i
      rw [← moved] at near
      exact near
    case settings =>
      rw [if_pos ends] at tapsDone
      exact (congrArg (Tab.find · p.val) tapsDone).trans ((find_set_same ..).trans
        ((congrArg (Tab.find · p.val) taps).trans (find_set_same ..)).symm)
  case offLane =>
    have idle : s.opSerdesCal p.val step atLimit done = s := if_pos (refused (ne_true_of_eq_false off))
    exact (monitorRow_next idle).trans (congrArg Host.Outcome.next (keepMonitor_self inTread))
  case temp =>
    have checks := excludeSensors_checks s bad.toNat
    exact ⟨_, rfl, congrArg (· + 1) (congrArg Svc.ecal checks :), (congrArg Svc.tsExcl checks :)⟩
  case monitor =>
    have checks := excludeMonitors_checks ((s.judgePll pll).judgePll ref) mon.toNat
    have judged : ((s.judgePll pll).judgePll ref).svc.checks = s.svc.checks := (judgePll_checks ..).trans (judgePll_checks ..)
    refine ⟨_, rfl, (congrArg Svc.vmExcl checks :).trans (congrArg (· ||| mon.toNat) (congrArg Svc.vmExcl judged :)), fun far => ?_⟩
    refine excludeMonitors_bit ?_ mon.toNat
    rcases far with pll | ref
    · exact judgePll_bit (judgePll_marks pll s) ref
    · exact judgePll_marks ref _
  case erased => exact monitorRow_next ((opFlash_erases free).trans (flashErased_counts few))
  case worn => exact ⟨_, monitorRow_next (opFlash_erases free), flashErased_retires many there⟩
  case holds => exact if_pos (by simp [used, data])

end Sys2Proof.Machine
